-- ==== Sys2Proof/Word.lean ====
section
/-! DEFINITION. The word types of the SV9 and their plainest arithmetic. -/

namespace Sys2Proof

/-- A 32-bit element, a slot word or a literal. -/
abbrev W32 := BitVec 32

/-- A 64-bit scalar register, system register or address. -/
abbrev W64 := BitVec 64

/-- A byte. -/
abbrev Byte := BitVec 8

end Sys2Proof
end

