-- ==== Sys2Proof/Config.lean ====
section
/-! DEFINITION. What a part fixes and the manual does not give, and the free values: constants without a body, so that
nothing can be proved of their values. -/

namespace Sys2Proof.Config

/-- The n-th free value of w bits: a value the manual calls undefined or leaves open (R8; assumption 1). -/
opaque freeBits (n w : Nat) : BitVec w

/-- The byte at address a that the n-th read of free values finds (R8; assumption 1). -/
opaque freeCell (n a : Nat) : BitVec 8

/-- The n-th free choice between two outcomes the manual allows (R23, R70, R88, R116; assumption 1). -/
opaque freeChoice (n : Nat) : Bool

/-- The slice of a stack's memory-side cache, among six, that a line's address picks (R31; assumption 8). -/
opaque sliceHash (line : Nat) : Nat

/-- Isobar's coefficient of an island, in picojoules per unit or per byte (R367; assumption 8). -/
opaque kappa (island : Nat) : Nat

/-- Atomic operations other than add and exchange perform on host memory, although BHP has no message for them (R256, R348, R351;
assumption 85). -/
opaque hostAtomics : Bool

/-- The UCIe module among four that the line hash picks (R346; assumption 8). -/
opaque moduleHash (line : Nat) : Nat

/-- The Galtum Link port that carries a destination package and lane (R86, R360; assumption 8). -/
opaque portHash (pkg lane : Nat) : Nat

/-- The ordering lane of a port, 0 to 15, that carries a destination package and line (R86, R359; assumption 8). -/
opaque laneHash (pkg line : Nat) : Nat

/-- SHAKE256 with 64 bytes of output (R370; assumption 8). -/
opaque shake256 (xs : List (BitVec 8)) : BitVec 512

/-- The 64 bytes of a digest, in the order the hash gives them (assumption 8). -/
def digestBytes (x : BitVec 512) : List (BitVec 8) := (List.range 64).map fun k => x.extractLsb' (8 * k) 8

/-- The Chart as the bytes that are hashed, from its entries that differ from a new part's (R370; assumption 8). -/
opaque chartBytes (xs : List (List Nat)) : List (BitVec 8)

/-- Byte n of the ML-DSA-65 signature by the device identity key over some bytes (R371; assumption 8). -/
opaque identitySign (xs : List (BitVec 8)) (n : Nat) : BitVec 8

/-- The certificate from Baulaka that binds the device identity key to the part (R371; assumption 8). -/
opaque certificate : List (BitVec 8)

/-- Requests that the buffer of one lane of a Galtum Link port holds (R359; assumption 8). -/
opaque laneBuffer : Nat

/-- The ROM version, the firmware image and the fused configuration that the ROM measures (R370; assumption 8). -/
opaque romItem (n : Nat) : List (BitVec 8)

end Sys2Proof.Config
end

