-- ==== Sys2Proof/Syntax.lean ====
section
/-! DEFINITION. The syntax of the SV9: one constructor of `Instr` for each row of spec/opcode_table.json. The 230 rows
with an encoding are slot operations; their arguments are the encoded fields under the table's names (d, a, b, t, q, v:
registers; g: the guard of R142; the rest as the row's format lays them out). The 81 rows without an encoding are the
events of spec/95: steps that Meridian, an engine, the host or the pod takes; their arguments say which one and carry
what comes from outside (a partition is numbered 4 * core + partition, 0 to 1,535; k is a place in a list of State). -/

namespace Sys2Proof

/-- The immediate of an SI or SL operation (R145): the field's own bits, or the 32-bit literal attached to S0. -/
inductive Imm (n : Nat) where
  | fld (v : BitVec n)
  | lit (v : BitVec 32)
  deriving DecidableEq, Repr

/-- The 64-bit value of an immediate: sign-extended from its field or from the literal (R145, R146). -/
def Imm.val {n : Nat} : Imm n → BitVec 64
  | .fld v => v.signExtend 64
  | .lit v => v.signExtend 64

/-- A late fault of R377. -/
inductive LateFault where
  | shadowfull (addr : BitVec 64)
  | poison (space : BitVec 8) (addr : BitVec 56)
  | handle (h : BitVec 6)
  deriving DecidableEq, Repr

/-- A source of a stop request (R321) that reaches a partition from outside its own bundles. -/
inductive StopSource where
  | preempt (guaranteed : Bool)
  | relocate (reg : BitVec 3)
  deriving DecidableEq, Repr

/-- A REGWR of requester `rq` with its value (R348). -/
structure RegWr where
  rq : Nat
  v  : BitVec 64
  deriving DecidableEq, Repr

/-- A REGWR of requester `rq` with its value, or without one a REGRD (R348). -/
structure RegMsg where
  rq : Nat
  v  : Option (BitVec 64)
  deriving DecidableEq, Repr

/-- A turn of the k-th released command, a copy: the piece it performs, by run and number, or the whole of its next run (R73, R87). -/
structure CopyTurn where
  k     : Nat
  piece : Option (Nat × Nat)
  deriving DecidableEq, Repr

/-- One 128-byte line of a contribution (R98): its sender and the line's place in the sender's tile data. -/
structure ContribLine where
  pkg   : Nat
  sd    : Nat
  entry : Nat
  line  : Nat
  data  : BitVec 1024
  poisoned : Bool
  deriving DecidableEq, Repr

/-- The access of this package that a home outside it answers: the k-th pending read of a partition, the k-th store it has released,
a turn of a released command, the next send of a collective entry or its stamp, the word a partition waits for, what an entry writes as
a line arrives or as its deadline passes, the k-th line a core has prefetched, or a pin of a page (R16, R19, R100, R102, R262, R348,
R359). -/
inductive Asker where
  | read (p k : Nat)
  | store (p k : Nat)
  | cmd (x : CopyTurn)
  | send (sd e : Nat)
  | wait (p : Nat)
  | arrival (sd e : Nat) (c : Option ContribLine)
  | prefetch (core k : Nat)
  | pin (page : Nat)
  | meridian (asid va : Nat)
  deriving DecidableEq, Repr

/-- A control-state register of a partition, which its Vane copy holds too (R329): a scalar, a predicate, a loop counter, a balance
or CONT. -/
inductive CtlReg where
  | s (n : Nat)
  | p (n : Nat)
  | lc (k : Nat)
  | bgi
  | bgm
  | cont
  deriving DecidableEq, Repr

/-- A granule of the register file or of the duplicate set: one vector register, one mask or one control-state register (R331). -/
inductive RegBank where
  | v (n : Nat)
  | m (n : Nat)
  | ctl (r : CtlReg)
  deriving DecidableEq, Repr

/-- What a self-test found (R339): the Chart indices that fail, faulty processing elements by physical row and column (R341),
partitions whose control island or Vane copy fails, a failing checksum row, column or checker, and failing logic shared by the core. -/
structure SelfTest where
  failing : List Nat
  pes     : List (Nat × Nat)
  parts   : BitVec 4
  checker : Bool
  shared  : Bool
  deriving DecidableEq, Repr

/-- How bring-up goes (R369): the step that fails with its sideband code, the stacks that fail, the resources (core, Chart index)
that step 3 retires or, in mode 1, returns, what the self-tests of mode 1 find outside the Chart by core (R339), and the lowest and
highest protocol version and the capability bit that the host offers (R347). -/
structure BringUp where
  code     : Nat
  failed   : BitVec 8
  failing  : List (Nat × Nat)
  parts    : List (Nat × BitVec 4)
  checkers : List Nat
  shared   : List Nat
  bhpLow   : Nat
  bhp      : Nat
  hatom    : Bool
  deriving DecidableEq, Repr

/-- Operations of the AT message (R348). -/
inductive AtOp where
  | add | xchg | cas | bad
  deriving DecidableEq, Repr

/-- A request of another package over Galtum Link (R16, R359), performed at its home here; a write's data may be poisoned (R331). -/
inductive RemoteReq where
  | read (addr n : Nat)
  | write (addr : Nat) (data : List (BitVec 8)) (bad : Bool)
  | atom (addr size : Nat) (op : BitVec 3) (y : BitVec 64)
  | cas (addr size : Nat) (e y : BitVec 64)
  | pin (page : Nat) (up : Bool)
  | monitor (addr : Nat)
  deriving DecidableEq, Repr

/-- The lowest and the highest Galtum Link version that the peer of a port offers (R363). -/
structure LinkOffer where
  low  : Nat
  high : Nat
  deriving DecidableEq, Repr

/-- How a request of another package comes in: performed as it arrives, put into the buffer of a lane of a port, or the oldest of such
a buffer (R359). -/
inductive Arrival where
  | now
  | queued (port lane : Nat)
  | oldest (port lane : Nat)
  deriving DecidableEq, Repr

/-- The package a request comes from, and how it comes in (R16, R359). -/
structure Sender where
  src : Nat
  way : Arrival
  deriving DecidableEq, Repr

/-- A soft error or hardware fault (R327) and where it strikes: a comparison of the Vane copy or a residue fails; a bit of a
control-state register inverts, in the partition or in its Vane copy; a bit of a drain output; corrected and uncorrectable words of
each store; a row of HBM4 repaired; a parity error in a cache; a bit of a tile image; a flit on a UCIe module. -/
inductive SoftErr where
  | vane (p : Nat)
  | residue (p : Nat)
  | flip (p : Nat) (r : CtlReg) (bit : Nat) (own : Bool)
  | bufCorrected (p : Nat)
  | journal (p line : Nat)
  | storeBuf (p k : Nat)
  | dupReg (p : Nat) (r : RegBank)
  | mreg (p r : Nat)
  | rowRepair (addr : Nat)
  | ucieFlit (m : Nat)
  | drain (core row col bit : Nat)
  | corrected (core idx : Nat)
  | memCorrected (addr : Nat)
  | memLine (addr : Nat)
  | spLine (core line : Nat)
  | slot (core ring idx : Nat)
  | statBuf (p b : Nat)
  | accRow (core tile row : Nat)
  | vreg (p r : Nat)
  | ctlReg (p : Nat) (r : CtlReg)
  | cacheParity (core : Nat)
  | tileData (core line bit : Nat)
  | cacheLine (addr : Nat)
  deriving DecidableEq, Repr

/-- The instructions and events of spec/opcode_table.json, one constructor for each row. -/
inductive Instr where
  /-- R169. Adds two scalar registers, wrapping to the operand width. -/
  | sadd (d : BitVec 5) (a : BitVec 5) (b : BitVec 5) (u : BitVec 1) (w : BitVec 1) (g : BitVec 5)
  /-- R169. Subtracts one scalar register from another, wrapping to the operand width. -/
  | ssub (d : BitVec 5) (a : BitVec 5) (b : BitVec 5) (u : BitVec 1) (w : BitVec 1) (g : BitVec 5)
  /-- R169. Multiplies two scalar registers and keeps the low bits. -/
  | smul (d : BitVec 5) (a : BitVec 5) (b : BitVec 5) (u : BitVec 1) (w : BitVec 1) (g : BitVec 5)
  /-- R169. Writes the high half of the product of two scalar registers. -/
  | smulh (d : BitVec 5) (a : BitVec 5) (b : BitVec 5) (u : BitVec 1) (w : BitVec 1) (g : BitVec 5)
  /-- R169. Divides two scalar registers, rounding toward zero; division by zero gives all ones. -/
  | sdiv (d : BitVec 5) (a : BitVec 5) (b : BitVec 5) (u : BitVec 1) (w : BitVec 1) (g : BitVec 5)
  /-- R169. Writes the remainder of the scalar division; division by zero gives the dividend. -/
  | srem (d : BitVec 5) (a : BitVec 5) (b : BitVec 5) (u : BitVec 1) (w : BitVec 1) (g : BitVec 5)
  /-- R169. Writes the smaller of two scalar registers. -/
  | smin (d : BitVec 5) (a : BitVec 5) (b : BitVec 5) (u : BitVec 1) (w : BitVec 1) (g : BitVec 5)
  /-- R169. Writes the larger of two scalar registers. -/
  | smax (d : BitVec 5) (a : BitVec 5) (b : BitVec 5) (u : BitVec 1) (w : BitVec 1) (g : BitVec 5)
  /-- R169. Bitwise AND of two scalar registers. -/
  | sand (d : BitVec 5) (a : BitVec 5) (b : BitVec 5) (u : BitVec 1) (w : BitVec 1) (g : BitVec 5)
  /-- R169. Bitwise OR of two scalar registers. -/
  | sor (d : BitVec 5) (a : BitVec 5) (b : BitVec 5) (u : BitVec 1) (w : BitVec 1) (g : BitVec 5)
  /-- R169. Bitwise XOR of two scalar registers. -/
  | sxor (d : BitVec 5) (a : BitVec 5) (b : BitVec 5) (u : BitVec 1) (w : BitVec 1) (g : BitVec 5)
  /-- R169. Bitwise AND of one scalar register with the complement of another. -/
  | sandn (d : BitVec 5) (a : BitVec 5) (b : BitVec 5) (u : BitVec 1) (w : BitVec 1) (g : BitVec 5)
  /-- R169. Shifts a scalar register left by a register amount. -/
  | sshl (d : BitVec 5) (a : BitVec 5) (b : BitVec 5) (u : BitVec 1) (w : BitVec 1) (g : BitVec 5)
  /-- R169. Shifts a scalar register right logically by a register amount. -/
  | sshr (d : BitVec 5) (a : BitVec 5) (b : BitVec 5) (u : BitVec 1) (w : BitVec 1) (g : BitVec 5)
  /-- R169. Shifts a scalar register right arithmetically by a register amount. -/
  | ssra (d : BitVec 5) (a : BitVec 5) (b : BitVec 5) (u : BitVec 1) (w : BitVec 1) (g : BitVec 5)
  /-- R169. Rotates a scalar register right by a register amount. -/
  | srot (d : BitVec 5) (a : BitVec 5) (b : BitVec 5) (u : BitVec 1) (w : BitVec 1) (g : BitVec 5)
  /-- R169. Adds a signed immediate or the literal to a scalar register. -/
  | saddSi (d : BitVec 5) (a : BitVec 5) (i : Imm 10) (g : BitVec 5)
  /-- R169. Multiplies a scalar register by an immediate. -/
  | smulSi (d : BitVec 5) (a : BitVec 5) (i : Imm 10) (g : BitVec 5)
  /-- R169. Bitwise AND of a scalar register with an immediate. -/
  | sandSi (d : BitVec 5) (a : BitVec 5) (i : Imm 10) (g : BitVec 5)
  /-- R169. Bitwise OR of a scalar register with an immediate. -/
  | sorSi (d : BitVec 5) (a : BitVec 5) (i : Imm 10) (g : BitVec 5)
  /-- R169. Bitwise XOR of a scalar register with an immediate. -/
  | sxorSi (d : BitVec 5) (a : BitVec 5) (i : Imm 10) (g : BitVec 5)
  /-- R169. Smaller of a scalar register and an immediate. -/
  | sminSi (d : BitVec 5) (a : BitVec 5) (i : Imm 10) (g : BitVec 5)
  /-- R169. Larger of a scalar register and an immediate. -/
  | smaxSi (d : BitVec 5) (a : BitVec 5) (i : Imm 10) (g : BitVec 5)
  /-- R169. Shifts a scalar register left by an immediate amount. -/
  | sshlSi (d : BitVec 5) (a : BitVec 5) (i : Imm 10) (g : BitVec 5)
  /-- R169. Shifts a scalar register right logically by an immediate amount. -/
  | sshrSi (d : BitVec 5) (a : BitVec 5) (i : Imm 10) (g : BitVec 5)
  /-- R169. Shifts a scalar register right arithmetically by an immediate amount. -/
  | ssraSi (d : BitVec 5) (a : BitVec 5) (i : Imm 10) (g : BitVec 5)
  /-- R169. Rotates a scalar register right by an immediate amount. -/
  | srotSi (d : BitVec 5) (a : BitVec 5) (i : Imm 10) (g : BitVec 5)
  /-- R170. Counts leading zero bits of a scalar register. -/
  | sclz (d : BitVec 5) (a : BitVec 5) (u : BitVec 1) (w : BitVec 1) (g : BitVec 5)
  /-- R170. Counts trailing zero bits of a scalar register. -/
  | sctz (d : BitVec 5) (a : BitVec 5) (u : BitVec 1) (w : BitVec 1) (g : BitVec 5)
  /-- R170. Counts one bits of a scalar register. -/
  | spopc (d : BitVec 5) (a : BitVec 5) (u : BitVec 1) (w : BitVec 1) (g : BitVec 5)
  /-- R170. Sign- or zero-extends the low 8, 16 or 32 bits of a scalar register. -/
  | sext (d : BitVec 5) (a : BitVec 5) (z : BitVec 1) (n : BitVec 2) (g : BitVec 5)
  /-- R170. Extracts a bit field named by a register and extends it. -/
  | sbfx (d : BitVec 5) (a : BitVec 5) (b : BitVec 5) (u : BitVec 1) (g : BitVec 5)
  /-- R170. Inserts low bits of a register into a bit field of the destination. -/
  | sbfi (d : BitVec 5) (a : BitVec 5) (b : BitVec 5) (g : BitVec 5)
  /-- R170. Copies a scalar register. -/
  | smov (d : BitVec 5) (a : BitVec 5) (g : BitVec 5)
  /-- R170. Loads a sign-extended immediate or the literal into a scalar register. -/
  | smovi (d : BitVec 5) (i : Imm 15) (g : BitVec 5)
  /-- R171. Compares two scalar registers under a condition and writes a predicate. -/
  | scmp (d : BitVec 5) (a : BitVec 5) (b : BitVec 5) (w : BitVec 1) (c : BitVec 3) (g : BitVec 5)
  /-- R171. Compares a scalar register with an immediate and writes a predicate. -/
  | scmpSi (d : BitVec 5) (a : BitVec 5) (i : Imm 7) (c : BitVec 3) (g : BitVec 5)
  /-- R172. Selects one of two scalar registers by a predicate. -/
  | ssel (d : BitVec 5) (a : BitVec 5) (b : BitVec 5) (n : BitVec 1) (p : BitVec 4) (g : BitVec 5)
  /-- R173. Combines two predicates through a truth table. -/
  | pset (d : BitVec 5) (a : BitVec 5) (b : BitVec 5) (t : BitVec 4) (g : BitVec 5)
  /-- R175. Adds or subtracts two fp32 values with one rounding. -/
  | sfadd (d : BitVec 5) (a : BitVec 5) (b : BitVec 5) (s : BitVec 1) (g : BitVec 5)
  /-- R175. Multiplies two fp32 values with one rounding. -/
  | sfmul (d : BitVec 5) (a : BitVec 5) (b : BitVec 5) (g : BitVec 5)
  /-- R175. Fused multiply-add of fp32 values into the destination. -/
  | sffma (d : BitVec 5) (a : BitVec 5) (b : BitVec 5) (n : BitVec 1) (g : BitVec 5)
  /-- R176. Converts between fp32 and another format in a given rounding mode and form. -/
  | sfcvt (d : BitVec 5) (a : BitVec 5) (f : BitVec 4) (k : BitVec 1) (m : BitVec 2) (t : BitVec 1) (w : BitVec 1) (g : BitVec 5)
  /-- R177. Compares two fp32 values and writes a predicate. -/
  | sfcmp (d : BitVec 5) (a : BitVec 5) (b : BitVec 5) (c : BitVec 3) (g : BitVec 5)
  /-- R186. Reads a system register into a scalar register. -/
  | sget (d : BitVec 5) (s : BitVec 10) (g : BitVec 5)
  /-- R186. Writes a system register from a scalar register. -/
  | sset (d : BitVec 5) (s : BitVec 10) (g : BitVec 5)
  /-- R178. PC-relative branch. -/
  | br (o : BitVec 20) (g : BitVec 5)
  /-- R178. PC-relative call that links into s31. -/
  | call (o : BitVec 20) (g : BitVec 5)
  /-- R178. Register-indirect transfer with an optional link. -/
  | bri (d : BitVec 5) (a : BitVec 5) (g : BitVec 5)
  /-- R178. Returns to the address in s31. -/
  | ret (g : BitVec 5)
  /-- R181. Starts a modulo-scheduled hardware loop. -/
  | loop (a : BitVec 5) (b : BitVec 12) (s : BitVec 3) (g : BitVec 5)
  /-- R183. Ends the innermost loop after draining it, continuing at a target. -/
  | loopx (o : BitVec 20) (g : BitVec 5)
  /-- R180. Raises SWTRAP with a 20-bit code. -/
  | trap (c : BitVec 20) (g : BitVec 5)
  /-- R180. Raises BRK with a 20-bit code. -/
  | brk (c : BitVec 20) (g : BitVec 5)
  /-- R302. Marks the task as triggered at the commit of its interval. -/
  | trig (g : BitVec 5)
  /-- R303. Ends the task after its stores and commands complete and frees its resources. -/
  | exit (g : BitVec 5)
  /-- R311. Stops the task voluntarily, or ends continuation mode. -/
  | yield (g : BitVec 5)
  /-- R312. Sets the continuation address CONT. -/
  | cont (o : BitVec 20) (g : BitVec 5)
  /-- R320. Ends a trap-service task and applies TCTL.ACT to the served task. -/
  | tret (g : BitVec 5)
  /-- R304. Quiesces a core: stops dispatch to it and exits the task. -/
  | halt (g : BitVec 5)
  /-- R209. Element-wise floating-point add. -/
  | vaddF (d : BitVec 5) (a : BitVec 5) (b : BitVec 5) (m : BitVec 3) (t : BitVec 2) (g : BitVec 5)
  /-- R209. Element-wise floating-point subtract. -/
  | vsubF (d : BitVec 5) (a : BitVec 5) (b : BitVec 5) (m : BitVec 3) (t : BitVec 2) (g : BitVec 5)
  /-- R209. Element-wise floating-point multiply. -/
  | vmulF (d : BitVec 5) (a : BitVec 5) (b : BitVec 5) (m : BitVec 3) (t : BitVec 2) (g : BitVec 5)
  /-- R209. Element-wise fused multiply-add into the destination. -/
  | vfma (d : BitVec 5) (a : BitVec 5) (b : BitVec 5) (m : BitVec 3) (t : BitVec 2) (g : BitVec 5)
  /-- R209. Element-wise negated fused multiply-add into the destination. -/
  | vfnma (d : BitVec 5) (a : BitVec 5) (b : BitVec 5) (m : BitVec 3) (t : BitVec 2) (g : BitVec 5)
  /-- R209. Element-wise floating-point minimum. -/
  | vminF (d : BitVec 5) (a : BitVec 5) (b : BitVec 5) (m : BitVec 3) (t : BitVec 2) (g : BitVec 5)
  /-- R209. Element-wise floating-point maximum. -/
  | vmaxF (d : BitVec 5) (a : BitVec 5) (b : BitVec 5) (m : BitVec 3) (t : BitVec 2) (g : BitVec 5)
  /-- R209. Element-wise floating-point absolute value. -/
  | vabsF (d : BitVec 5) (a : BitVec 5) (m : BitVec 3) (t : BitVec 2) (g : BitVec 5)
  /-- R209. Element-wise floating-point negation. -/
  | vnegF (d : BitVec 5) (a : BitVec 5) (m : BitVec 3) (t : BitVec 2) (g : BitVec 5)
  /-- R211. Floating-point element compare writing a mask. -/
  | vcmpF (d : BitVec 3) (a : BitVec 5) (b : BitVec 5) (c : BitVec 3) (t : BitVec 2) (g : BitVec 5)
  /-- R210. Element-wise integer add modulo the width. -/
  | vaddI (d : BitVec 5) (a : BitVec 5) (b : BitVec 5) (m : BitVec 3) (t : BitVec 2) (g : BitVec 5)
  /-- R210. Element-wise integer subtract modulo the width. -/
  | vsubI (d : BitVec 5) (a : BitVec 5) (b : BitVec 5) (m : BitVec 3) (t : BitVec 2) (g : BitVec 5)
  /-- R210. Element-wise integer multiply, low bits. -/
  | vmulI (d : BitVec 5) (a : BitVec 5) (b : BitVec 5) (m : BitVec 3) (t : BitVec 2) (g : BitVec 5)
  /-- R210. Element-wise signed minimum. -/
  | vminI (d : BitVec 5) (a : BitVec 5) (b : BitVec 5) (m : BitVec 3) (t : BitVec 2) (g : BitVec 5)
  /-- R210. Element-wise signed maximum. -/
  | vmaxI (d : BitVec 5) (a : BitVec 5) (b : BitVec 5) (m : BitVec 3) (t : BitVec 2) (g : BitVec 5)
  /-- R210. Element-wise unsigned minimum. -/
  | vminN (d : BitVec 5) (a : BitVec 5) (b : BitVec 5) (m : BitVec 3) (t : BitVec 2) (g : BitVec 5)
  /-- R210. Element-wise unsigned maximum. -/
  | vmaxN (d : BitVec 5) (a : BitVec 5) (b : BitVec 5) (m : BitVec 3) (t : BitVec 2) (g : BitVec 5)
  /-- R210. Element-wise integer absolute value modulo the width. -/
  | vabsI (d : BitVec 5) (a : BitVec 5) (m : BitVec 3) (t : BitVec 2) (g : BitVec 5)
  /-- R210. Element-wise integer negation modulo the width. -/
  | vnegI (d : BitVec 5) (a : BitVec 5) (m : BitVec 3) (t : BitVec 2) (g : BitVec 5)
  /-- R211. Signed integer element compare writing a mask. -/
  | vcmpI (d : BitVec 3) (a : BitVec 5) (b : BitVec 5) (c : BitVec 3) (t : BitVec 2) (g : BitVec 5)
  /-- R211. Unsigned integer element compare writing a mask. -/
  | vcmpN (d : BitVec 3) (a : BitVec 5) (b : BitVec 5) (c : BitVec 3) (t : BitVec 2) (g : BitVec 5)
  /-- R210. Element-wise bitwise AND. -/
  | vand (d : BitVec 5) (a : BitVec 5) (b : BitVec 5) (m : BitVec 3) (g : BitVec 5)
  /-- R210. Element-wise bitwise OR. -/
  | vor (d : BitVec 5) (a : BitVec 5) (b : BitVec 5) (m : BitVec 3) (g : BitVec 5)
  /-- R210. Element-wise bitwise XOR. -/
  | vxor (d : BitVec 5) (a : BitVec 5) (b : BitVec 5) (m : BitVec 3) (g : BitVec 5)
  /-- R210. Element-wise shift left. -/
  | vshl (d : BitVec 5) (a : BitVec 5) (b : BitVec 5) (m : BitVec 3) (t : BitVec 2) (g : BitVec 5)
  /-- R210. Element-wise logical shift right. -/
  | vshr (d : BitVec 5) (a : BitVec 5) (b : BitVec 5) (m : BitVec 3) (t : BitVec 2) (g : BitVec 5)
  /-- R210. Element-wise arithmetic shift right. -/
  | vsra (d : BitVec 5) (a : BitVec 5) (b : BitVec 5) (m : BitVec 3) (t : BitVec 2) (g : BitVec 5)
  /-- R212. Selects elements of two registers by a mask. -/
  | vsel (d : BitVec 5) (a : BitVec 5) (b : BitVec 5) (m : BitVec 3) (g : BitVec 5)
  /-- R212. Masked copy of a vector register. -/
  | vmov (d : BitVec 5) (a : BitVec 5) (m : BitVec 3) (g : BitVec 5)
  /-- R212. Broadcasts the low word of a scalar register to every element. -/
  | vmovs (d : BitVec 5) (a : BitVec 5) (m : BitVec 3) (g : BitVec 5)
  /-- R212. Writes a scalar base plus each element index. -/
  | viota (d : BitVec 5) (a : BitVec 5) (m : BitVec 3) (g : BitVec 5)
  /-- R213. Converts each sub-element between formats of one width, non-saturating. -/
  | vcvt (d : BitVec 5) (a : BitVec 5) (s : BitVec 4) (e : BitVec 4) (r : BitVec 2) (g : BitVec 5)
  /-- R213. Converts each sub-element between formats of one width, saturating. -/
  | vcvtSat (d : BitVec 5) (a : BitVec 5) (s : BitVec 4) (e : BitVec 4) (r : BitVec 2) (g : BitVec 5)
  /-- R214. Narrows a register group into packed sub-elements, saturating. -/
  | vpack (d : BitVec 5) (a : BitVec 5) (s : BitVec 4) (e : BitVec 4) (r : BitVec 2) (g : BitVec 5)
  /-- R214. Widens packed sub-elements into a register group. -/
  | vunpk (d : BitVec 5) (a : BitVec 5) (s : BitVec 4) (e : BitVec 4) (r : BitVec 2) (g : BitVec 5)
  /-- R215. Quantises an fp32 tile into a row-blocked MX tile with scales and checksums. -/
  | vquant (d : BitVec 5) (a : BitVec 5) (e : BitVec 4) (g : BitVec 5)
  /-- R216. Rotates rows within each lane. -/
  | vrotr (d : BitVec 5) (a : BitVec 5) (k : BitVec 6) (g : BitVec 5)
  /-- R216. Broadcasts one row to all rows. -/
  | vbcr (d : BitVec 5) (a : BitVec 5) (k : BitVec 6) (g : BitVec 5)
  /-- R217. Reduces each lane over rows by a fixed tree. -/
  | vredr (d : BitVec 5) (a : BitVec 5) (k : BitVec 6) (f : BitVec 2) (g : BitVec 5)
  /-- R216. Rotates lanes within each row. -/
  | vrotc (d : BitVec 5) (a : BitVec 5) (k : BitVec 6) (g : BitVec 5)
  /-- R216. Broadcasts one lane to all lanes. -/
  | vbcc (d : BitVec 5) (a : BitVec 5) (k : BitVec 6) (g : BitVec 5)
  /-- R217. Reduces each row over lanes by a fixed tree. -/
  | vredc (d : BitVec 5) (a : BitVec 5) (k : BitVec 6) (f : BitVec 2) (g : BitVec 5)
  /-- R218. Permutes lanes by an index register. -/
  | vpermc (d : BitVec 5) (a : BitVec 5) (b : BitVec 5) (m : BitVec 3) (g : BitVec 5)
  /-- R219. Moves one vector element into a scalar register. -/
  | vext (d : BitVec 5) (a : BitVec 5) (r : BitVec 4) (c : BitVec 6) (g : BitVec 5)
  /-- R219. Inserts a scalar word into one vector element. -/
  | vins (d : BitVec 5) (a : BitVec 5) (r : BitVec 4) (c : BitVec 6) (g : BitVec 5)
  /-- R220. Bitwise logic on two masks. -/
  | mlog (d : BitVec 5) (a : BitVec 5) (b : BitVec 5) (o : BitVec 3) (g : BitVec 5)
  /-- R220. Counts true bits of a masked mask into a scalar register. -/
  | mpop (d : BitVec 5) (a : BitVec 5) (m : BitVec 3) (g : BitVec 5)
  /-- R220. Sets the first n mask bits from a scalar count. -/
  | mset (d : BitVec 5) (a : BitVec 5) (g : BitVec 5)
  /-- R220. Copies a mask. -/
  | mmov (d : BitVec 5) (a : BitVec 5) (g : BitVec 5)
  /-- R221. Element-wise reciprocal by the reference procedure. -/
  | vrcp (d : BitVec 5) (a : BitVec 5) (m : BitVec 3) (t : BitVec 2) (g : BitVec 5)
  /-- R221. Element-wise reciprocal square root by the reference procedure. -/
  | vrsq (d : BitVec 5) (a : BitVec 5) (m : BitVec 3) (t : BitVec 2) (g : BitVec 5)
  /-- R221. Element-wise base-2 exponential by the reference procedure. -/
  | vexp2 (d : BitVec 5) (a : BitVec 5) (m : BitVec 3) (t : BitVec 2) (g : BitVec 5)
  /-- R221. Element-wise base-2 logarithm by the reference procedure. -/
  | vlog2 (d : BitVec 5) (a : BitVec 5) (m : BitVec 3) (t : BitVec 2) (g : BitVec 5)
  /-- R251. Global load of a byte, sign-extended, short form. -/
  | ldB (t : BitVec 5) (a : BitVec 5) (o : BitVec 10) (g : BitVec 5)
  /-- R251. Global load of a byte, zero-extended, short form. -/
  | ldBu (t : BitVec 5) (a : BitVec 5) (o : BitVec 10) (g : BitVec 5)
  /-- R251. Global load of a halfword, sign-extended, short form. -/
  | ldH (t : BitVec 5) (a : BitVec 5) (o : BitVec 10) (g : BitVec 5)
  /-- R251. Global load of a halfword, zero-extended, short form. -/
  | ldHu (t : BitVec 5) (a : BitVec 5) (o : BitVec 10) (g : BitVec 5)
  /-- R251. Global load of a word, sign-extended, short form. -/
  | ldW (t : BitVec 5) (a : BitVec 5) (o : BitVec 10) (g : BitVec 5)
  /-- R251. Global load of a word, zero-extended, short form. -/
  | ldWu (t : BitVec 5) (a : BitVec 5) (o : BitVec 10) (g : BitVec 5)
  /-- R251. Global load of a doubleword, short form. -/
  | ldD (t : BitVec 5) (a : BitVec 5) (o : BitVec 10) (g : BitVec 5)
  /-- R252. Global load of a whole vector register image, short form. -/
  | ldv (t : BitVec 5) (a : BitVec 5) (o : BitVec 10) (g : BitVec 5)
  /-- R251. Deferred global store of a byte, short form. -/
  | stB (t : BitVec 5) (a : BitVec 5) (o : BitVec 10) (g : BitVec 5)
  /-- R251. Deferred global store of a halfword, short form. -/
  | stH (t : BitVec 5) (a : BitVec 5) (o : BitVec 10) (g : BitVec 5)
  /-- R251. Deferred global store of a word, short form. -/
  | stW (t : BitVec 5) (a : BitVec 5) (o : BitVec 10) (g : BitVec 5)
  /-- R251. Deferred global store of a doubleword, short form. -/
  | stD (t : BitVec 5) (a : BitVec 5) (o : BitVec 10) (g : BitVec 5)
  /-- R252. Deferred global store of a vector register image, short form. -/
  | stv (t : BitVec 5) (a : BitVec 5) (o : BitVec 10) (g : BitVec 5)
  /-- R251. Qualified global byte load, sign-extended. -/
  | ldBMq (t : BitVec 5) (a : BitVec 5) (c : BitVec 4) (s : BitVec 3) (h : BitVec 2) (g : BitVec 5)
  /-- R251. Qualified global byte load, zero-extended. -/
  | ldBuMq (t : BitVec 5) (a : BitVec 5) (c : BitVec 4) (s : BitVec 3) (h : BitVec 2) (g : BitVec 5)
  /-- R251. Qualified global halfword load, sign-extended. -/
  | ldHMq (t : BitVec 5) (a : BitVec 5) (c : BitVec 4) (s : BitVec 3) (h : BitVec 2) (g : BitVec 5)
  /-- R251. Qualified global halfword load, zero-extended. -/
  | ldHuMq (t : BitVec 5) (a : BitVec 5) (c : BitVec 4) (s : BitVec 3) (h : BitVec 2) (g : BitVec 5)
  /-- R251. Qualified global word load, sign-extended. -/
  | ldWMq (t : BitVec 5) (a : BitVec 5) (c : BitVec 4) (s : BitVec 3) (h : BitVec 2) (g : BitVec 5)
  /-- R251. Qualified global word load, zero-extended. -/
  | ldWuMq (t : BitVec 5) (a : BitVec 5) (c : BitVec 4) (s : BitVec 3) (h : BitVec 2) (g : BitVec 5)
  /-- R251. Qualified global doubleword load. -/
  | ldDMq (t : BitVec 5) (a : BitVec 5) (c : BitVec 4) (s : BitVec 3) (h : BitVec 2) (g : BitVec 5)
  /-- R252. Qualified global vector load. -/
  | ldvMq (t : BitVec 5) (a : BitVec 5) (c : BitVec 4) (s : BitVec 3) (h : BitVec 2) (g : BitVec 5)
  /-- R251. Qualified deferred global byte store. -/
  | stBMq (t : BitVec 5) (a : BitVec 5) (c : BitVec 4) (s : BitVec 3) (h : BitVec 2) (g : BitVec 5)
  /-- R251. Qualified deferred global halfword store. -/
  | stHMq (t : BitVec 5) (a : BitVec 5) (c : BitVec 4) (s : BitVec 3) (h : BitVec 2) (g : BitVec 5)
  /-- R251. Qualified deferred global word store. -/
  | stWMq (t : BitVec 5) (a : BitVec 5) (c : BitVec 4) (s : BitVec 3) (h : BitVec 2) (g : BitVec 5)
  /-- R251. Qualified deferred global doubleword store. -/
  | stDMq (t : BitVec 5) (a : BitVec 5) (c : BitVec 4) (s : BitVec 3) (h : BitVec 2) (g : BitVec 5)
  /-- R252. Qualified deferred global vector store. -/
  | stvMq (t : BitVec 5) (a : BitVec 5) (c : BitVec 4) (s : BitVec 3) (h : BitVec 2) (g : BitVec 5)
  /-- R253. Acquire load of a byte, sign-extended. -/
  | ldAcqB (t : BitVec 5) (a : BitVec 5) (c : BitVec 4) (s : BitVec 3) (h : BitVec 2) (g : BitVec 5)
  /-- R253. Acquire load of a byte, zero-extended. -/
  | ldAcqBu (t : BitVec 5) (a : BitVec 5) (c : BitVec 4) (s : BitVec 3) (h : BitVec 2) (g : BitVec 5)
  /-- R253. Acquire load of a halfword, sign-extended. -/
  | ldAcqH (t : BitVec 5) (a : BitVec 5) (c : BitVec 4) (s : BitVec 3) (h : BitVec 2) (g : BitVec 5)
  /-- R253. Acquire load of a halfword, zero-extended. -/
  | ldAcqHu (t : BitVec 5) (a : BitVec 5) (c : BitVec 4) (s : BitVec 3) (h : BitVec 2) (g : BitVec 5)
  /-- R253. Acquire load of a word, sign-extended. -/
  | ldAcqW (t : BitVec 5) (a : BitVec 5) (c : BitVec 4) (s : BitVec 3) (h : BitVec 2) (g : BitVec 5)
  /-- R253. Acquire load of a word, zero-extended. -/
  | ldAcqWu (t : BitVec 5) (a : BitVec 5) (c : BitVec 4) (s : BitVec 3) (h : BitVec 2) (g : BitVec 5)
  /-- R253. Acquire load of a doubleword. -/
  | ldAcqD (t : BitVec 5) (a : BitVec 5) (c : BitVec 4) (s : BitVec 3) (h : BitVec 2) (g : BitVec 5)
  /-- R253. Release store of a byte. -/
  | stRelB (t : BitVec 5) (a : BitVec 5) (c : BitVec 4) (s : BitVec 3) (h : BitVec 2) (g : BitVec 5)
  /-- R253. Release store of a halfword. -/
  | stRelH (t : BitVec 5) (a : BitVec 5) (c : BitVec 4) (s : BitVec 3) (h : BitVec 2) (g : BitVec 5)
  /-- R253. Release store of a word. -/
  | stRelW (t : BitVec 5) (a : BitVec 5) (c : BitVec 4) (s : BitVec 3) (h : BitVec 2) (g : BitVec 5)
  /-- R253. Release store of a doubleword. -/
  | stRelD (t : BitVec 5) (a : BitVec 5) (c : BitVec 4) (s : BitVec 3) (h : BitVec 2) (g : BitVec 5)
  /-- R251. Scratchpad byte load, sign-extended, short form. -/
  | ldSpB (t : BitVec 5) (a : BitVec 5) (o : BitVec 10) (g : BitVec 5)
  /-- R251. Scratchpad byte load, zero-extended, short form. -/
  | ldSpBu (t : BitVec 5) (a : BitVec 5) (o : BitVec 10) (g : BitVec 5)
  /-- R251. Scratchpad halfword load, sign-extended, short form. -/
  | ldSpH (t : BitVec 5) (a : BitVec 5) (o : BitVec 10) (g : BitVec 5)
  /-- R251. Scratchpad halfword load, zero-extended, short form. -/
  | ldSpHu (t : BitVec 5) (a : BitVec 5) (o : BitVec 10) (g : BitVec 5)
  /-- R251. Scratchpad word load, sign-extended, short form. -/
  | ldSpW (t : BitVec 5) (a : BitVec 5) (o : BitVec 10) (g : BitVec 5)
  /-- R251. Scratchpad word load, zero-extended, short form. -/
  | ldSpWu (t : BitVec 5) (a : BitVec 5) (o : BitVec 10) (g : BitVec 5)
  /-- R251. Scratchpad doubleword load, short form. -/
  | ldSpD (t : BitVec 5) (a : BitVec 5) (o : BitVec 10) (g : BitVec 5)
  /-- R252. Scratchpad vector load, short form. -/
  | ldvSp (t : BitVec 5) (a : BitVec 5) (o : BitVec 10) (g : BitVec 5)
  /-- R251. Journaled scratchpad byte store, short form. -/
  | stSpB (t : BitVec 5) (a : BitVec 5) (o : BitVec 10) (g : BitVec 5)
  /-- R251. Journaled scratchpad halfword store, short form. -/
  | stSpH (t : BitVec 5) (a : BitVec 5) (o : BitVec 10) (g : BitVec 5)
  /-- R251. Journaled scratchpad word store, short form. -/
  | stSpW (t : BitVec 5) (a : BitVec 5) (o : BitVec 10) (g : BitVec 5)
  /-- R251. Journaled scratchpad doubleword store, short form. -/
  | stSpD (t : BitVec 5) (a : BitVec 5) (o : BitVec 10) (g : BitVec 5)
  /-- R252. Journaled scratchpad vector store, short form. -/
  | stvSp (t : BitVec 5) (a : BitVec 5) (o : BitVec 10) (g : BitVec 5)
  /-- R251. Qualified scratchpad byte load, sign-extended. -/
  | ldSpBMq (t : BitVec 5) (a : BitVec 5) (c : BitVec 4) (s : BitVec 3) (g : BitVec 5)
  /-- R251. Qualified scratchpad byte load, zero-extended. -/
  | ldSpBuMq (t : BitVec 5) (a : BitVec 5) (c : BitVec 4) (s : BitVec 3) (g : BitVec 5)
  /-- R251. Qualified scratchpad halfword load, sign-extended. -/
  | ldSpHMq (t : BitVec 5) (a : BitVec 5) (c : BitVec 4) (s : BitVec 3) (g : BitVec 5)
  /-- R251. Qualified scratchpad halfword load, zero-extended. -/
  | ldSpHuMq (t : BitVec 5) (a : BitVec 5) (c : BitVec 4) (s : BitVec 3) (g : BitVec 5)
  /-- R251. Qualified scratchpad word load, sign-extended. -/
  | ldSpWMq (t : BitVec 5) (a : BitVec 5) (c : BitVec 4) (s : BitVec 3) (g : BitVec 5)
  /-- R251. Qualified scratchpad word load, zero-extended. -/
  | ldSpWuMq (t : BitVec 5) (a : BitVec 5) (c : BitVec 4) (s : BitVec 3) (g : BitVec 5)
  /-- R251. Qualified scratchpad doubleword load. -/
  | ldSpDMq (t : BitVec 5) (a : BitVec 5) (c : BitVec 4) (s : BitVec 3) (g : BitVec 5)
  /-- R252. Qualified scratchpad vector load. -/
  | ldvSpMq (t : BitVec 5) (a : BitVec 5) (c : BitVec 4) (s : BitVec 3) (g : BitVec 5)
  /-- R251. Qualified scratchpad byte store. -/
  | stSpBMq (t : BitVec 5) (a : BitVec 5) (c : BitVec 4) (s : BitVec 3) (g : BitVec 5)
  /-- R251. Qualified scratchpad halfword store. -/
  | stSpHMq (t : BitVec 5) (a : BitVec 5) (c : BitVec 4) (s : BitVec 3) (g : BitVec 5)
  /-- R251. Qualified scratchpad word store. -/
  | stSpWMq (t : BitVec 5) (a : BitVec 5) (c : BitVec 4) (s : BitVec 3) (g : BitVec 5)
  /-- R251. Qualified scratchpad doubleword store. -/
  | stSpDMq (t : BitVec 5) (a : BitVec 5) (c : BitVec 4) (s : BitVec 3) (g : BitVec 5)
  /-- R252. Qualified scratchpad vector store. -/
  | stvSpMq (t : BitVec 5) (a : BitVec 5) (c : BitVec 4) (s : BitVec 3) (g : BitVec 5)
  /-- R254. Global gather of 1,024 elements by an index register. -/
  | ldx (t : BitVec 5) (a : BitVec 5) (b : BitVec 5) (c : BitVec 4) (g : BitVec 5)
  /-- R254. Global scatter of 1,024 elements within one 4 KiB block. -/
  | stx (t : BitVec 5) (a : BitVec 5) (b : BitVec 5) (c : BitVec 4) (g : BitVec 5)
  /-- R254. Scratchpad gather by an index register. -/
  | ldxSp (t : BitVec 5) (a : BitVec 5) (b : BitVec 5) (c : BitVec 4) (g : BitVec 5)
  /-- R254. Scratchpad scatter by an index register. -/
  | stxSp (t : BitVec 5) (a : BitVec 5) (b : BitVec 5) (c : BitVec 4) (g : BitVec 5)
  /-- R256. Indivisible 32-bit read-modify-write at the operand's home, in a bundle of its own. -/
  | atomW (t : BitVec 5) (a : BitVec 5) (c : BitVec 4) (s : BitVec 3) (o : BitVec 3) (g : BitVec 5)
  /-- R256. Indivisible 64-bit read-modify-write at the operand's home, in a bundle of its own. -/
  | atomD (t : BitVec 5) (a : BitVec 5) (c : BitVec 4) (s : BitVec 3) (o : BitVec 3) (g : BitVec 5)
  /-- R257. 32-bit compare-and-swap at the operand's home. -/
  | casW (t : BitVec 5) (a : BitVec 5) (c : BitVec 4) (s : BitVec 3) (g : BitVec 5)
  /-- R257. 64-bit compare-and-swap at the operand's home. -/
  | casD (t : BitVec 5) (a : BitVec 5) (c : BitVec 4) (s : BitVec 3) (g : BitVec 5)
  /-- R258. Orders earlier and later accesses of masked classes within a scope. -/
  | fence (m : BitVec 16) (s : BitVec 3) (g : BitVec 5)
  /-- R259. Waits at the home until an 8-byte global location reaches a target, then acts as an acquire. -/
  | mwait (t : BitVec 5) (a : BitVec 5) (b : BitVec 5) (s : BitVec 3) (g : BitVec 5)
  /-- R262. Requests a prefetch of up to 32 lines. -/
  | prf (t : BitVec 5) (a : BitVec 5) (h : BitVec 2) (g : BitVec 5)
  /-- R263. Invalidates the whole L1 of the core. -/
  | cinv (g : BitVec 5)
  /-- R263. Invalidates the L1 line holding one address. -/
  | cinvL (a : BitVec 5) (g : BitVec 5)
  /-- R264. Stalls later scratchpad accesses until earlier ones in either view have performed. -/
  | vjoin (g : BitVec 5)
  /-- R265. Forces a datum, drains released stores and invalidates the instruction cache. -/
  | ifence (g : BitVec 5)
  /-- R300. Publishes a task record into a reorder ring, carving its budgets from the issuer. -/
  | enq (a : BitVec 5) (b : BitVec 5) (g : BitVec 5)
  /-- R301. Adds tasks to the issuer's own launch, carving their budgets. -/
  | grow (b : BitVec 5) (g : BitVec 5)
  /-- R314. Moves BGI or BGM balance to another task. -/
  | bgadd (a : BitVec 5) (b : BitVec 5) (m : BitVec 1) (g : BitVec 5)
  /-- R269. Issues a multi-dimensional copy from a scratchpad descriptor. -/
  | copy (a : BitVec 5) (b : BitVec 5) (c : BitVec 4) (s : BitVec 3) (g : BitVec 5)
  /-- R272. Issues a payload-less sequence stamp in a class's stream of copies. -/
  | stamp (a : BitVec 5) (b : BitVec 5) (c : BitVec 4) (s : BitVec 3) (x : BitVec 1) (g : BitVec 5)
  /-- R273. Arms a collective tile-table entry from a descriptor. -/
  | ctarm (a : BitVec 5) (b : BitVec 5) (c : BitVec 4) (s : BitVec 3) (g : BitVec 5)
  /-- R274. Disarms a collective entry. -/
  | ctarmDis (b : BitVec 5) (c : BitVec 4) (s : BitVec 3) (g : BitVec 5)
  /-- R275. Sets the send flag of a collective entry. -/
  | ctset (b : BitVec 5) (c : BitVec 4) (s : BitVec 3) (g : BitVec 5)
  /-- R276. Returns a collective entry's status word or contributor bitmap. -/
  | ctstat (a : BitVec 5) (b : BitVec 5) (m : BitVec 1) (g : BitVec 5)
  /-- R278. Offers rows of the reservation to another core of the cluster. -/
  | hgive (a : BitVec 5) (b : BitVec 5) (c : BitVec 4) (s : BitVec 3) (g : BitVec 5)
  /-- R278. Returns a bound handle to its home core. -/
  | hgiveRet (b : BitVec 5) (c : BitVec 4) (s : BitVec 3) (g : BitVec 5)
  /-- R279. Takes an offered handle of another core of the cluster. -/
  | htake (a : BitVec 5) (b : BitVec 5) (c : BitVec 4) (s : BitVec 3) (g : BitVec 5)
  /-- R279. Withdraws the issuer's own offered handle. -/
  | htakeWd (b : BitVec 5) (c : BitVec 4) (s : BitVec 3) (g : BitVec 5)
  /-- R280. Returns a handle table entry. -/
  | hqry (a : BitVec 5) (b : BitVec 5) (g : BitVec 5)
  /-- R281. Opens a snapshot over a range with a shadow arena. -/
  | snap (a : BitVec 5) (b : BitVec 5) (c : BitVec 4) (g : BitVec 5)
  /-- R282. Accepts the innermost open snapshot. -/
  | sacc (a : BitVec 5) (b : BitVec 5) (c : BitVec 4) (g : BitVec 5)
  /-- R282. Rejects the innermost open snapshot, restoring its range. -/
  | srej (a : BitVec 5) (b : BitVec 5) (c : BitVec 4) (g : BitVec 5)
  /-- R283. Returns a snapshot's status word. -/
  | sstat (a : BitVec 5) (b : BitVec 5) (g : BitVec 5)
  /-- R285. Retires a Chart resource of a core (supervisor). -/
  | evac (a : BitVec 5) (b : BitVec 5) (c : BitVec 4) (s : BitVec 3) (g : BitVec 5)
  /-- R284. Returns a Chart entry of a core (supervisor). -/
  | chartq (a : BitVec 5) (b : BitVec 5) (g : BitVec 5)
  /-- R227. Writes the partition's matrix format latch. -/
  | mxfmt (a : BitVec 4) (b : BitVec 4) (w : BitVec 1) (g : BitVec 5)
  /-- R235. Loads the head slot of a ring into a stationary buffer. -/
  | mxw (q : BitVec 4) (p : BitVec 1) (g : BitVec 5)
  /-- R236. Streams a ring slot through the array and accumulates into a tile. -/
  | mxmac (t : BitVec 6) (q : BitVec 4) (p : BitVec 1) (g : BitVec 5)
  /-- R236. Streams a ring slot through the array and writes a tile. -/
  | mxmul (t : BitVec 6) (q : BitVec 4) (p : BitVec 1) (g : BitVec 5)
  /-- R236. Streams a ring slot through the array and drains to vector registers. -/
  | mxdrv (v : BitVec 5) (q : BitVec 4) (p : BitVec 1) (g : BitVec 5)
  /-- R239. Checks an accumulator tile against its own checksums. -/
  | mxchk (t : BitVec 6) (r : BitVec 1) (e : BitVec 5) (g : BitVec 5)
  /-- R240. Stalls until earlier matrix, tile-store and A-slot operations complete. -/
  | mxwait (g : BitVec 5)
  /-- R229. Configures an operand ring on tile-store units. -/
  | ringcfg (t : BitVec 6) (q : BitVec 4) (n : BitVec 6) (s : BitVec 2) (g : BitVec 5)
  /-- R230. Returns a ring's status, optionally clearing INX. -/
  | ringst (t : BitVec 5) (q : BitVec 4) (c : BitVec 1) (g : BitVec 5)
  /-- R232. Fills the tail slot of a ring from a scratchpad tile image. -/
  | tld (q : BitVec 4) (a : BitVec 5) (x : BitVec 1) (f : BitVec 4) (b : BitVec 1) (d : BitVec 4) (g : BitVec 5)
  /-- R233. Writes the head slot of a ring to scratchpad as a tile image. -/
  | tst (q : BitVec 4) (a : BitVec 5) (x : BitVec 1) (f : BitVec 4) (p : BitVec 1) (g : BitVec 5)
  /-- R244. Moves 16 accumulator rows into a vector register. -/
  | ald (v : BitVec 5) (t : BitVec 6) (r : BitVec 7) (f : BitVec 2) (g : BitVec 5)
  /-- R244. Moves a vector register into 16 accumulator rows. -/
  | ast (v : BitVec 5) (t : BitVec 6) (r : BitVec 7) (f : BitVec 2) (g : BitVec 5)
  /-- R244. Adds a vector register into 16 accumulator rows. -/
  | aadd (v : BitVec 5) (t : BitVec 6) (r : BitVec 7) (f : BitVec 2) (g : BitVec 5)
  /-- R245. Zeroes an accumulator tile. -/
  | azero (t : BitVec 6) (g : BitVec 5)
  /-- R245. Scales every element of an accumulator tile by an fp32 scalar. -/
  | ascl (v : BitVec 5) (t : BitVec 6) (g : BitVec 5)
  /-- R246. Rounds 32 accumulator rows to packed bf16 in a vector register. -/
  | acvt (v : BitVec 5) (t : BitVec 6) (r : BitVec 7) (f : BitVec 2) (g : BitVec 5)
  /-- R245. Recomputes an accumulator tile's checksums from its data. -/
  | acks (t : BitVec 6) (g : BitVec 5)
  /-- R247. Applies one optimiser step to 16 rows using the tile as gradient. -/
  | aadam (v : BitVec 5) (t : BitVec 6) (r : BitVec 7) (z : BitVec 1) (g : BitVec 5)
  /-- R115. A partition decodes and issues one bundle, debiting its charges and honouring skip and datum bits. -/
  | bundleIssue (p : Nat)
  /-- R130. After 4,096 bundles without a datum an implicit datum is forced. -/
  | bundleLimitDatum (p : Nat)
  /-- R120. A global load, atomic, drain or engine query result lands and releases the scoreboard. -/
  | interlockedResult (p k : Nat)
  /-- R124. At a datum the partition waits for in-flight work and checks, takes quota, copies registers and releases withheld stores and commands. -/
  | datumCommit (p : Nat)
  /-- R377. A late quota refusal, lost store or refused htake reaches the issuing task and is delivered as a trap. -/
  | remoteFaultDelivery (taskid : BitVec 64) (cause : LateFault)
  /-- R308. A debit leaves BGI or BGM below zero, latching EXH and raising a stop request. -/
  | budgetExhaustion (p : Nat)
  /-- R310. GRACE reaches 0 in continuation mode, setting the grace latch and raising a stop request. -/
  | graceExhaustion (p : Nat)
  /-- R134. A stop request reaches a partition, draining its loop or stopping an mwait. -/
  | stopRequest (p : Nat) (src : StopSource)
  /-- R134. No commit within 4,136 cycles of a stop request: the partition rolls back and stops. -/
  | stopAbandon (p : Nat)
  /-- R69. A released store, or another agent's write, is applied at its home. -/
  | storePerform (p k : Nat)
  /-- R259. A write to a watched line makes the home re-read for an armed mwait, which may return. -/
  | monitorWake (p : Nat)
  /-- R260. Every 10 µs a remote mwait re-arms its monitor and reads again. -/
  | mwaitRemoteRecheck (p : Nat) (x : BitVec 64)
  /-- R260. Every 1 µs the UCIe module reads a watched host word for an mwait. -/
  | mwaitHostPoll (p : Nat) (x : BitVec 64)
  /-- R223. The matrix engine takes a partition's front command in round-robin order. -/
  | matrixCommandStart (core : Nat)
  /-- R237. The drain buffer of a product is checked line by line against its checksums. -/
  | drainCheck (core : Nat)
  /-- R232. A tld verifies, converts and fills its slot and advances TAIL. -/
  | tldComplete (p : Nat)
  /-- R233. A tst finishes writing its image and optionally pops the slot. -/
  | tstComplete (p : Nat)
  /-- R270. A copy engine takes pins and performs a released copy's reads and writes. -/
  | copyExecute (x : CopyTurn)
  /-- R93. After all payload writes perform, the copy's sequence stamp is written as a release. -/
  | copyStamp (k : Nat)
  /-- R272. The engine writes a stamp command's stamp after earlier stamps of the class. -/
  | stampWrite (k : Nat)
  /-- R96. At its release the collective unit arms or re-arms an entry, or ends it BUSY or OWNER. -/
  | collectiveArm (k : Nat)
  /-- R274. A released disarm returns both sides of an entry to IDLE once sending ends. -/
  | collectiveDisarm (k : Nat)
  /-- R97. A released ctset sets the send flag and fires a WAITING entry. -/
  | sendFlagSet (k : Nat)
  /-- R98. A copy engine walks the peers sending the source tile as contributions. -/
  | collectiveSend (sd e : Nat)
  /-- R101. When every peer is locally complete the send stamp is written. -/
  | sendComplete (sd e : Nat)
  /-- R99. A contribution line is matched to the peer list and combined into the destination tile. -/
  | contributionArrival (sd e : Nat) (c : ContribLine)
  /-- R102. An armed entry's deadline passes and it enters TIMEOUT. -/
  | collectiveTimeout (sd e : Nat)
  /-- R36. A released hgive makes the home entry offered to the target core. -/
  | handleOffer (k : Nat)
  /-- R279. A released htake binds the handle, or frees the entry and faults. -/
  | handleBind (k : Nat)
  /-- R36. A released hgive.ret frees both the home and binding entries. -/
  | handleReturn (k : Nat)
  /-- R36. A released htake.wd withdraws an offered handle. -/
  | handleWithdraw (k : Nat)
  /-- R103. Each stack domain's snapshot logic installs its part of a released snap's range. -/
  | snapInstall (k : Nat)
  /-- R106. A released sacc drops or re-tags the snapshot's shadows and writes its stamp. -/
  | snapshotAccept (k : Nat)
  /-- R107. A released srej holds the range, restores the shadows, closes the snapshot and writes its stamp. -/
  | snapshotReject (k : Nat)
  /-- R301. Meridian adds a released grow's tasks to the launch count. -/
  | growApply (k : Nat)
  /-- R314. Meridian adds a released bgadd's amount to the target task or the pool. -/
  | bgaddApply (k : Nat)
  /-- R285. A released evac retires a resource, mapping a spare or shrinking the tier. -/
  | retirement (k : Nat)
  /-- R40. The evacuation engine copies the next line of a retired bank under the cursor. -/
  | evacuationLineCopy (core : Nat)
  /-- R43. Remaining reservations are compacted live into the smaller tier. -/
  | compaction (core : Nat)
  /-- R26. The lines of a folded or removed bank are copied to their new places. -/
  | foldCopy (core : Nat)
  /-- R340. A Chart entry's ERRS rises by 64 within 2^32 cycles, quarantining its core. -/
  | errsThreshold (core idx : Nat)
  /-- R339. The core's self-test ends, returning or retiring resources and restoring suspended tasks. -/
  | selfTestComplete (core : Nat) (res : SelfTest)
  /-- R331. The patrol scrubber reads a line, correcting or poisoning it. -/
  | patrolScrub (line : Nat) (bad : Bool)
  /-- R293. Meridian copies a published record and admits, rejects or pends its launch. -/
  | admission (q : Nat)
  /-- R292. Every wait of a pending launch is met and it becomes dispatchable. -/
  | waitMet (lid : BitVec 32)
  /-- R296. Meridian chooses tasks for free partitions by class, level and deficit round-robin. -/
  | dispatch
  /-- R297. A class-1 launch waits longer than BOUND and its queue's level rises by one. -/
  | ageingPromotion (q : Nat)
  /-- R367. Each 1 ms window Isobar plans the issue rate and reserve. -/
  | isobarWindow
  /-- R369. The host asserts package reset with a mode and bring-up runs. -/
  | packageReset (mode : Bool) (res : BringUp)
  /-- R371. A nonce on the sideband returns a signed attestation report. -/
  | attestationRequest (nonce : BitVec 256)
  /-- R346. A UCIe module fails training and is dropped from the hash. -/
  | ucieModuleFail (m : Nat)
  /-- R348. A host read of device memory. -/
  | bhpRd (rq addr n : Nat)
  /-- R348. A host write of device memory under a byte mask. -/
  | bhpWr (rq addr n : Nat) (mask : BitVec 128) (data : BitVec 1024)
  /-- R349. A host acquire read of 8 bytes. -/
  | bhpRdAq (rq addr : Nat)
  /-- R349. A host release write of 8 bytes. -/
  | bhpWrRl (rq addr : Nat) (data : BitVec 64)
  /-- R349. Orders the host requester's earlier accesses before its later ones. -/
  | bhpFence (rq : Nat)
  /-- R348. A host atomic add, xchg or cas on device memory. -/
  | bhpAt (rq addr size : Nat) (op : AtOp) (y e : BitVec 64)
  /-- R348. A completion from the host for a device access to host memory: for its write, when it both reads and writes there. -/
  | bhpCpl (who : Asker) (write : Bool) (status : Nat) (data : List (BitVec 8))
  /-- R352, R348. A REGWR to a host-space register with no behaviour of its own; with no value, a REGRD. -/
  | registerWrite (off : Nat) (m : RegMsg)
  /-- R17. Writes an ASID's window base and increments its generation. -/
  | wbaseWrite (a : Nat) (w : RegWr)
  /-- R286. Setting QCTL.EN loads Meridian's head or sets ERR. -/
  | queueEnable (q : Nat) (w : RegWr)
  /-- R286. Clearing QCTL.EN stops admission from the queue. -/
  | queueDisable (q : Nat) (w : RegWr)
  /-- R353. Writing LOCK fixes the accepted feature set. -/
  | featctlLock (w : RegWr)
  /-- R304. A write to QUIESCE clears every halt line and re-enables dispatch. -/
  | quiesceClear (w : RegWr)
  /-- R354. Writing 1 clears interrupt cause bits. -/
  | intcauseClear (w : RegWr)
  /-- R355. The runtime returns a served trap and Meridian applies TCTL.ACT. -/
  | htret (w : RegWr)
  /-- R357. Adds an amount to the balance of the task named by HTSEL, as a supervisor bgadd. -/
  | htopup (w : RegWr)
  /-- R361. A Galtum Link port trains, negotiates its version and announces its package number. -/
  | linkTrain (port : Nat) (offer : LinkOffer) (conflict : Bool) (members : List Nat)
  /-- R16. A request from another package performs at its home as a local access. -/
  | req (who : Sender) (r : RemoteReq)
  /-- R359. A response from a remote home completes a local access: its write, when it both reads and writes there. -/
  | rsp (who : Asker) (write : Bool) (status : Nat) (data : List (BitVec 8))
  /-- R260. A remote home's wake message makes a waiting mwait read again. -/
  | wakeMessage (p : Nat) (x : BitVec 64)
  /-- R359. A receiver pauses one REQ lane. -/
  | pause (port lane : Nat)
  /-- R359. A receiver resumes one REQ lane. -/
  | resume (port lane : Nat)
  /-- R360. An acknowledgement frees flits from the replay buffer. -/
  | ack (port n : Nat)
  /-- R360. A NAK makes the sender resend a flit and every flit after it. -/
  | nak (port n : Nat)
  /-- R335. A received flit fails its CRC and is answered with NAK. -/
  | flitCrcFail (port : Nat)
  /-- R335. After 8 consecutive failed replays of one flit the port retrains. -/
  | portRetrain (port : Nat)
  /-- R335. Retraining has not succeeded within 1 ms and the port goes down. -/
  | portDown (port : Nat)
  /-- R327. A soft error or hardware fault corrupts a stored or computed value, which the checks of the SV9 later detect. -/
  | softError (e : SoftErr)
  /-- R235. The load of an mxw completes: the filled stationary buffer becomes current and the slot is popped if P is set. -/
  | mxwLoadComplete (p : Nat)
  /-- R239. An mxchk finishes testing its accumulator tile against its checksums, setting CKF or failing as after recompute. -/
  | mxchkComplete (p : Nat)
  deriving DecidableEq, Repr

end Sys2Proof
end

