-- ==== Sys2Proof/WellFormed.lean ====
section
/-! DEFINITION. Which operations are well formed: the legal field values of each encoding (R159 reason 5), the registers
an operation reads and names as destinations, and the rights a system-register write needs. -/

namespace Sys2Proof

/-- A register of a partition by its file and number (R113). -/
inductive Reg where
  | s (n : Nat)
  | p (n : Nat)
  | v (n : Nat)
  | m (n : Nat)
  deriving DecidableEq, Repr

/-- A predicate that may be a destination: p1 to p7 (R114, R143). -/
def predDest (d : BitVec 5) : Bool := 1 ≤ d.toNat && d.toNat ≤ 7

/-- A predicate that may be read: p0 to p15 (R143). -/
def predSrc (a : BitVec 5) : Bool := a.toNat ≤ 15

/-- A mask that may be a destination: m1 to m7 (R114, R143). -/
def maskDest (d : BitVec 5) : Bool := 1 ≤ d.toNat && d.toNat ≤ 7

/-- A mask that may be read: m0 to m7 (R143). -/
def maskSrc (a : BitVec 5) : Bool := a.toNat ≤ 7

/-- A scope code other than 6 and 7 (R4). -/
def scopeOk (sc : BitVec 3) : Bool := sc.toNat ≤ 5

/-- An element type other than 3 (R149). -/
def tyOk (ty : BitVec 2) : Bool := ty.toNat ≤ 2

/-- The element width in bits of a format code (R47). -/
def fmtWidth (f : BitVec 4) : Nat :=
  match f.toNat with
  | 0 | 13 | 14 => 32
  | 1 | 2 | 11 | 12 => 16
  | 3 | 4 | 6 | 7 | 9 | 10 => 8
  | 5 | 8 => 4
  | _ => 0

/-- A pair of one width that vcvt accepts (R213). -/
def cvtPair (fs fd : BitVec 4) : Bool :=
  let ok (c : List Nat) := c.contains fs.toNat && c.contains fd.toNat
  ok [0, 13, 14] || ok [1, 2, 11, 12] || ok [3, 4, 9, 10]

/-- The wide formats of vpack's source and vunpk's destination (R214). -/
def packWide (f : BitVec 4) : Bool := [0, 1, 2, 3, 4, 9, 10, 11, 12, 13, 14].contains f.toNat

/-- The narrow formats of vpack's destination and vunpk's source (R214). -/
def packNarrow (f : BitVec 4) : Bool := [1, 2, 3, 4, 5, 9, 10, 11, 12].contains f.toNat

/-- The group size of vpack and vunpk: wide width over narrow width (R214). -/
def packGroup (wide narrow : BitVec 4) : Nat := fmtWidth wide / fmtWidth narrow

/-- A format of a matrix operand (R227) and of a ring slot (R232). -/
def matrixFmt (f : BitVec 4) : Bool := [1, 2, 3, 4, 6, 7, 8, 9, 10].contains f.toNat

/-- i8 or n8. -/
def fmtIsInt8 (f : BitVec 4) : Bool := f.toNat = 9 || f.toNat = 10

/-- An MX format (R54). -/
def fmtIsMx (f : BitVec 4) : Bool := [6, 7, 8].contains f.toNat

/-- The pairs of R232: source image format and slot format. -/
def tldPair (f fd : BitVec 4) : Bool :=
  (matrixFmt f && f == fd) ||
  ([0, 1, 2].contains f.toNat && [1, 2, 3, 4, 6, 7, 8].contains fd.toNat)

/-- The numbers R187 lists. -/
def sysListed (n : Nat) : Bool :=
  n ≤ 4 || (0x10 ≤ n && n ≤ 0x17) || (0x20 ≤ n && n ≤ 0x22) || (0x30 ≤ n && n ≤ 0x32) ||
  (0x40 ≤ n && n ≤ 0x45) || n = 0x50 || n = 0x51

/-- LC0 and LC1, which no sset may name (R188). -/
def sysIsLc (n : Nat) : Bool := n = 0x50 || n = 0x51

/-- MXSTAT, which every task may write (R187). -/
def sysTaskWrites (n : Nat) : Bool := n = 0x22

/-- MXSTAT, BGI, BGM and CONT, which a supervisor task may write (R187). -/
def sysSupWrites (n : Nat) : Bool := n = 0x22 || n = 0x30 || n = 0x31 || n = 0x32

/-- An sset of a register that is read only even for a supervisor task (R188). -/
def Instr.writesReadOnly : Instr → Bool
  | .sset _ s _ => !sysSupWrites s.toNat
  | _ => false

/-- An sset of a register that a task without SUPERVISOR may not write (R188). -/
def Instr.writesSupervisor : Instr → Bool
  | .sset _ s _ => !sysTaskWrites s.toNat
  | _ => false

/-- The field values each encoding admits (R159 reason 5, where it does not depend on the task). The formats of `tst` are those of an
image, and which of them its slot may hold is judged as it starts (R58, R233; assumption 74). Events have no encoding and no field to
check. -/
def Instr.legal : Instr → Bool
  | .sext _ _ _ n _ => n.toNat ≤ 2
  | .scmp d .. | .scmpSi d .. => predDest d
  | .pset d a b .. => predDest d && predSrc a && predSrc b
  | .sfcvt _ _ f k _ t w _ =>
    [1, 2, 3, 4, 9, 10, 11, 12, 13, 14].contains f.toNat &&
    (w == 0 || f.toNat = 13 || f.toNat = 14) && (t == 0 || k == 1)
  | .sfcmp d .. => predDest d
  | .sget _ s _ => sysListed s.toNat
  | .sset _ s _ => sysListed s.toNat && !sysIsLc s.toNat
  | .loop _ b s _ => (b.toNat + 1) * (s.toNat + 1) ≤ 4096
  | .vaddF _ _ _ _ t _ | .vsubF _ _ _ _ t _ | .vmulF _ _ _ _ t _ | .vfma _ _ _ _ t _ | .vfnma _ _ _ _ t _
  | .vminF _ _ _ _ t _ | .vmaxF _ _ _ _ t _ | .vaddI _ _ _ _ t _ | .vsubI _ _ _ _ t _ | .vmulI _ _ _ _ t _
  | .vminI _ _ _ _ t _ | .vmaxI _ _ _ _ t _ | .vminN _ _ _ _ t _ | .vmaxN _ _ _ _ t _ | .vshl _ _ _ _ t _
  | .vshr _ _ _ _ t _ | .vsra _ _ _ _ t _ => tyOk t
  | .vabsF _ _ _ t _ | .vnegF _ _ _ t _ | .vabsI _ _ _ t _ | .vnegI _ _ _ t _
  | .vrcp _ _ _ t _ | .vrsq _ _ _ t _ | .vexp2 _ _ _ t _ | .vlog2 _ _ _ t _ => tyOk t
  | .vcmpF d _ _ _ t _ => d != 0 && tyOk t
  | .vcmpI d _ _ c t _ | .vcmpN d _ _ c t _ => d != 0 && tyOk t && c.toNat ≤ 5
  | .vcvt _ _ s e _ _ | .vcvtSat _ _ s e _ _ => cvtPair s e
  | .vpack _ a s e _ _ =>
    packWide s && packNarrow e && fmtWidth e < fmtWidth s && a.toNat + packGroup s e ≤ 32
  | .vunpk d _ s e _ _ =>
    packNarrow s && packWide e && fmtWidth s < fmtWidth e && d.toNat + packGroup e s ≤ 32
  | .vquant d a e _ => [3, 4, 5].contains e.toNat && a.toNat ≤ 28 && d.toNat ≤ 29
  | .vrotr _ _ k _ | .vbcr _ _ k _ | .vredr _ _ k _ _ => k.toNat ≤ 15
  | .mlog d a b _ _ => maskDest d && maskSrc a && maskSrc b
  | .mpop _ a _ _ => maskSrc a
  | .mset d _ _ => maskDest d
  | .mmov d a _ => maskDest d && maskSrc a
  | .ldBMq _ _ _ s _ _ | .ldBuMq _ _ _ s _ _ | .ldHMq _ _ _ s _ _ | .ldHuMq _ _ _ s _ _ | .ldWMq _ _ _ s _ _
  | .ldWuMq _ _ _ s _ _ | .ldDMq _ _ _ s _ _ | .ldvMq _ _ _ s _ _ | .stBMq _ _ _ s _ _ | .stHMq _ _ _ s _ _
  | .stWMq _ _ _ s _ _ | .stDMq _ _ _ s _ _ | .stvMq _ _ _ s _ _ | .ldAcqB _ _ _ s _ _ | .ldAcqBu _ _ _ s _ _
  | .ldAcqH _ _ _ s _ _ | .ldAcqHu _ _ _ s _ _ | .ldAcqW _ _ _ s _ _ | .ldAcqWu _ _ _ s _ _
  | .ldAcqD _ _ _ s _ _ | .stRelB _ _ _ s _ _ | .stRelH _ _ _ s _ _ | .stRelW _ _ _ s _ _
  | .stRelD _ _ _ s _ _ => scopeOk s
  | .ldSpBMq _ _ _ s _ | .ldSpBuMq _ _ _ s _ | .ldSpHMq _ _ _ s _ | .ldSpHuMq _ _ _ s _ | .ldSpWMq _ _ _ s _
  | .ldSpWuMq _ _ _ s _ | .ldSpDMq _ _ _ s _ | .ldvSpMq _ _ _ s _ | .stSpBMq _ _ _ s _ | .stSpHMq _ _ _ s _
  | .stSpWMq _ _ _ s _ | .stSpDMq _ _ _ s _ | .stvSpMq _ _ _ s _ => scopeOk s
  | .atomW _ _ _ s o _ | .atomD _ _ _ s o _ => scopeOk s && o != 7
  | .casW t _ _ s _ | .casD t _ _ s _ => scopeOk s && t != 31
  | .fence _ s _ => scopeOk s
  | .mwait t _ _ s _ => scopeOk s && t != 31
  | .copy _ _ _ s _ | .stamp _ _ _ s _ _ | .ctarm _ _ _ s _ | .hgive _ _ _ s _ | .htake _ _ _ s _
  | .evac _ _ _ s _ => scopeOk s
  | .ctarmDis _ _ s _ | .ctset _ _ s _ | .hgiveRet _ _ s _ | .htakeWd _ _ s _ => scopeOk s
  | .mxfmt a b _ _ => matrixFmt a && matrixFmt b && (fmtIsInt8 a == fmtIsInt8 b)
  | .mxdrv v _ _ _ => v.toNat ≤ 28
  | .mxchk _ _ e _ => 8 ≤ e.toNat && e.toNat ≤ 24
  | .ringcfg _ _ _ s _ => s.toNat ≤ 2
  | .tld _ _ _ f b d _ => tldPair f d && (b == 0 || fmtIsMx d)
  | .tst _ _ _ f _ _ => f.toNat = 0 || matrixFmt f
  | .ald _ _ r f _ | .ast _ _ r f _ | .aadd _ _ r f _ => r.toNat ≤ 49 && f.toNat ≤ 1
  | .acvt _ _ r _ _ => r.toNat = 0 || r.toNat = 32
  | .aadam v _ r _ _ => v.toNat ≤ 28 && r.toNat ≤ 48
  | _ => true

/-- A run of n vector registers from r. -/
def vgroup (r : BitVec 5) (n : Nat) : List Reg := (List.range n).map fun k => .v (r.toNat + k)

/-- The registers an operation names as destinations (R117, R143); s0 counts, a bri that writes no link names none. -/
def Instr.dests : Instr → List Reg
  | .sadd d .. | .ssub d .. | .smul d .. | .smulh d .. | .sdiv d .. | .srem d .. | .smin d .. | .smax d ..
  | .sand d .. | .sor d .. | .sxor d .. | .sandn d .. | .sshl d .. | .sshr d .. | .ssra d .. | .srot d ..
  | .saddSi d .. | .smulSi d .. | .sandSi d .. | .sorSi d .. | .sxorSi d .. | .sminSi d .. | .smaxSi d ..
  | .sshlSi d .. | .sshrSi d .. | .ssraSi d .. | .srotSi d .. | .sclz d .. | .sctz d .. | .spopc d ..
  | .sext d .. | .sbfx d .. | .sbfi d .. | .smov d .. | .smovi d .. | .ssel d .. | .sfadd d .. | .sfmul d ..
  | .sffma d .. | .sfcvt d .. | .sget d .. | .vext d .. | .mpop d .. => [.s d.toNat]
  | .scmp d .. | .scmpSi d .. | .pset d .. | .sfcmp d .. => [.p d.toNat]
  | .call .. => [.s 31]
  | .bri d _ _ => if d = 0 then [] else [.s d.toNat]
  | .vaddF d .. | .vsubF d .. | .vmulF d .. | .vfma d .. | .vfnma d .. | .vminF d .. | .vmaxF d .. | .vabsF d ..
  | .vnegF d .. | .vaddI d .. | .vsubI d .. | .vmulI d .. | .vminI d .. | .vmaxI d .. | .vminN d .. | .vmaxN d ..
  | .vabsI d .. | .vnegI d .. | .vand d .. | .vor d .. | .vxor d .. | .vshl d .. | .vshr d .. | .vsra d ..
  | .vsel d .. | .vmov d .. | .vmovs d .. | .viota d .. | .vcvt d .. | .vcvtSat d .. | .vpack d ..
  | .vrotr d .. | .vbcr d .. | .vredr d .. | .vrotc d .. | .vbcc d .. | .vredc d .. | .vpermc d .. | .vins d ..
  | .vrcp d .. | .vrsq d .. | .vexp2 d .. | .vlog2 d .. => [.v d.toNat]
  | .vunpk d _ s e _ _ => vgroup d (packGroup e s)
  | .vquant d .. => vgroup d 3
  | .vcmpF d .. | .vcmpI d .. | .vcmpN d .. => [.m d.toNat]
  | .mlog d .. | .mset d .. | .mmov d .. => [.m d.toNat]
  | .ldB t .. | .ldBu t .. | .ldH t .. | .ldHu t .. | .ldW t .. | .ldWu t .. | .ldD t .. | .ldBMq t ..
  | .ldBuMq t .. | .ldHMq t .. | .ldHuMq t .. | .ldWMq t .. | .ldWuMq t .. | .ldDMq t .. | .ldAcqB t ..
  | .ldAcqBu t .. | .ldAcqH t .. | .ldAcqHu t .. | .ldAcqW t .. | .ldAcqWu t .. | .ldAcqD t .. | .ldSpB t ..
  | .ldSpBu t .. | .ldSpH t .. | .ldSpHu t .. | .ldSpW t .. | .ldSpWu t .. | .ldSpD t .. | .ldSpBMq t ..
  | .ldSpBuMq t .. | .ldSpHMq t .. | .ldSpHuMq t .. | .ldSpWMq t .. | .ldSpWuMq t .. | .ldSpDMq t ..
  | .atomW t .. | .atomD t .. => [.s t.toNat]
  | .ldv t .. | .ldvMq t .. | .ldvSp t .. | .ldvSpMq t .. | .ldx t .. | .ldxSp t .. => [.v t.toNat]
  | .casW t .. | .casD t .. | .mwait t .. => [.s t.toNat, .s (t.toNat + 1)]
  | .enq a .. | .bgadd a .. | .ctstat a .. | .hgive a .. | .htake a .. | .hqry a .. | .snap a .. | .sstat a ..
  | .chartq a .. => [.s a.toNat]
  | .mxdrv v .. => vgroup v 4
  | .ringst t .. => [.s t.toNat]
  | .ald v .. | .acvt v .. => [.v v.toNat]
  | .aadam v .. => vgroup v 3
  | _ => []

/-- A partition index of the package (R3). -/
def partOk (p : Nat) : Bool := p < 1536

/-- A core index of the package (R3). -/
def coreOk (c : Nat) : Bool := c < 384

/-- An access that an answer names is of a partition, an entry, a core, a page or an address space the package has (R3, R10, R17, R96). -/
def Asker.wf : Asker → Bool
  | .read p _ | .store p _ | .wait p => partOk p
  | .cmd .. => true
  | .send sd e | .arrival sd e _ => sd < 8 && e < 2048
  | .prefetch core _ => coreOk core
  | .pin page => page < 2 ^ 34
  | .meridian asid va => asid < 4096 && va < 2 ^ 64

/-- An instruction is well formed: an operation's fields are legal (R159 reason 5), and an event names a unit the package
has (R3, R96, R284, R346, R352, R358). -/
def Instr.wf (i : Instr) : Bool :=
  i.legal &&
  match i with
  | .bundleIssue p | .bundleLimitDatum p | .interlockedResult p _ | .datumCommit p | .budgetExhaustion p
  | .graceExhaustion p | .stopRequest p _ | .stopAbandon p | .storePerform p _ | .monitorWake p
  | .mwaitRemoteRecheck p _ | .mwaitHostPoll p _ | .tldComplete p | .tstComplete p | .mxwLoadComplete p
  | .mxchkComplete p | .wakeMessage p _ => partOk p
  | .bhpCpl a .. | .rsp a .. => a.wf
  | .matrixCommandStart c | .drainCheck c | .evacuationLineCopy c | .compaction c | .foldCopy c
  | .selfTestComplete c _ => coreOk c
  | .errsThreshold c i => coreOk c && i < 324
  | .collectiveSend sd e | .sendComplete sd e | .contributionArrival sd e _ | .collectiveTimeout sd e =>
    sd < 8 && e < 2048
  | .admission q | .ageingPromotion q | .queueEnable q _ | .queueDisable q _ | .wbaseWrite q _ => q < 4096
  | .ucieModuleFail m => m < 4
  | .linkTrain port .. | .pause port _ | .resume port _ | .ack port _ | .nak port _ | .flitCrcFail port
  | .portRetrain port | .portDown port => port < 16
  | _ => true

end Sys2Proof
end

