-- ==== Sys2Proof/Decode.lean ====
section
/-! DEFINITION. Decoding of bundles and slot words (spec/07 R138 to R159) and the encoder. Decoding is total: a word that
encodes no operation answers the reason of R159 by which it is illegal. -/

namespace Sys2Proof

/-- The four slot classes, each with its own opcode space (spec/07, Slot words). -/
inductive SlotClass where
  | s | v | m | a
  deriving DecidableEq, Repr

/-- The six slots in the order of R116 and R159: S0, S1, V0, V1, M, A. -/
inductive Slot where
  | s0 | s1 | v0 | v1 | m | a
  deriving DecidableEq, Repr

/-- The class of the operations a slot carries (R144). -/
def Slot.cls : Slot → SlotClass
  | .s0 | .s1 => .s
  | .v0 | .v1 => .v
  | .m => .m
  | .a => .a

/-- The slot's number in a trap record's detail word (R159) and its header bit counted down from 15 (R138). -/
def Slot.num : Slot → Nat
  | .s0 => 0 | .s1 => 1 | .v0 => 2 | .v1 => 3 | .m => 4 | .a => 5

/-- The slots in ascending order. -/
def Slot.all : List Slot := [.s0, .s1, .v0, .v1, .m, .a]

/-- What a slot word's opcode says of it: the operation read from its fields, the bits `m5` that must hold `v5` or
give reason 5, the bits `z6` that must be zero or give reason 6, the immediate field `imm` (0 for an operation that
takes no literal), the ISA feature of R158 that gates it, and the format codes its fields hold. -/
structure Dec where
  i    : Instr
  m5   : W32
  v5   : W32
  z6   : W32
  imm  : W32
  feat : Option Nat
  fmts : List (BitVec 4)

/-- The immediate of an SI or SL operation: its field, or the literal attached to S0 (R145). -/
def immOf {n : Nat} (v : BitVec n) (l : Option W32) : Imm n :=
  match l with
  | none => .fld v
  | some x => .lit x

/-- The opcode map of the S-class, R153 and R146: the operation a word's opcode names and what R159 checks of its other bits. -/
def rawS (w : W32) (l : Option W32) : Option Dec :=
  match (w.extractLsb' 25 7).toNat with
  | 0x0 => some ⟨.sadd (w.extractLsb' 20 5) (w.extractLsb' 15 5) (w.extractLsb' 10 5) (w.extractLsb' 6 1) (w.extractLsb' 5 1) (w.extractLsb' 0 5), 0x0, 0x0, 0x380, 0x0, none, []⟩
  | 0x1 => some ⟨.ssub (w.extractLsb' 20 5) (w.extractLsb' 15 5) (w.extractLsb' 10 5) (w.extractLsb' 6 1) (w.extractLsb' 5 1) (w.extractLsb' 0 5), 0x0, 0x0, 0x380, 0x0, none, []⟩
  | 0x2 => some ⟨.smul (w.extractLsb' 20 5) (w.extractLsb' 15 5) (w.extractLsb' 10 5) (w.extractLsb' 6 1) (w.extractLsb' 5 1) (w.extractLsb' 0 5), 0x0, 0x0, 0x380, 0x0, none, []⟩
  | 0x3 => some ⟨.smulh (w.extractLsb' 20 5) (w.extractLsb' 15 5) (w.extractLsb' 10 5) (w.extractLsb' 6 1) (w.extractLsb' 5 1) (w.extractLsb' 0 5), 0x0, 0x0, 0x380, 0x0, none, []⟩
  | 0x4 => some ⟨.sdiv (w.extractLsb' 20 5) (w.extractLsb' 15 5) (w.extractLsb' 10 5) (w.extractLsb' 6 1) (w.extractLsb' 5 1) (w.extractLsb' 0 5), 0x0, 0x0, 0x380, 0x0, none, []⟩
  | 0x5 => some ⟨.srem (w.extractLsb' 20 5) (w.extractLsb' 15 5) (w.extractLsb' 10 5) (w.extractLsb' 6 1) (w.extractLsb' 5 1) (w.extractLsb' 0 5), 0x0, 0x0, 0x380, 0x0, none, []⟩
  | 0x6 => some ⟨.smin (w.extractLsb' 20 5) (w.extractLsb' 15 5) (w.extractLsb' 10 5) (w.extractLsb' 6 1) (w.extractLsb' 5 1) (w.extractLsb' 0 5), 0x0, 0x0, 0x380, 0x0, none, []⟩
  | 0x7 => some ⟨.smax (w.extractLsb' 20 5) (w.extractLsb' 15 5) (w.extractLsb' 10 5) (w.extractLsb' 6 1) (w.extractLsb' 5 1) (w.extractLsb' 0 5), 0x0, 0x0, 0x380, 0x0, none, []⟩
  | 0x8 => some ⟨.sand (w.extractLsb' 20 5) (w.extractLsb' 15 5) (w.extractLsb' 10 5) (w.extractLsb' 6 1) (w.extractLsb' 5 1) (w.extractLsb' 0 5), 0x0, 0x0, 0x380, 0x0, none, []⟩
  | 0x9 => some ⟨.sor (w.extractLsb' 20 5) (w.extractLsb' 15 5) (w.extractLsb' 10 5) (w.extractLsb' 6 1) (w.extractLsb' 5 1) (w.extractLsb' 0 5), 0x0, 0x0, 0x380, 0x0, none, []⟩
  | 0xa => some ⟨.sxor (w.extractLsb' 20 5) (w.extractLsb' 15 5) (w.extractLsb' 10 5) (w.extractLsb' 6 1) (w.extractLsb' 5 1) (w.extractLsb' 0 5), 0x0, 0x0, 0x380, 0x0, none, []⟩
  | 0xb => some ⟨.sandn (w.extractLsb' 20 5) (w.extractLsb' 15 5) (w.extractLsb' 10 5) (w.extractLsb' 6 1) (w.extractLsb' 5 1) (w.extractLsb' 0 5), 0x0, 0x0, 0x380, 0x0, none, []⟩
  | 0xc => some ⟨.sshl (w.extractLsb' 20 5) (w.extractLsb' 15 5) (w.extractLsb' 10 5) (w.extractLsb' 6 1) (w.extractLsb' 5 1) (w.extractLsb' 0 5), 0x0, 0x0, 0x380, 0x0, none, []⟩
  | 0xd => some ⟨.sshr (w.extractLsb' 20 5) (w.extractLsb' 15 5) (w.extractLsb' 10 5) (w.extractLsb' 6 1) (w.extractLsb' 5 1) (w.extractLsb' 0 5), 0x0, 0x0, 0x380, 0x0, none, []⟩
  | 0xe => some ⟨.ssra (w.extractLsb' 20 5) (w.extractLsb' 15 5) (w.extractLsb' 10 5) (w.extractLsb' 6 1) (w.extractLsb' 5 1) (w.extractLsb' 0 5), 0x0, 0x0, 0x380, 0x0, none, []⟩
  | 0xf => some ⟨.srot (w.extractLsb' 20 5) (w.extractLsb' 15 5) (w.extractLsb' 10 5) (w.extractLsb' 6 1) (w.extractLsb' 5 1) (w.extractLsb' 0 5), 0x0, 0x0, 0x380, 0x0, none, []⟩
  | 0x10 => some ⟨.saddSi (w.extractLsb' 20 5) (w.extractLsb' 15 5) (immOf (w.extractLsb' 5 10) l) (w.extractLsb' 0 5), 0x0, 0x0, 0x0, 0x7fe0, none, []⟩
  | 0x11 => some ⟨.smulSi (w.extractLsb' 20 5) (w.extractLsb' 15 5) (immOf (w.extractLsb' 5 10) l) (w.extractLsb' 0 5), 0x0, 0x0, 0x0, 0x7fe0, none, []⟩
  | 0x12 => some ⟨.sandSi (w.extractLsb' 20 5) (w.extractLsb' 15 5) (immOf (w.extractLsb' 5 10) l) (w.extractLsb' 0 5), 0x0, 0x0, 0x0, 0x7fe0, none, []⟩
  | 0x13 => some ⟨.sorSi (w.extractLsb' 20 5) (w.extractLsb' 15 5) (immOf (w.extractLsb' 5 10) l) (w.extractLsb' 0 5), 0x0, 0x0, 0x0, 0x7fe0, none, []⟩
  | 0x14 => some ⟨.sxorSi (w.extractLsb' 20 5) (w.extractLsb' 15 5) (immOf (w.extractLsb' 5 10) l) (w.extractLsb' 0 5), 0x0, 0x0, 0x0, 0x7fe0, none, []⟩
  | 0x15 => some ⟨.sminSi (w.extractLsb' 20 5) (w.extractLsb' 15 5) (immOf (w.extractLsb' 5 10) l) (w.extractLsb' 0 5), 0x0, 0x0, 0x0, 0x7fe0, none, []⟩
  | 0x16 => some ⟨.smaxSi (w.extractLsb' 20 5) (w.extractLsb' 15 5) (immOf (w.extractLsb' 5 10) l) (w.extractLsb' 0 5), 0x0, 0x0, 0x0, 0x7fe0, none, []⟩
  | 0x18 => some ⟨.sshlSi (w.extractLsb' 20 5) (w.extractLsb' 15 5) (immOf (w.extractLsb' 5 10) l) (w.extractLsb' 0 5), 0x0, 0x0, 0x0, 0x7fe0, none, []⟩
  | 0x19 => some ⟨.sshrSi (w.extractLsb' 20 5) (w.extractLsb' 15 5) (immOf (w.extractLsb' 5 10) l) (w.extractLsb' 0 5), 0x0, 0x0, 0x0, 0x7fe0, none, []⟩
  | 0x1a => some ⟨.ssraSi (w.extractLsb' 20 5) (w.extractLsb' 15 5) (immOf (w.extractLsb' 5 10) l) (w.extractLsb' 0 5), 0x0, 0x0, 0x0, 0x7fe0, none, []⟩
  | 0x1b => some ⟨.srotSi (w.extractLsb' 20 5) (w.extractLsb' 15 5) (immOf (w.extractLsb' 5 10) l) (w.extractLsb' 0 5), 0x0, 0x0, 0x0, 0x7fe0, none, []⟩
  | 0x1c => some ⟨.sclz (w.extractLsb' 20 5) (w.extractLsb' 15 5) (w.extractLsb' 6 1) (w.extractLsb' 5 1) (w.extractLsb' 0 5), 0x0, 0x0, 0x7f80, 0x0, none, []⟩
  | 0x1d => some ⟨.sctz (w.extractLsb' 20 5) (w.extractLsb' 15 5) (w.extractLsb' 6 1) (w.extractLsb' 5 1) (w.extractLsb' 0 5), 0x0, 0x0, 0x7f80, 0x0, none, []⟩
  | 0x1e => some ⟨.spopc (w.extractLsb' 20 5) (w.extractLsb' 15 5) (w.extractLsb' 6 1) (w.extractLsb' 5 1) (w.extractLsb' 0 5), 0x0, 0x0, 0x7f80, 0x0, none, []⟩
  | 0x1f => some ⟨.sext (w.extractLsb' 20 5) (w.extractLsb' 15 5) (w.extractLsb' 7 1) (w.extractLsb' 5 2) (w.extractLsb' 0 5), 0x0, 0x0, 0x7f00, 0x0, none, []⟩
  | 0x20 => some ⟨.sbfx (w.extractLsb' 20 5) (w.extractLsb' 15 5) (w.extractLsb' 10 5) (w.extractLsb' 6 1) (w.extractLsb' 0 5), 0x20, 0x0, 0x380, 0x0, none, []⟩
  | 0x21 => some ⟨.sbfi (w.extractLsb' 20 5) (w.extractLsb' 15 5) (w.extractLsb' 10 5) (w.extractLsb' 0 5), 0x0, 0x0, 0x3e0, 0x0, none, []⟩
  | 0x22 => some ⟨.smov (w.extractLsb' 20 5) (w.extractLsb' 15 5) (w.extractLsb' 0 5), 0x0, 0x0, 0x7fe0, 0x0, none, []⟩
  | 0x23 => some ⟨.smovi (w.extractLsb' 20 5) (immOf (w.extractLsb' 5 15) l) (w.extractLsb' 0 5), 0x0, 0x0, 0x0, 0xfffe0, none, []⟩
  | 0x24 => some ⟨.scmp (w.extractLsb' 20 5) (w.extractLsb' 15 5) (w.extractLsb' 10 5) (w.extractLsb' 8 1) (w.extractLsb' 5 3) (w.extractLsb' 0 5), 0x0, 0x0, 0x200, 0x0, none, []⟩
  | 0x25 => some ⟨.scmpSi (w.extractLsb' 20 5) (w.extractLsb' 15 5) (immOf (w.extractLsb' 8 7) l) (w.extractLsb' 5 3) (w.extractLsb' 0 5), 0x0, 0x0, 0x0, 0x7f00, none, []⟩
  | 0x26 => some ⟨.ssel (w.extractLsb' 20 5) (w.extractLsb' 15 5) (w.extractLsb' 10 5) (w.extractLsb' 9 1) (w.extractLsb' 5 4) (w.extractLsb' 0 5), 0x0, 0x0, 0x0, 0x0, none, []⟩
  | 0x27 => some ⟨.pset (w.extractLsb' 20 5) (w.extractLsb' 15 5) (w.extractLsb' 10 5) (w.extractLsb' 5 4) (w.extractLsb' 0 5), 0x0, 0x0, 0x200, 0x0, none, []⟩
  | 0x28 => some ⟨.sfadd (w.extractLsb' 20 5) (w.extractLsb' 15 5) (w.extractLsb' 10 5) (w.extractLsb' 5 1) (w.extractLsb' 0 5), 0x0, 0x0, 0x3c0, 0x0, none, []⟩
  | 0x29 => some ⟨.sfmul (w.extractLsb' 20 5) (w.extractLsb' 15 5) (w.extractLsb' 10 5) (w.extractLsb' 0 5), 0x0, 0x0, 0x3e0, 0x0, none, []⟩
  | 0x2a => some ⟨.sffma (w.extractLsb' 20 5) (w.extractLsb' 15 5) (w.extractLsb' 10 5) (w.extractLsb' 5 1) (w.extractLsb' 0 5), 0x0, 0x0, 0x3c0, 0x0, none, []⟩
  | 0x2b => some ⟨.sfcvt (w.extractLsb' 20 5) (w.extractLsb' 15 5) (w.extractLsb' 10 4) (w.extractLsb' 9 1) (w.extractLsb' 7 2) (w.extractLsb' 6 1) (w.extractLsb' 5 1) (w.extractLsb' 0 5), 0x0, 0x0, 0x4000, 0x0, none, [w.extractLsb' 10 4]⟩
  | 0x2c => some ⟨.sfcmp (w.extractLsb' 20 5) (w.extractLsb' 15 5) (w.extractLsb' 10 5) (w.extractLsb' 5 3) (w.extractLsb' 0 5), 0x0, 0x0, 0x300, 0x0, none, []⟩
  | 0x48 => some ⟨.sget (w.extractLsb' 20 5) (w.extractLsb' 10 10) (w.extractLsb' 0 5), 0x0, 0x0, 0x3e0, 0x0, none, []⟩
  | 0x49 => some ⟨.sset (w.extractLsb' 20 5) (w.extractLsb' 10 10) (w.extractLsb' 0 5), 0x0, 0x0, 0x3e0, 0x0, none, []⟩
  | 0x60 => some ⟨.br (w.extractLsb' 5 20) (w.extractLsb' 0 5), 0x0, 0x0, 0x0, 0x0, none, []⟩
  | 0x61 => some ⟨.call (w.extractLsb' 5 20) (w.extractLsb' 0 5), 0x0, 0x0, 0x0, 0x0, none, []⟩
  | 0x62 => some ⟨.bri (w.extractLsb' 20 5) (w.extractLsb' 15 5) (w.extractLsb' 0 5), 0x0, 0x0, 0x7fe0, 0x0, none, []⟩
  | 0x63 => some ⟨.ret (w.extractLsb' 0 5), 0x0, 0x0, 0x1ffffe0, 0x0, none, []⟩
  | 0x64 => some ⟨.loop (w.extractLsb' 20 5) (w.extractLsb' 8 12) (w.extractLsb' 5 3) (w.extractLsb' 0 5), 0x0, 0x0, 0x0, 0x0, none, []⟩
  | 0x65 => some ⟨.loopx (w.extractLsb' 5 20) (w.extractLsb' 0 5), 0x0, 0x0, 0x0, 0x0, none, []⟩
  | 0x66 => some ⟨.trap (w.extractLsb' 5 20) (w.extractLsb' 0 5), 0x0, 0x0, 0x0, 0x0, none, []⟩
  | 0x67 => some ⟨.brk (w.extractLsb' 5 20) (w.extractLsb' 0 5), 0x0, 0x0, 0x0, 0x0, none, []⟩
  | 0x68 => some ⟨.trig (w.extractLsb' 0 5), 0x0, 0x0, 0x1ffffe0, 0x0, some 3, []⟩
  | 0x69 => some ⟨.exit (w.extractLsb' 0 5), 0x0, 0x0, 0x1ffffe0, 0x0, none, []⟩
  | 0x6a => some ⟨.yield (w.extractLsb' 0 5), 0x0, 0x0, 0x1ffffe0, 0x0, none, []⟩
  | 0x6b => some ⟨.cont (w.extractLsb' 5 20) (w.extractLsb' 0 5), 0x0, 0x0, 0x0, 0x0, some 5, []⟩
  | 0x6c => some ⟨.tret (w.extractLsb' 0 5), 0x0, 0x0, 0x1ffffe0, 0x0, none, []⟩
  | 0x6d => some ⟨.halt (w.extractLsb' 0 5), 0x0, 0x0, 0x1ffffe0, 0x0, none, []⟩
  | _ => none

/-- The opcode map of the V-class, R154 and R148: the operation a word's opcode names and what R159 checks of its other bits. -/
def rawV (w : W32) (_l : Option W32) : Option Dec :=
  match (w.extractLsb' 25 7).toNat with
  | 0x0 => some ⟨.vaddF (w.extractLsb' 20 5) (w.extractLsb' 15 5) (w.extractLsb' 10 5) (w.extractLsb' 7 3) (w.extractLsb' 5 2) (w.extractLsb' 0 5), 0x0, 0x0, 0x0, 0x0, none, []⟩
  | 0x1 => some ⟨.vsubF (w.extractLsb' 20 5) (w.extractLsb' 15 5) (w.extractLsb' 10 5) (w.extractLsb' 7 3) (w.extractLsb' 5 2) (w.extractLsb' 0 5), 0x0, 0x0, 0x0, 0x0, none, []⟩
  | 0x2 => some ⟨.vmulF (w.extractLsb' 20 5) (w.extractLsb' 15 5) (w.extractLsb' 10 5) (w.extractLsb' 7 3) (w.extractLsb' 5 2) (w.extractLsb' 0 5), 0x0, 0x0, 0x0, 0x0, none, []⟩
  | 0x3 => some ⟨.vfma (w.extractLsb' 20 5) (w.extractLsb' 15 5) (w.extractLsb' 10 5) (w.extractLsb' 7 3) (w.extractLsb' 5 2) (w.extractLsb' 0 5), 0x0, 0x0, 0x0, 0x0, none, []⟩
  | 0x4 => some ⟨.vfnma (w.extractLsb' 20 5) (w.extractLsb' 15 5) (w.extractLsb' 10 5) (w.extractLsb' 7 3) (w.extractLsb' 5 2) (w.extractLsb' 0 5), 0x0, 0x0, 0x0, 0x0, none, []⟩
  | 0x5 => some ⟨.vminF (w.extractLsb' 20 5) (w.extractLsb' 15 5) (w.extractLsb' 10 5) (w.extractLsb' 7 3) (w.extractLsb' 5 2) (w.extractLsb' 0 5), 0x0, 0x0, 0x0, 0x0, none, []⟩
  | 0x6 => some ⟨.vmaxF (w.extractLsb' 20 5) (w.extractLsb' 15 5) (w.extractLsb' 10 5) (w.extractLsb' 7 3) (w.extractLsb' 5 2) (w.extractLsb' 0 5), 0x0, 0x0, 0x0, 0x0, none, []⟩
  | 0x7 => some ⟨.vabsF (w.extractLsb' 20 5) (w.extractLsb' 15 5) (w.extractLsb' 7 3) (w.extractLsb' 5 2) (w.extractLsb' 0 5), 0x0, 0x0, 0x7c00, 0x0, none, []⟩
  | 0x8 => some ⟨.vnegF (w.extractLsb' 20 5) (w.extractLsb' 15 5) (w.extractLsb' 7 3) (w.extractLsb' 5 2) (w.extractLsb' 0 5), 0x0, 0x0, 0x7c00, 0x0, none, []⟩
  | 0x9 => some ⟨.vcmpF (w.extractLsb' 20 3) (w.extractLsb' 15 5) (w.extractLsb' 10 5) (w.extractLsb' 7 3) (w.extractLsb' 5 2) (w.extractLsb' 0 5), 0x1800000, 0x0, 0x0, 0x0, none, []⟩
  | 0xa => some ⟨.vaddI (w.extractLsb' 20 5) (w.extractLsb' 15 5) (w.extractLsb' 10 5) (w.extractLsb' 7 3) (w.extractLsb' 5 2) (w.extractLsb' 0 5), 0x0, 0x0, 0x0, 0x0, none, []⟩
  | 0xb => some ⟨.vsubI (w.extractLsb' 20 5) (w.extractLsb' 15 5) (w.extractLsb' 10 5) (w.extractLsb' 7 3) (w.extractLsb' 5 2) (w.extractLsb' 0 5), 0x0, 0x0, 0x0, 0x0, none, []⟩
  | 0xc => some ⟨.vmulI (w.extractLsb' 20 5) (w.extractLsb' 15 5) (w.extractLsb' 10 5) (w.extractLsb' 7 3) (w.extractLsb' 5 2) (w.extractLsb' 0 5), 0x0, 0x0, 0x0, 0x0, none, []⟩
  | 0xd => some ⟨.vminI (w.extractLsb' 20 5) (w.extractLsb' 15 5) (w.extractLsb' 10 5) (w.extractLsb' 7 3) (w.extractLsb' 5 2) (w.extractLsb' 0 5), 0x0, 0x0, 0x0, 0x0, none, []⟩
  | 0xe => some ⟨.vmaxI (w.extractLsb' 20 5) (w.extractLsb' 15 5) (w.extractLsb' 10 5) (w.extractLsb' 7 3) (w.extractLsb' 5 2) (w.extractLsb' 0 5), 0x0, 0x0, 0x0, 0x0, none, []⟩
  | 0xf => some ⟨.vminN (w.extractLsb' 20 5) (w.extractLsb' 15 5) (w.extractLsb' 10 5) (w.extractLsb' 7 3) (w.extractLsb' 5 2) (w.extractLsb' 0 5), 0x0, 0x0, 0x0, 0x0, none, []⟩
  | 0x10 => some ⟨.vmaxN (w.extractLsb' 20 5) (w.extractLsb' 15 5) (w.extractLsb' 10 5) (w.extractLsb' 7 3) (w.extractLsb' 5 2) (w.extractLsb' 0 5), 0x0, 0x0, 0x0, 0x0, none, []⟩
  | 0x11 => some ⟨.vabsI (w.extractLsb' 20 5) (w.extractLsb' 15 5) (w.extractLsb' 7 3) (w.extractLsb' 5 2) (w.extractLsb' 0 5), 0x0, 0x0, 0x7c00, 0x0, none, []⟩
  | 0x12 => some ⟨.vnegI (w.extractLsb' 20 5) (w.extractLsb' 15 5) (w.extractLsb' 7 3) (w.extractLsb' 5 2) (w.extractLsb' 0 5), 0x0, 0x0, 0x7c00, 0x0, none, []⟩
  | 0x13 => some ⟨.vcmpI (w.extractLsb' 20 3) (w.extractLsb' 15 5) (w.extractLsb' 10 5) (w.extractLsb' 7 3) (w.extractLsb' 5 2) (w.extractLsb' 0 5), 0x1800000, 0x0, 0x0, 0x0, none, []⟩
  | 0x14 => some ⟨.vcmpN (w.extractLsb' 20 3) (w.extractLsb' 15 5) (w.extractLsb' 10 5) (w.extractLsb' 7 3) (w.extractLsb' 5 2) (w.extractLsb' 0 5), 0x1800000, 0x0, 0x0, 0x0, none, []⟩
  | 0x15 => some ⟨.vand (w.extractLsb' 20 5) (w.extractLsb' 15 5) (w.extractLsb' 10 5) (w.extractLsb' 7 3) (w.extractLsb' 0 5), 0x60, 0x0, 0x0, 0x0, none, []⟩
  | 0x16 => some ⟨.vor (w.extractLsb' 20 5) (w.extractLsb' 15 5) (w.extractLsb' 10 5) (w.extractLsb' 7 3) (w.extractLsb' 0 5), 0x60, 0x0, 0x0, 0x0, none, []⟩
  | 0x17 => some ⟨.vxor (w.extractLsb' 20 5) (w.extractLsb' 15 5) (w.extractLsb' 10 5) (w.extractLsb' 7 3) (w.extractLsb' 0 5), 0x60, 0x0, 0x0, 0x0, none, []⟩
  | 0x18 => some ⟨.vshl (w.extractLsb' 20 5) (w.extractLsb' 15 5) (w.extractLsb' 10 5) (w.extractLsb' 7 3) (w.extractLsb' 5 2) (w.extractLsb' 0 5), 0x0, 0x0, 0x0, 0x0, none, []⟩
  | 0x19 => some ⟨.vshr (w.extractLsb' 20 5) (w.extractLsb' 15 5) (w.extractLsb' 10 5) (w.extractLsb' 7 3) (w.extractLsb' 5 2) (w.extractLsb' 0 5), 0x0, 0x0, 0x0, 0x0, none, []⟩
  | 0x1a => some ⟨.vsra (w.extractLsb' 20 5) (w.extractLsb' 15 5) (w.extractLsb' 10 5) (w.extractLsb' 7 3) (w.extractLsb' 5 2) (w.extractLsb' 0 5), 0x0, 0x0, 0x0, 0x0, none, []⟩
  | 0x1b => some ⟨.vsel (w.extractLsb' 20 5) (w.extractLsb' 15 5) (w.extractLsb' 10 5) (w.extractLsb' 7 3) (w.extractLsb' 0 5), 0x60, 0x0, 0x0, 0x0, none, []⟩
  | 0x1c => some ⟨.vmov (w.extractLsb' 20 5) (w.extractLsb' 15 5) (w.extractLsb' 7 3) (w.extractLsb' 0 5), 0x60, 0x0, 0x7c00, 0x0, none, []⟩
  | 0x1d => some ⟨.vmovs (w.extractLsb' 20 5) (w.extractLsb' 15 5) (w.extractLsb' 7 3) (w.extractLsb' 0 5), 0x60, 0x0, 0x7c00, 0x0, none, []⟩
  | 0x1e => some ⟨.viota (w.extractLsb' 20 5) (w.extractLsb' 15 5) (w.extractLsb' 7 3) (w.extractLsb' 0 5), 0x60, 0x0, 0x7c00, 0x0, none, []⟩
  | 0x20 => some ⟨.vcvt (w.extractLsb' 20 5) (w.extractLsb' 15 5) (w.extractLsb' 11 4) (w.extractLsb' 7 4) (w.extractLsb' 5 2) (w.extractLsb' 0 5), 0x0, 0x0, 0x0, 0x0, none, [w.extractLsb' 11 4, w.extractLsb' 7 4]⟩
  | 0x21 => some ⟨.vcvtSat (w.extractLsb' 20 5) (w.extractLsb' 15 5) (w.extractLsb' 11 4) (w.extractLsb' 7 4) (w.extractLsb' 5 2) (w.extractLsb' 0 5), 0x0, 0x0, 0x0, 0x0, none, [w.extractLsb' 11 4, w.extractLsb' 7 4]⟩
  | 0x22 => some ⟨.vpack (w.extractLsb' 20 5) (w.extractLsb' 15 5) (w.extractLsb' 11 4) (w.extractLsb' 7 4) (w.extractLsb' 5 2) (w.extractLsb' 0 5), 0x0, 0x0, 0x0, 0x0, none, [w.extractLsb' 11 4, w.extractLsb' 7 4]⟩
  | 0x23 => some ⟨.vunpk (w.extractLsb' 20 5) (w.extractLsb' 15 5) (w.extractLsb' 11 4) (w.extractLsb' 7 4) (w.extractLsb' 5 2) (w.extractLsb' 0 5), 0x0, 0x0, 0x0, 0x0, none, [w.extractLsb' 11 4, w.extractLsb' 7 4]⟩
  | 0x24 => some ⟨.vquant (w.extractLsb' 20 5) (w.extractLsb' 15 5) (w.extractLsb' 7 4) (w.extractLsb' 0 5), 0x7860, 0x0, 0x0, 0x0, none, [w.extractLsb' 11 4, w.extractLsb' 7 4]⟩
  | 0x28 => some ⟨.vrotr (w.extractLsb' 20 5) (w.extractLsb' 15 5) (w.extractLsb' 9 6) (w.extractLsb' 0 5), 0x1e0, 0x0, 0x0, 0x0, none, []⟩
  | 0x29 => some ⟨.vbcr (w.extractLsb' 20 5) (w.extractLsb' 15 5) (w.extractLsb' 9 6) (w.extractLsb' 0 5), 0x1e0, 0x0, 0x0, 0x0, none, []⟩
  | 0x2a => some ⟨.vredr (w.extractLsb' 20 5) (w.extractLsb' 15 5) (w.extractLsb' 9 6) (w.extractLsb' 7 2) (w.extractLsb' 0 5), 0x60, 0x0, 0x0, 0x0, none, []⟩
  | 0x2b => some ⟨.vrotc (w.extractLsb' 20 5) (w.extractLsb' 15 5) (w.extractLsb' 9 6) (w.extractLsb' 0 5), 0x1e0, 0x0, 0x0, 0x0, none, []⟩
  | 0x2c => some ⟨.vbcc (w.extractLsb' 20 5) (w.extractLsb' 15 5) (w.extractLsb' 9 6) (w.extractLsb' 0 5), 0x1e0, 0x0, 0x0, 0x0, none, []⟩
  | 0x2d => some ⟨.vredc (w.extractLsb' 20 5) (w.extractLsb' 15 5) (w.extractLsb' 9 6) (w.extractLsb' 7 2) (w.extractLsb' 0 5), 0x60, 0x0, 0x0, 0x0, none, []⟩
  | 0x2e => some ⟨.vpermc (w.extractLsb' 20 5) (w.extractLsb' 15 5) (w.extractLsb' 10 5) (w.extractLsb' 7 3) (w.extractLsb' 0 5), 0x60, 0x0, 0x0, 0x0, none, []⟩
  | 0x30 => some ⟨.vext (w.extractLsb' 20 5) (w.extractLsb' 15 5) (w.extractLsb' 11 4) (w.extractLsb' 5 6) (w.extractLsb' 0 5), 0x0, 0x0, 0x0, 0x0, none, []⟩
  | 0x31 => some ⟨.vins (w.extractLsb' 20 5) (w.extractLsb' 15 5) (w.extractLsb' 11 4) (w.extractLsb' 5 6) (w.extractLsb' 0 5), 0x0, 0x0, 0x0, 0x0, none, []⟩
  | 0x38 => some ⟨.mlog (w.extractLsb' 20 5) (w.extractLsb' 15 5) (w.extractLsb' 10 5) (w.extractLsb' 7 3) (w.extractLsb' 0 5), 0x60, 0x0, 0x0, 0x0, none, []⟩
  | 0x39 => some ⟨.mpop (w.extractLsb' 20 5) (w.extractLsb' 15 5) (w.extractLsb' 7 3) (w.extractLsb' 0 5), 0x60, 0x0, 0x7c00, 0x0, none, []⟩
  | 0x3a => some ⟨.mset (w.extractLsb' 20 5) (w.extractLsb' 15 5) (w.extractLsb' 0 5), 0x60, 0x0, 0x7f80, 0x0, none, []⟩
  | 0x3b => some ⟨.mmov (w.extractLsb' 20 5) (w.extractLsb' 15 5) (w.extractLsb' 0 5), 0x60, 0x0, 0x7f80, 0x0, none, []⟩
  | 0x40 => some ⟨.vrcp (w.extractLsb' 20 5) (w.extractLsb' 15 5) (w.extractLsb' 7 3) (w.extractLsb' 5 2) (w.extractLsb' 0 5), 0x0, 0x0, 0x7c00, 0x0, none, []⟩
  | 0x41 => some ⟨.vrsq (w.extractLsb' 20 5) (w.extractLsb' 15 5) (w.extractLsb' 7 3) (w.extractLsb' 5 2) (w.extractLsb' 0 5), 0x0, 0x0, 0x7c00, 0x0, none, []⟩
  | 0x42 => some ⟨.vexp2 (w.extractLsb' 20 5) (w.extractLsb' 15 5) (w.extractLsb' 7 3) (w.extractLsb' 5 2) (w.extractLsb' 0 5), 0x0, 0x0, 0x7c00, 0x0, none, []⟩
  | 0x43 => some ⟨.vlog2 (w.extractLsb' 20 5) (w.extractLsb' 15 5) (w.extractLsb' 7 3) (w.extractLsb' 5 2) (w.extractLsb' 0 5), 0x0, 0x0, 0x7c00, 0x0, none, []⟩
  | _ => none

/-- The opcode map of the M-class, R155 and R150: the operation a word's opcode names and what R159 checks of its other bits. -/
def rawM (w : W32) (_l : Option W32) : Option Dec :=
  match (w.extractLsb' 25 7).toNat with
  | 0x0 => some ⟨.ldB (w.extractLsb' 20 5) (w.extractLsb' 15 5) (w.extractLsb' 5 10) (w.extractLsb' 0 5), 0x0, 0x0, 0x0, 0x0, none, []⟩
  | 0x1 => some ⟨.ldBu (w.extractLsb' 20 5) (w.extractLsb' 15 5) (w.extractLsb' 5 10) (w.extractLsb' 0 5), 0x0, 0x0, 0x0, 0x0, none, []⟩
  | 0x2 => some ⟨.ldH (w.extractLsb' 20 5) (w.extractLsb' 15 5) (w.extractLsb' 5 10) (w.extractLsb' 0 5), 0x0, 0x0, 0x0, 0x0, none, []⟩
  | 0x3 => some ⟨.ldHu (w.extractLsb' 20 5) (w.extractLsb' 15 5) (w.extractLsb' 5 10) (w.extractLsb' 0 5), 0x0, 0x0, 0x0, 0x0, none, []⟩
  | 0x4 => some ⟨.ldW (w.extractLsb' 20 5) (w.extractLsb' 15 5) (w.extractLsb' 5 10) (w.extractLsb' 0 5), 0x0, 0x0, 0x0, 0x0, none, []⟩
  | 0x5 => some ⟨.ldWu (w.extractLsb' 20 5) (w.extractLsb' 15 5) (w.extractLsb' 5 10) (w.extractLsb' 0 5), 0x0, 0x0, 0x0, 0x0, none, []⟩
  | 0x6 => some ⟨.ldD (w.extractLsb' 20 5) (w.extractLsb' 15 5) (w.extractLsb' 5 10) (w.extractLsb' 0 5), 0x0, 0x0, 0x0, 0x0, none, []⟩
  | 0x7 => some ⟨.ldv (w.extractLsb' 20 5) (w.extractLsb' 15 5) (w.extractLsb' 5 10) (w.extractLsb' 0 5), 0x0, 0x0, 0x0, 0x0, none, []⟩
  | 0x8 => some ⟨.stB (w.extractLsb' 20 5) (w.extractLsb' 15 5) (w.extractLsb' 5 10) (w.extractLsb' 0 5), 0x0, 0x0, 0x0, 0x0, none, []⟩
  | 0x9 => some ⟨.stH (w.extractLsb' 20 5) (w.extractLsb' 15 5) (w.extractLsb' 5 10) (w.extractLsb' 0 5), 0x0, 0x0, 0x0, 0x0, none, []⟩
  | 0xa => some ⟨.stW (w.extractLsb' 20 5) (w.extractLsb' 15 5) (w.extractLsb' 5 10) (w.extractLsb' 0 5), 0x0, 0x0, 0x0, 0x0, none, []⟩
  | 0xb => some ⟨.stD (w.extractLsb' 20 5) (w.extractLsb' 15 5) (w.extractLsb' 5 10) (w.extractLsb' 0 5), 0x0, 0x0, 0x0, 0x0, none, []⟩
  | 0xc => some ⟨.stv (w.extractLsb' 20 5) (w.extractLsb' 15 5) (w.extractLsb' 5 10) (w.extractLsb' 0 5), 0x0, 0x0, 0x0, 0x0, none, []⟩
  | 0x10 => some ⟨.ldBMq (w.extractLsb' 20 5) (w.extractLsb' 15 5) (w.extractLsb' 11 4) (w.extractLsb' 8 3) (w.extractLsb' 6 2) (w.extractLsb' 0 5), 0x0, 0x0, 0x20, 0x0, none, []⟩
  | 0x11 => some ⟨.ldBuMq (w.extractLsb' 20 5) (w.extractLsb' 15 5) (w.extractLsb' 11 4) (w.extractLsb' 8 3) (w.extractLsb' 6 2) (w.extractLsb' 0 5), 0x0, 0x0, 0x20, 0x0, none, []⟩
  | 0x12 => some ⟨.ldHMq (w.extractLsb' 20 5) (w.extractLsb' 15 5) (w.extractLsb' 11 4) (w.extractLsb' 8 3) (w.extractLsb' 6 2) (w.extractLsb' 0 5), 0x0, 0x0, 0x20, 0x0, none, []⟩
  | 0x13 => some ⟨.ldHuMq (w.extractLsb' 20 5) (w.extractLsb' 15 5) (w.extractLsb' 11 4) (w.extractLsb' 8 3) (w.extractLsb' 6 2) (w.extractLsb' 0 5), 0x0, 0x0, 0x20, 0x0, none, []⟩
  | 0x14 => some ⟨.ldWMq (w.extractLsb' 20 5) (w.extractLsb' 15 5) (w.extractLsb' 11 4) (w.extractLsb' 8 3) (w.extractLsb' 6 2) (w.extractLsb' 0 5), 0x0, 0x0, 0x20, 0x0, none, []⟩
  | 0x15 => some ⟨.ldWuMq (w.extractLsb' 20 5) (w.extractLsb' 15 5) (w.extractLsb' 11 4) (w.extractLsb' 8 3) (w.extractLsb' 6 2) (w.extractLsb' 0 5), 0x0, 0x0, 0x20, 0x0, none, []⟩
  | 0x16 => some ⟨.ldDMq (w.extractLsb' 20 5) (w.extractLsb' 15 5) (w.extractLsb' 11 4) (w.extractLsb' 8 3) (w.extractLsb' 6 2) (w.extractLsb' 0 5), 0x0, 0x0, 0x20, 0x0, none, []⟩
  | 0x17 => some ⟨.ldvMq (w.extractLsb' 20 5) (w.extractLsb' 15 5) (w.extractLsb' 11 4) (w.extractLsb' 8 3) (w.extractLsb' 6 2) (w.extractLsb' 0 5), 0x0, 0x0, 0x20, 0x0, none, []⟩
  | 0x18 => some ⟨.stBMq (w.extractLsb' 20 5) (w.extractLsb' 15 5) (w.extractLsb' 11 4) (w.extractLsb' 8 3) (w.extractLsb' 6 2) (w.extractLsb' 0 5), 0x0, 0x0, 0x20, 0x0, none, []⟩
  | 0x19 => some ⟨.stHMq (w.extractLsb' 20 5) (w.extractLsb' 15 5) (w.extractLsb' 11 4) (w.extractLsb' 8 3) (w.extractLsb' 6 2) (w.extractLsb' 0 5), 0x0, 0x0, 0x20, 0x0, none, []⟩
  | 0x1a => some ⟨.stWMq (w.extractLsb' 20 5) (w.extractLsb' 15 5) (w.extractLsb' 11 4) (w.extractLsb' 8 3) (w.extractLsb' 6 2) (w.extractLsb' 0 5), 0x0, 0x0, 0x20, 0x0, none, []⟩
  | 0x1b => some ⟨.stDMq (w.extractLsb' 20 5) (w.extractLsb' 15 5) (w.extractLsb' 11 4) (w.extractLsb' 8 3) (w.extractLsb' 6 2) (w.extractLsb' 0 5), 0x0, 0x0, 0x20, 0x0, none, []⟩
  | 0x1c => some ⟨.stvMq (w.extractLsb' 20 5) (w.extractLsb' 15 5) (w.extractLsb' 11 4) (w.extractLsb' 8 3) (w.extractLsb' 6 2) (w.extractLsb' 0 5), 0x0, 0x0, 0x20, 0x0, none, []⟩
  | 0x20 => some ⟨.ldAcqB (w.extractLsb' 20 5) (w.extractLsb' 15 5) (w.extractLsb' 11 4) (w.extractLsb' 8 3) (w.extractLsb' 6 2) (w.extractLsb' 0 5), 0x0, 0x0, 0x20, 0x0, none, []⟩
  | 0x21 => some ⟨.ldAcqBu (w.extractLsb' 20 5) (w.extractLsb' 15 5) (w.extractLsb' 11 4) (w.extractLsb' 8 3) (w.extractLsb' 6 2) (w.extractLsb' 0 5), 0x0, 0x0, 0x20, 0x0, none, []⟩
  | 0x22 => some ⟨.ldAcqH (w.extractLsb' 20 5) (w.extractLsb' 15 5) (w.extractLsb' 11 4) (w.extractLsb' 8 3) (w.extractLsb' 6 2) (w.extractLsb' 0 5), 0x0, 0x0, 0x20, 0x0, none, []⟩
  | 0x23 => some ⟨.ldAcqHu (w.extractLsb' 20 5) (w.extractLsb' 15 5) (w.extractLsb' 11 4) (w.extractLsb' 8 3) (w.extractLsb' 6 2) (w.extractLsb' 0 5), 0x0, 0x0, 0x20, 0x0, none, []⟩
  | 0x24 => some ⟨.ldAcqW (w.extractLsb' 20 5) (w.extractLsb' 15 5) (w.extractLsb' 11 4) (w.extractLsb' 8 3) (w.extractLsb' 6 2) (w.extractLsb' 0 5), 0x0, 0x0, 0x20, 0x0, none, []⟩
  | 0x25 => some ⟨.ldAcqWu (w.extractLsb' 20 5) (w.extractLsb' 15 5) (w.extractLsb' 11 4) (w.extractLsb' 8 3) (w.extractLsb' 6 2) (w.extractLsb' 0 5), 0x0, 0x0, 0x20, 0x0, none, []⟩
  | 0x26 => some ⟨.ldAcqD (w.extractLsb' 20 5) (w.extractLsb' 15 5) (w.extractLsb' 11 4) (w.extractLsb' 8 3) (w.extractLsb' 6 2) (w.extractLsb' 0 5), 0x0, 0x0, 0x20, 0x0, none, []⟩
  | 0x28 => some ⟨.stRelB (w.extractLsb' 20 5) (w.extractLsb' 15 5) (w.extractLsb' 11 4) (w.extractLsb' 8 3) (w.extractLsb' 6 2) (w.extractLsb' 0 5), 0x0, 0x0, 0x20, 0x0, none, []⟩
  | 0x29 => some ⟨.stRelH (w.extractLsb' 20 5) (w.extractLsb' 15 5) (w.extractLsb' 11 4) (w.extractLsb' 8 3) (w.extractLsb' 6 2) (w.extractLsb' 0 5), 0x0, 0x0, 0x20, 0x0, none, []⟩
  | 0x2a => some ⟨.stRelW (w.extractLsb' 20 5) (w.extractLsb' 15 5) (w.extractLsb' 11 4) (w.extractLsb' 8 3) (w.extractLsb' 6 2) (w.extractLsb' 0 5), 0x0, 0x0, 0x20, 0x0, none, []⟩
  | 0x2b => some ⟨.stRelD (w.extractLsb' 20 5) (w.extractLsb' 15 5) (w.extractLsb' 11 4) (w.extractLsb' 8 3) (w.extractLsb' 6 2) (w.extractLsb' 0 5), 0x0, 0x0, 0x20, 0x0, none, []⟩
  | 0x30 => some ⟨.ldSpB (w.extractLsb' 20 5) (w.extractLsb' 15 5) (w.extractLsb' 5 10) (w.extractLsb' 0 5), 0x0, 0x0, 0x0, 0x0, none, []⟩
  | 0x31 => some ⟨.ldSpBu (w.extractLsb' 20 5) (w.extractLsb' 15 5) (w.extractLsb' 5 10) (w.extractLsb' 0 5), 0x0, 0x0, 0x0, 0x0, none, []⟩
  | 0x32 => some ⟨.ldSpH (w.extractLsb' 20 5) (w.extractLsb' 15 5) (w.extractLsb' 5 10) (w.extractLsb' 0 5), 0x0, 0x0, 0x0, 0x0, none, []⟩
  | 0x33 => some ⟨.ldSpHu (w.extractLsb' 20 5) (w.extractLsb' 15 5) (w.extractLsb' 5 10) (w.extractLsb' 0 5), 0x0, 0x0, 0x0, 0x0, none, []⟩
  | 0x34 => some ⟨.ldSpW (w.extractLsb' 20 5) (w.extractLsb' 15 5) (w.extractLsb' 5 10) (w.extractLsb' 0 5), 0x0, 0x0, 0x0, 0x0, none, []⟩
  | 0x35 => some ⟨.ldSpWu (w.extractLsb' 20 5) (w.extractLsb' 15 5) (w.extractLsb' 5 10) (w.extractLsb' 0 5), 0x0, 0x0, 0x0, 0x0, none, []⟩
  | 0x36 => some ⟨.ldSpD (w.extractLsb' 20 5) (w.extractLsb' 15 5) (w.extractLsb' 5 10) (w.extractLsb' 0 5), 0x0, 0x0, 0x0, 0x0, none, []⟩
  | 0x37 => some ⟨.ldvSp (w.extractLsb' 20 5) (w.extractLsb' 15 5) (w.extractLsb' 5 10) (w.extractLsb' 0 5), 0x0, 0x0, 0x0, 0x0, none, []⟩
  | 0x38 => some ⟨.stSpB (w.extractLsb' 20 5) (w.extractLsb' 15 5) (w.extractLsb' 5 10) (w.extractLsb' 0 5), 0x0, 0x0, 0x0, 0x0, none, []⟩
  | 0x39 => some ⟨.stSpH (w.extractLsb' 20 5) (w.extractLsb' 15 5) (w.extractLsb' 5 10) (w.extractLsb' 0 5), 0x0, 0x0, 0x0, 0x0, none, []⟩
  | 0x3a => some ⟨.stSpW (w.extractLsb' 20 5) (w.extractLsb' 15 5) (w.extractLsb' 5 10) (w.extractLsb' 0 5), 0x0, 0x0, 0x0, 0x0, none, []⟩
  | 0x3b => some ⟨.stSpD (w.extractLsb' 20 5) (w.extractLsb' 15 5) (w.extractLsb' 5 10) (w.extractLsb' 0 5), 0x0, 0x0, 0x0, 0x0, none, []⟩
  | 0x3c => some ⟨.stvSp (w.extractLsb' 20 5) (w.extractLsb' 15 5) (w.extractLsb' 5 10) (w.extractLsb' 0 5), 0x0, 0x0, 0x0, 0x0, none, []⟩
  | 0x40 => some ⟨.ldSpBMq (w.extractLsb' 20 5) (w.extractLsb' 15 5) (w.extractLsb' 11 4) (w.extractLsb' 8 3) (w.extractLsb' 0 5), 0x0, 0x0, 0xe0, 0x0, none, []⟩
  | 0x41 => some ⟨.ldSpBuMq (w.extractLsb' 20 5) (w.extractLsb' 15 5) (w.extractLsb' 11 4) (w.extractLsb' 8 3) (w.extractLsb' 0 5), 0x0, 0x0, 0xe0, 0x0, none, []⟩
  | 0x42 => some ⟨.ldSpHMq (w.extractLsb' 20 5) (w.extractLsb' 15 5) (w.extractLsb' 11 4) (w.extractLsb' 8 3) (w.extractLsb' 0 5), 0x0, 0x0, 0xe0, 0x0, none, []⟩
  | 0x43 => some ⟨.ldSpHuMq (w.extractLsb' 20 5) (w.extractLsb' 15 5) (w.extractLsb' 11 4) (w.extractLsb' 8 3) (w.extractLsb' 0 5), 0x0, 0x0, 0xe0, 0x0, none, []⟩
  | 0x44 => some ⟨.ldSpWMq (w.extractLsb' 20 5) (w.extractLsb' 15 5) (w.extractLsb' 11 4) (w.extractLsb' 8 3) (w.extractLsb' 0 5), 0x0, 0x0, 0xe0, 0x0, none, []⟩
  | 0x45 => some ⟨.ldSpWuMq (w.extractLsb' 20 5) (w.extractLsb' 15 5) (w.extractLsb' 11 4) (w.extractLsb' 8 3) (w.extractLsb' 0 5), 0x0, 0x0, 0xe0, 0x0, none, []⟩
  | 0x46 => some ⟨.ldSpDMq (w.extractLsb' 20 5) (w.extractLsb' 15 5) (w.extractLsb' 11 4) (w.extractLsb' 8 3) (w.extractLsb' 0 5), 0x0, 0x0, 0xe0, 0x0, none, []⟩
  | 0x47 => some ⟨.ldvSpMq (w.extractLsb' 20 5) (w.extractLsb' 15 5) (w.extractLsb' 11 4) (w.extractLsb' 8 3) (w.extractLsb' 0 5), 0x0, 0x0, 0xe0, 0x0, none, []⟩
  | 0x48 => some ⟨.stSpBMq (w.extractLsb' 20 5) (w.extractLsb' 15 5) (w.extractLsb' 11 4) (w.extractLsb' 8 3) (w.extractLsb' 0 5), 0x0, 0x0, 0xe0, 0x0, none, []⟩
  | 0x49 => some ⟨.stSpHMq (w.extractLsb' 20 5) (w.extractLsb' 15 5) (w.extractLsb' 11 4) (w.extractLsb' 8 3) (w.extractLsb' 0 5), 0x0, 0x0, 0xe0, 0x0, none, []⟩
  | 0x4a => some ⟨.stSpWMq (w.extractLsb' 20 5) (w.extractLsb' 15 5) (w.extractLsb' 11 4) (w.extractLsb' 8 3) (w.extractLsb' 0 5), 0x0, 0x0, 0xe0, 0x0, none, []⟩
  | 0x4b => some ⟨.stSpDMq (w.extractLsb' 20 5) (w.extractLsb' 15 5) (w.extractLsb' 11 4) (w.extractLsb' 8 3) (w.extractLsb' 0 5), 0x0, 0x0, 0xe0, 0x0, none, []⟩
  | 0x4c => some ⟨.stvSpMq (w.extractLsb' 20 5) (w.extractLsb' 15 5) (w.extractLsb' 11 4) (w.extractLsb' 8 3) (w.extractLsb' 0 5), 0x0, 0x0, 0xe0, 0x0, none, []⟩
  | 0x50 => some ⟨.ldx (w.extractLsb' 20 5) (w.extractLsb' 15 5) (w.extractLsb' 10 5) (w.extractLsb' 6 4) (w.extractLsb' 0 5), 0x0, 0x0, 0x20, 0x0, none, []⟩
  | 0x51 => some ⟨.stx (w.extractLsb' 20 5) (w.extractLsb' 15 5) (w.extractLsb' 10 5) (w.extractLsb' 6 4) (w.extractLsb' 0 5), 0x0, 0x0, 0x20, 0x0, none, []⟩
  | 0x52 => some ⟨.ldxSp (w.extractLsb' 20 5) (w.extractLsb' 15 5) (w.extractLsb' 10 5) (w.extractLsb' 6 4) (w.extractLsb' 0 5), 0x0, 0x0, 0x20, 0x0, none, []⟩
  | 0x53 => some ⟨.stxSp (w.extractLsb' 20 5) (w.extractLsb' 15 5) (w.extractLsb' 10 5) (w.extractLsb' 6 4) (w.extractLsb' 0 5), 0x0, 0x0, 0x20, 0x0, none, []⟩
  | 0x54 => some ⟨.atomW (w.extractLsb' 20 5) (w.extractLsb' 15 5) (w.extractLsb' 11 4) (w.extractLsb' 8 3) (w.extractLsb' 5 3) (w.extractLsb' 0 5), 0x0, 0x0, 0x0, 0x0, none, []⟩
  | 0x55 => some ⟨.atomD (w.extractLsb' 20 5) (w.extractLsb' 15 5) (w.extractLsb' 11 4) (w.extractLsb' 8 3) (w.extractLsb' 5 3) (w.extractLsb' 0 5), 0x0, 0x0, 0x0, 0x0, none, []⟩
  | 0x56 => some ⟨.casW (w.extractLsb' 20 5) (w.extractLsb' 15 5) (w.extractLsb' 11 4) (w.extractLsb' 8 3) (w.extractLsb' 0 5), 0xe0, 0x0, 0x0, 0x0, none, []⟩
  | 0x57 => some ⟨.casD (w.extractLsb' 20 5) (w.extractLsb' 15 5) (w.extractLsb' 11 4) (w.extractLsb' 8 3) (w.extractLsb' 0 5), 0xe0, 0x0, 0x0, 0x0, none, []⟩
  | 0x58 => some ⟨.fence (w.extractLsb' 9 16) (w.extractLsb' 6 3) (w.extractLsb' 0 5), 0x0, 0x0, 0x20, 0x0, none, []⟩
  | 0x59 => some ⟨.mwait (w.extractLsb' 20 5) (w.extractLsb' 15 5) (w.extractLsb' 10 5) (w.extractLsb' 7 3) (w.extractLsb' 0 5), 0x0, 0x0, 0x60, 0x0, none, []⟩
  | 0x5a => some ⟨.prf (w.extractLsb' 20 5) (w.extractLsb' 15 5) (w.extractLsb' 6 2) (w.extractLsb' 0 5), 0x0, 0x0, 0x7f20, 0x0, none, []⟩
  | 0x5b => if w.getLsbD 5 then some ⟨.cinvL (w.extractLsb' 20 5) (w.extractLsb' 0 5), 0x0, 0x0, 0xfffc0, 0x0, none, []⟩
    else some ⟨.cinv (w.extractLsb' 0 5), 0x0, 0x0, 0x1ffffc0, 0x0, none, []⟩
  | 0x5c => some ⟨.vjoin (w.extractLsb' 0 5), 0x0, 0x0, 0x1ffffe0, 0x0, none, []⟩
  | 0x5d => some ⟨.ifence (w.extractLsb' 0 5), 0x0, 0x0, 0x1ffffe0, 0x0, none, []⟩
  | 0x5e => some ⟨.enq (w.extractLsb' 20 5) (w.extractLsb' 15 5) (w.extractLsb' 0 5), 0x0, 0x0, 0x7fe0, 0x0, none, []⟩
  | 0x5f => some ⟨.grow (w.extractLsb' 15 5) (w.extractLsb' 0 5), 0x0, 0x0, 0x1f07fe0, 0x0, some 3, []⟩
  | 0x60 => some ⟨.bgadd (w.extractLsb' 20 5) (w.extractLsb' 15 5) (w.extractLsb' 5 1) (w.extractLsb' 0 5), 0x0, 0x0, 0x7fc0, 0x0, some 5, []⟩
  | 0x61 => some ⟨.copy (w.extractLsb' 20 5) (w.extractLsb' 15 5) (w.extractLsb' 11 4) (w.extractLsb' 8 3) (w.extractLsb' 0 5), 0x0, 0x0, 0xe0, 0x0, none, []⟩
  | 0x62 => some ⟨.stamp (w.extractLsb' 20 5) (w.extractLsb' 15 5) (w.extractLsb' 11 4) (w.extractLsb' 8 3) (w.extractLsb' 5 1) (w.extractLsb' 0 5), 0x0, 0x0, 0xc0, 0x0, none, []⟩
  | 0x63 => if w.getLsbD 5 then some ⟨.ctarmDis (w.extractLsb' 15 5) (w.extractLsb' 11 4) (w.extractLsb' 8 3) (w.extractLsb' 0 5), 0x0, 0x0, 0x1f000c0, 0x0, some 2, []⟩
    else some ⟨.ctarm (w.extractLsb' 20 5) (w.extractLsb' 15 5) (w.extractLsb' 11 4) (w.extractLsb' 8 3) (w.extractLsb' 0 5), 0x0, 0x0, 0xc0, 0x0, some 2, []⟩
  | 0x64 => some ⟨.ctset (w.extractLsb' 15 5) (w.extractLsb' 11 4) (w.extractLsb' 8 3) (w.extractLsb' 0 5), 0x0, 0x0, 0x1f000e0, 0x0, some 2, []⟩
  | 0x65 => some ⟨.ctstat (w.extractLsb' 20 5) (w.extractLsb' 15 5) (w.extractLsb' 5 1) (w.extractLsb' 0 5), 0x0, 0x0, 0x7fc0, 0x0, some 2, []⟩
  | 0x66 => if w.getLsbD 5 then some ⟨.hgiveRet (w.extractLsb' 15 5) (w.extractLsb' 11 4) (w.extractLsb' 8 3) (w.extractLsb' 0 5), 0x0, 0x0, 0x1f000c0, 0x0, some 1, []⟩
    else some ⟨.hgive (w.extractLsb' 20 5) (w.extractLsb' 15 5) (w.extractLsb' 11 4) (w.extractLsb' 8 3) (w.extractLsb' 0 5), 0x0, 0x0, 0xc0, 0x0, some 1, []⟩
  | 0x67 => if w.getLsbD 5 then some ⟨.htakeWd (w.extractLsb' 15 5) (w.extractLsb' 11 4) (w.extractLsb' 8 3) (w.extractLsb' 0 5), 0x0, 0x0, 0x1f000c0, 0x0, some 1, []⟩
    else some ⟨.htake (w.extractLsb' 20 5) (w.extractLsb' 15 5) (w.extractLsb' 11 4) (w.extractLsb' 8 3) (w.extractLsb' 0 5), 0x0, 0x0, 0xc0, 0x0, some 1, []⟩
  | 0x68 => some ⟨.hqry (w.extractLsb' 20 5) (w.extractLsb' 15 5) (w.extractLsb' 0 5), 0x0, 0x0, 0x7fe0, 0x0, some 1, []⟩
  | 0x69 => some ⟨.snap (w.extractLsb' 20 5) (w.extractLsb' 15 5) (w.extractLsb' 11 4) (w.extractLsb' 0 5), 0x700, 0x500, 0xe0, 0x0, some 4, []⟩
  | 0x6a => some ⟨.sacc (w.extractLsb' 20 5) (w.extractLsb' 15 5) (w.extractLsb' 11 4) (w.extractLsb' 0 5), 0x700, 0x500, 0xe0, 0x0, some 4, []⟩
  | 0x6b => some ⟨.srej (w.extractLsb' 20 5) (w.extractLsb' 15 5) (w.extractLsb' 11 4) (w.extractLsb' 0 5), 0x700, 0x500, 0xe0, 0x0, some 4, []⟩
  | 0x6c => some ⟨.sstat (w.extractLsb' 20 5) (w.extractLsb' 15 5) (w.extractLsb' 0 5), 0x0, 0x0, 0x7fe0, 0x0, some 4, []⟩
  | 0x6d => some ⟨.evac (w.extractLsb' 20 5) (w.extractLsb' 15 5) (w.extractLsb' 11 4) (w.extractLsb' 8 3) (w.extractLsb' 0 5), 0x0, 0x0, 0xe0, 0x0, some 6, []⟩
  | 0x6e => some ⟨.chartq (w.extractLsb' 20 5) (w.extractLsb' 15 5) (w.extractLsb' 0 5), 0x0, 0x0, 0x7fe0, 0x0, some 6, []⟩
  | 0x70 => some ⟨.mxfmt (w.extractLsb' 11 4) (w.extractLsb' 7 4) (w.extractLsb' 6 1) (w.extractLsb' 0 5), 0x0, 0x0, 0x1ff8020, 0x0, none, [w.extractLsb' 11 4, w.extractLsb' 7 4]⟩
  | 0x71 => some ⟨.mxw (w.extractLsb' 15 4) (w.extractLsb' 5 1) (w.extractLsb' 0 5), 0x0, 0x0, 0x1f87fc0, 0x0, none, []⟩
  | 0x72 => some ⟨.mxmac (w.extractLsb' 19 6) (w.extractLsb' 15 4) (w.extractLsb' 5 1) (w.extractLsb' 0 5), 0x0, 0x0, 0x7fc0, 0x0, none, []⟩
  | 0x73 => some ⟨.mxmul (w.extractLsb' 19 6) (w.extractLsb' 15 4) (w.extractLsb' 5 1) (w.extractLsb' 0 5), 0x0, 0x0, 0x7fc0, 0x0, none, []⟩
  | 0x74 => some ⟨.mxdrv (w.extractLsb' 19 5) (w.extractLsb' 15 4) (w.extractLsb' 5 1) (w.extractLsb' 0 5), 0x1000000, 0x0, 0x7fc0, 0x0, none, []⟩
  | 0x75 => some ⟨.mxchk (w.extractLsb' 19 6) (w.extractLsb' 10 1) (w.extractLsb' 5 5) (w.extractLsb' 0 5), 0x0, 0x0, 0x7f800, 0x0, none, []⟩
  | 0x76 => some ⟨.mxwait (w.extractLsb' 0 5), 0x0, 0x0, 0x1ffffe0, 0x0, none, []⟩
  | 0x77 => some ⟨.ringcfg (w.extractLsb' 19 6) (w.extractLsb' 15 4) (w.extractLsb' 9 6) (w.extractLsb' 7 2) (w.extractLsb' 0 5), 0x0, 0x0, 0x60, 0x0, none, []⟩
  | 0x78 => some ⟨.ringst (w.extractLsb' 19 5) (w.extractLsb' 15 4) (w.extractLsb' 5 1) (w.extractLsb' 0 5), 0x1000000, 0x0, 0x7fc0, 0x0, none, []⟩
  | 0x79 => some ⟨.tld (w.extractLsb' 21 4) (w.extractLsb' 16 5) (w.extractLsb' 15 1) (w.extractLsb' 11 4) (w.extractLsb' 9 1) (w.extractLsb' 5 4) (w.extractLsb' 0 5), 0x0, 0x0, 0x400, 0x0, none, [w.extractLsb' 11 4, w.extractLsb' 5 4]⟩
  | 0x7a => some ⟨.tst (w.extractLsb' 21 4) (w.extractLsb' 16 5) (w.extractLsb' 15 1) (w.extractLsb' 11 4) (w.extractLsb' 5 1) (w.extractLsb' 0 5), 0x0, 0x0, 0x7c0, 0x0, none, [w.extractLsb' 11 4]⟩
  | _ => none

/-- The opcode map of the A-class, R156 and R152: the operation a word's opcode names and what R159 checks of its other bits. -/
def rawA (w : W32) (_l : Option W32) : Option Dec :=
  match (w.extractLsb' 25 7).toNat with
  | 0x0 => some ⟨.ald (w.extractLsb' 20 5) (w.extractLsb' 14 6) (w.extractLsb' 7 7) (w.extractLsb' 5 2) (w.extractLsb' 0 5), 0x0, 0x0, 0x0, 0x0, none, []⟩
  | 0x1 => some ⟨.ast (w.extractLsb' 20 5) (w.extractLsb' 14 6) (w.extractLsb' 7 7) (w.extractLsb' 5 2) (w.extractLsb' 0 5), 0x0, 0x0, 0x0, 0x0, none, []⟩
  | 0x2 => some ⟨.aadd (w.extractLsb' 20 5) (w.extractLsb' 14 6) (w.extractLsb' 7 7) (w.extractLsb' 5 2) (w.extractLsb' 0 5), 0x0, 0x0, 0x0, 0x0, none, []⟩
  | 0x3 => some ⟨.azero (w.extractLsb' 14 6) (w.extractLsb' 0 5), 0x3fe0, 0x0, 0x1f00000, 0x0, none, []⟩
  | 0x4 => some ⟨.ascl (w.extractLsb' 20 5) (w.extractLsb' 14 6) (w.extractLsb' 0 5), 0x3fe0, 0x0, 0x0, 0x0, none, []⟩
  | 0x5 => some ⟨.acvt (w.extractLsb' 20 5) (w.extractLsb' 14 6) (w.extractLsb' 7 7) (w.extractLsb' 5 2) (w.extractLsb' 0 5), 0x0, 0x0, 0x0, 0x0, none, []⟩
  | 0x6 => some ⟨.acks (w.extractLsb' 14 6) (w.extractLsb' 0 5), 0x3fe0, 0x0, 0x1f00000, 0x0, none, []⟩
  | 0x7 => some ⟨.aadam (w.extractLsb' 20 5) (w.extractLsb' 14 6) (w.extractLsb' 7 7) (w.extractLsb' 5 1) (w.extractLsb' 0 5), 0x0, 0x0, 0x40, 0x0, some 7, []⟩
  | _ => none

/-- The opcode map of a slot class. -/
def rawDecode (c : SlotClass) (w : W32) (l : Option W32) : Option Dec :=
  match c with
  | .s => rawS w l
  | .v => rawV w l
  | .m => rawM w l
  | .a => rawA w l

/-- R158: the opcode's feature, and MXF4 for the format codes 5 and 8, must be accepted in `feats` (FEAT0). -/
def Dec.accepted (d : Dec) (feats : W64) : Bool :=
  (match d.feat with
    | none => true
    | some n => feats.getLsbD n) &&
  (feats.getLsbD 0 || d.fmts.all fun f => f != 5 && f != 8)

/-- What decode needs to know of the task: the accepted features and the record's privilege bits (R290). With `waive` the PRIV
checks are left to the issue, which knows the guards (R116). -/
structure DecEnv where
  feats : W64
  sup   : Bool
  snap  : Bool
  topup : Bool
  waive : Bool
  deriving DecidableEq, Repr

/-- Opcodes 0x60 to 0x6D of the S class are control operations, which stand in S1 only (R144). -/
def isControlWord (w : W32) : Bool :=
  0x60 ≤ (w.extractLsb' 25 7).toNat && (w.extractLsb' 25 7).toNat ≤ 0x6D

/-- One slot word, checked by R159 through its reasons in ascending order; the error is the first reason that fails.
`lit` is the literal attached to S0. -/
def decodeSlot (env : DecEnv) (sl : Slot) (w : W32) (lit : Option W32) : Except Nat Instr :=
  match rawDecode sl.cls w lit with
  | none => .error 3
  | some d =>
    if !d.accepted env.feats then .error 3
    else if sl = .s0 && isControlWord w then .error 4
    else if (w &&& d.m5) != d.v5 || !d.i.legal || (env.sup && d.i.writesReadOnly) then .error 5
    else if (w &&& d.z6) != 0 || (lit.isSome && (w &&& d.imm) != 0) then .error 6
    else if lit.isSome && d.imm == 0 then .error 7
    else .ok d.i

/-- R316 with R188, R267, R290, R304, R314, R320: the operation needs a right the task does not have. -/
def needsPriv (env : DecEnv) (i : Instr) : Bool :=
  match i with
  | .sset .. => !env.sup && i.writesSupervisor
  | .halt .. | .tret .. | .evac .. | .chartq .. => !env.sup
  | .snap .. | .sacc .. | .srej .. => !env.snap
  | .bgadd .. => !env.topup && !env.sup
  | _ => false

/-- A bundle (R138, R139): its header and its operations in slot order, with each slot's word. -/
structure Bundle where
  hdr : BitVec 16
  ops : List (Slot × Instr)
  deriving DecidableEq, Repr

/-- Why a bundle does not decode: an ILLEGAL reason or a PRIV, with the SLOT and WORD of R159's detail word. -/
inductive DecodeTrap where
  | illegal (reason slot : Nat) (word : W32)
  | priv (slot : Nat) (word : W32)
  deriving DecidableEq, Repr

/-- The slot is present in the bundle (R138). -/
def slotPresent (h : BitVec 16) (sl : Slot) : Bool := h.getLsbD (15 - sl.num)

/-- The D bit of a header: a datum stands before the bundle (R138). -/
def hdrD (h : BitVec 16) : Bool := h.getLsbD 9

/-- The L bit of a header: a literal is attached to S0 (R138). -/
def hdrL (h : BitVec 16) : Bool := h.getLsbD 8

/-- The SKIP field of a header (R138). -/
def hdrSkip (h : BitVec 16) : Nat := (h.extractLsb' 4 4).toNat

/-- The number of 32-bit words that follow a header: the present slots and the literal (R139). -/
def hdrWords (h : BitVec 16) : Nat :=
  (Slot.all.filter (slotPresent h)).length + (if hdrL h then 1 else 0)

/-- The length in bytes of the bundle a header opens (R139). -/
def bundleLen (h : BitVec 16) : Nat := 2 + 4 * hdrWords h

/-- The slots of the list that the header names, each with its word and S0's literal, read from the bundle's words in
the order of R139. -/
def slotWords (h : BitVec 16) : List Slot → List W32 → List (Slot × W32 × Option W32)
  | [], _ => []
  | sl :: sls, ws =>
    if slotPresent h sl then
      match ws with
      | [] => (sl, 0, none) :: slotWords h sls []
      | w :: ws' =>
        if sl = .s0 && hdrL h then
          match ws' with
          | [] => (sl, w, some 0) :: slotWords h sls []
          | x :: ws'' => (sl, w, some x) :: slotWords h sls ws''
        else (sl, w, none) :: slotWords h sls ws'
    else slotWords h sls ws

/-- The slots in order, each through its ILLEGAL reasons and then its PRIV check (R159, R316). -/
def decodeSlots (env : DecEnv) : List (Slot × W32 × Option W32) → Except DecodeTrap (List (Slot × Instr))
  | [] => .ok []
  | (sl, w, lit) :: rest =>
    match decodeSlot env sl w lit with
    | .error r => .error (.illegal r sl.num w)
    | .ok i =>
      if needsPriv env i && !env.waive then .error (.priv sl.num w)
      else
        match decodeSlots env rest with
        | .error e => .error e
        | .ok ops => .ok ((sl, i) :: ops)

/-- The operations that need a right the task does not have, in slot order up to the first slot that is ILLEGAL (R316). -/
def privSlots (env : DecEnv) : List (Slot × W32 × Option W32) → List (Slot × W32 × Instr)
  | [] => []
  | (sl, w, lit) :: rest =>
    match decodeSlot env sl w lit with
    | .error _ => []
    | .ok i => if needsPriv env i then (sl, w, i) :: privSlots env rest else privSlots env rest

/-- R117: no two slots name one destination. -/
def destsDistinct : List (List Reg) → Bool
  | [] => true
  | d :: ds => (d.all fun r => ds.all fun e => !e.contains r) && destsDistinct ds

/-- A bundle from its header and the words that follow it, checked in the order of R159 (all but reason 9). -/
def decodeBundle (env : DecEnv) (h : BitVec 16) (ws : List W32) : Except DecodeTrap Bundle :=
  if h &&& 0xF != 0 then .error (.illegal 1 7 (h.setWidth 32))
  else if hdrL h && !slotPresent h .s0 then .error (.illegal 2 7 (h.setWidth 32))
  else
    match decodeSlots env (slotWords h Slot.all ws) with
    | .error e => .error e
    | .ok ops =>
      if destsDistinct (ops.map fun o => o.2.dests) then .ok ⟨h, ops⟩
      else .error (.illegal 8 7 (h.setWidth 32))

/-- The slot class of an operation; none for an event. -/
def Instr.cls? : Instr → Option SlotClass
  | .sadd .. => some .s
  | .ssub .. => some .s
  | .smul .. => some .s
  | .smulh .. => some .s
  | .sdiv .. => some .s
  | .srem .. => some .s
  | .smin .. => some .s
  | .smax .. => some .s
  | .sand .. => some .s
  | .sor .. => some .s
  | .sxor .. => some .s
  | .sandn .. => some .s
  | .sshl .. => some .s
  | .sshr .. => some .s
  | .ssra .. => some .s
  | .srot .. => some .s
  | .saddSi .. => some .s
  | .smulSi .. => some .s
  | .sandSi .. => some .s
  | .sorSi .. => some .s
  | .sxorSi .. => some .s
  | .sminSi .. => some .s
  | .smaxSi .. => some .s
  | .sshlSi .. => some .s
  | .sshrSi .. => some .s
  | .ssraSi .. => some .s
  | .srotSi .. => some .s
  | .sclz .. => some .s
  | .sctz .. => some .s
  | .spopc .. => some .s
  | .sext .. => some .s
  | .sbfx .. => some .s
  | .sbfi .. => some .s
  | .smov .. => some .s
  | .smovi .. => some .s
  | .scmp .. => some .s
  | .scmpSi .. => some .s
  | .ssel .. => some .s
  | .pset .. => some .s
  | .sfadd .. => some .s
  | .sfmul .. => some .s
  | .sffma .. => some .s
  | .sfcvt .. => some .s
  | .sfcmp .. => some .s
  | .sget .. => some .s
  | .sset .. => some .s
  | .br .. => some .s
  | .call .. => some .s
  | .bri .. => some .s
  | .ret .. => some .s
  | .loop .. => some .s
  | .loopx .. => some .s
  | .trap .. => some .s
  | .brk .. => some .s
  | .trig .. => some .s
  | .exit .. => some .s
  | .yield .. => some .s
  | .cont .. => some .s
  | .tret .. => some .s
  | .halt .. => some .s
  | .vaddF .. => some .v
  | .vsubF .. => some .v
  | .vmulF .. => some .v
  | .vfma .. => some .v
  | .vfnma .. => some .v
  | .vminF .. => some .v
  | .vmaxF .. => some .v
  | .vabsF .. => some .v
  | .vnegF .. => some .v
  | .vcmpF .. => some .v
  | .vaddI .. => some .v
  | .vsubI .. => some .v
  | .vmulI .. => some .v
  | .vminI .. => some .v
  | .vmaxI .. => some .v
  | .vminN .. => some .v
  | .vmaxN .. => some .v
  | .vabsI .. => some .v
  | .vnegI .. => some .v
  | .vcmpI .. => some .v
  | .vcmpN .. => some .v
  | .vand .. => some .v
  | .vor .. => some .v
  | .vxor .. => some .v
  | .vshl .. => some .v
  | .vshr .. => some .v
  | .vsra .. => some .v
  | .vsel .. => some .v
  | .vmov .. => some .v
  | .vmovs .. => some .v
  | .viota .. => some .v
  | .vcvt .. => some .v
  | .vcvtSat .. => some .v
  | .vpack .. => some .v
  | .vunpk .. => some .v
  | .vquant .. => some .v
  | .vrotr .. => some .v
  | .vbcr .. => some .v
  | .vredr .. => some .v
  | .vrotc .. => some .v
  | .vbcc .. => some .v
  | .vredc .. => some .v
  | .vpermc .. => some .v
  | .vext .. => some .v
  | .vins .. => some .v
  | .mlog .. => some .v
  | .mpop .. => some .v
  | .mset .. => some .v
  | .mmov .. => some .v
  | .vrcp .. => some .v
  | .vrsq .. => some .v
  | .vexp2 .. => some .v
  | .vlog2 .. => some .v
  | .ldB .. => some .m
  | .ldBu .. => some .m
  | .ldH .. => some .m
  | .ldHu .. => some .m
  | .ldW .. => some .m
  | .ldWu .. => some .m
  | .ldD .. => some .m
  | .ldv .. => some .m
  | .stB .. => some .m
  | .stH .. => some .m
  | .stW .. => some .m
  | .stD .. => some .m
  | .stv .. => some .m
  | .ldBMq .. => some .m
  | .ldBuMq .. => some .m
  | .ldHMq .. => some .m
  | .ldHuMq .. => some .m
  | .ldWMq .. => some .m
  | .ldWuMq .. => some .m
  | .ldDMq .. => some .m
  | .ldvMq .. => some .m
  | .stBMq .. => some .m
  | .stHMq .. => some .m
  | .stWMq .. => some .m
  | .stDMq .. => some .m
  | .stvMq .. => some .m
  | .ldAcqB .. => some .m
  | .ldAcqBu .. => some .m
  | .ldAcqH .. => some .m
  | .ldAcqHu .. => some .m
  | .ldAcqW .. => some .m
  | .ldAcqWu .. => some .m
  | .ldAcqD .. => some .m
  | .stRelB .. => some .m
  | .stRelH .. => some .m
  | .stRelW .. => some .m
  | .stRelD .. => some .m
  | .ldSpB .. => some .m
  | .ldSpBu .. => some .m
  | .ldSpH .. => some .m
  | .ldSpHu .. => some .m
  | .ldSpW .. => some .m
  | .ldSpWu .. => some .m
  | .ldSpD .. => some .m
  | .ldvSp .. => some .m
  | .stSpB .. => some .m
  | .stSpH .. => some .m
  | .stSpW .. => some .m
  | .stSpD .. => some .m
  | .stvSp .. => some .m
  | .ldSpBMq .. => some .m
  | .ldSpBuMq .. => some .m
  | .ldSpHMq .. => some .m
  | .ldSpHuMq .. => some .m
  | .ldSpWMq .. => some .m
  | .ldSpWuMq .. => some .m
  | .ldSpDMq .. => some .m
  | .ldvSpMq .. => some .m
  | .stSpBMq .. => some .m
  | .stSpHMq .. => some .m
  | .stSpWMq .. => some .m
  | .stSpDMq .. => some .m
  | .stvSpMq .. => some .m
  | .ldx .. => some .m
  | .stx .. => some .m
  | .ldxSp .. => some .m
  | .stxSp .. => some .m
  | .atomW .. => some .m
  | .atomD .. => some .m
  | .casW .. => some .m
  | .casD .. => some .m
  | .fence .. => some .m
  | .mwait .. => some .m
  | .prf .. => some .m
  | .cinv .. => some .m
  | .cinvL .. => some .m
  | .vjoin .. => some .m
  | .ifence .. => some .m
  | .enq .. => some .m
  | .grow .. => some .m
  | .bgadd .. => some .m
  | .copy .. => some .m
  | .stamp .. => some .m
  | .ctarm .. => some .m
  | .ctarmDis .. => some .m
  | .ctset .. => some .m
  | .ctstat .. => some .m
  | .hgive .. => some .m
  | .hgiveRet .. => some .m
  | .htake .. => some .m
  | .htakeWd .. => some .m
  | .hqry .. => some .m
  | .snap .. => some .m
  | .sacc .. => some .m
  | .srej .. => some .m
  | .sstat .. => some .m
  | .evac .. => some .m
  | .chartq .. => some .m
  | .mxfmt .. => some .m
  | .mxw .. => some .m
  | .mxmac .. => some .m
  | .mxmul .. => some .m
  | .mxdrv .. => some .m
  | .mxchk .. => some .m
  | .mxwait .. => some .m
  | .ringcfg .. => some .m
  | .ringst .. => some .m
  | .tld .. => some .m
  | .tst .. => some .m
  | .ald .. => some .a
  | .ast .. => some .a
  | .aadd .. => some .a
  | .azero .. => some .a
  | .ascl .. => some .a
  | .acvt .. => some .a
  | .acks .. => some .a
  | .aadam .. => some .a
  | .bundleIssue .. => none
  | .bundleLimitDatum .. => none
  | .interlockedResult .. => none
  | .datumCommit .. => none
  | .remoteFaultDelivery .. => none
  | .budgetExhaustion .. => none
  | .graceExhaustion .. => none
  | .stopRequest .. => none
  | .stopAbandon .. => none
  | .storePerform .. => none
  | .monitorWake .. => none
  | .mwaitRemoteRecheck .. => none
  | .mwaitHostPoll .. => none
  | .matrixCommandStart .. => none
  | .drainCheck .. => none
  | .tldComplete .. => none
  | .tstComplete .. => none
  | .copyExecute .. => none
  | .copyStamp .. => none
  | .stampWrite .. => none
  | .collectiveArm .. => none
  | .collectiveDisarm .. => none
  | .sendFlagSet .. => none
  | .collectiveSend .. => none
  | .sendComplete .. => none
  | .contributionArrival .. => none
  | .collectiveTimeout .. => none
  | .handleOffer .. => none
  | .handleBind .. => none
  | .handleReturn .. => none
  | .handleWithdraw .. => none
  | .snapInstall .. => none
  | .snapshotAccept .. => none
  | .snapshotReject .. => none
  | .growApply .. => none
  | .bgaddApply .. => none
  | .retirement .. => none
  | .evacuationLineCopy .. => none
  | .compaction .. => none
  | .foldCopy .. => none
  | .errsThreshold .. => none
  | .selfTestComplete .. => none
  | .patrolScrub .. => none
  | .admission .. => none
  | .waitMet .. => none
  | .dispatch .. => none
  | .ageingPromotion .. => none
  | .isobarWindow .. => none
  | .packageReset .. => none
  | .attestationRequest .. => none
  | .ucieModuleFail .. => none
  | .bhpRd .. => none
  | .bhpWr .. => none
  | .bhpRdAq .. => none
  | .bhpWrRl .. => none
  | .bhpFence .. => none
  | .bhpAt .. => none
  | .bhpCpl .. => none
  | .registerWrite .. => none
  | .wbaseWrite .. => none
  | .queueEnable .. => none
  | .queueDisable .. => none
  | .featctlLock .. => none
  | .quiesceClear .. => none
  | .intcauseClear .. => none
  | .htret .. => none
  | .htopup .. => none
  | .linkTrain .. => none
  | .req .. => none
  | .rsp .. => none
  | .wakeMessage .. => none
  | .pause .. => none
  | .resume .. => none
  | .ack .. => none
  | .nak .. => none
  | .flitCrcFail .. => none
  | .portRetrain .. => none
  | .portDown .. => none
  | .softError .. => none
  | .mxwLoadComplete .. => none
  | .mxchkComplete .. => none

/-- The bits of an immediate's field: zero when the literal stands in its place (R145). -/
def Imm.bits {n : Nat} : Imm n → BitVec n
  | .fld v => v
  | .lit _ => 0#n

/-- The literal of an immediate, if it has one. -/
def Imm.lit? {n : Nat} : Imm n → Option W32
  | .fld _ => none
  | .lit v => some v

/-- The slot word of an operation and its literal, by the formats of R146 to R152 and the maps of R153 to R156; none
for an event, which has no encoding. -/
def encode : Instr → Option (W32 × Option W32)
  | .sadd d a b u w g => some ((0x0#7 ++ d ++ a ++ b ++ 0#3 ++ u ++ w ++ g : BitVec 32), none)
  | .ssub d a b u w g => some ((0x1#7 ++ d ++ a ++ b ++ 0#3 ++ u ++ w ++ g : BitVec 32), none)
  | .smul d a b u w g => some ((0x2#7 ++ d ++ a ++ b ++ 0#3 ++ u ++ w ++ g : BitVec 32), none)
  | .smulh d a b u w g => some ((0x3#7 ++ d ++ a ++ b ++ 0#3 ++ u ++ w ++ g : BitVec 32), none)
  | .sdiv d a b u w g => some ((0x4#7 ++ d ++ a ++ b ++ 0#3 ++ u ++ w ++ g : BitVec 32), none)
  | .srem d a b u w g => some ((0x5#7 ++ d ++ a ++ b ++ 0#3 ++ u ++ w ++ g : BitVec 32), none)
  | .smin d a b u w g => some ((0x6#7 ++ d ++ a ++ b ++ 0#3 ++ u ++ w ++ g : BitVec 32), none)
  | .smax d a b u w g => some ((0x7#7 ++ d ++ a ++ b ++ 0#3 ++ u ++ w ++ g : BitVec 32), none)
  | .sand d a b u w g => some ((0x8#7 ++ d ++ a ++ b ++ 0#3 ++ u ++ w ++ g : BitVec 32), none)
  | .sor d a b u w g => some ((0x9#7 ++ d ++ a ++ b ++ 0#3 ++ u ++ w ++ g : BitVec 32), none)
  | .sxor d a b u w g => some ((0xa#7 ++ d ++ a ++ b ++ 0#3 ++ u ++ w ++ g : BitVec 32), none)
  | .sandn d a b u w g => some ((0xb#7 ++ d ++ a ++ b ++ 0#3 ++ u ++ w ++ g : BitVec 32), none)
  | .sshl d a b u w g => some ((0xc#7 ++ d ++ a ++ b ++ 0#3 ++ u ++ w ++ g : BitVec 32), none)
  | .sshr d a b u w g => some ((0xd#7 ++ d ++ a ++ b ++ 0#3 ++ u ++ w ++ g : BitVec 32), none)
  | .ssra d a b u w g => some ((0xe#7 ++ d ++ a ++ b ++ 0#3 ++ u ++ w ++ g : BitVec 32), none)
  | .srot d a b u w g => some ((0xf#7 ++ d ++ a ++ b ++ 0#3 ++ u ++ w ++ g : BitVec 32), none)
  | .saddSi d a i g => some ((0x10#7 ++ d ++ a ++ i.bits ++ g : BitVec 32), i.lit?)
  | .smulSi d a i g => some ((0x11#7 ++ d ++ a ++ i.bits ++ g : BitVec 32), i.lit?)
  | .sandSi d a i g => some ((0x12#7 ++ d ++ a ++ i.bits ++ g : BitVec 32), i.lit?)
  | .sorSi d a i g => some ((0x13#7 ++ d ++ a ++ i.bits ++ g : BitVec 32), i.lit?)
  | .sxorSi d a i g => some ((0x14#7 ++ d ++ a ++ i.bits ++ g : BitVec 32), i.lit?)
  | .sminSi d a i g => some ((0x15#7 ++ d ++ a ++ i.bits ++ g : BitVec 32), i.lit?)
  | .smaxSi d a i g => some ((0x16#7 ++ d ++ a ++ i.bits ++ g : BitVec 32), i.lit?)
  | .sshlSi d a i g => some ((0x18#7 ++ d ++ a ++ i.bits ++ g : BitVec 32), i.lit?)
  | .sshrSi d a i g => some ((0x19#7 ++ d ++ a ++ i.bits ++ g : BitVec 32), i.lit?)
  | .ssraSi d a i g => some ((0x1a#7 ++ d ++ a ++ i.bits ++ g : BitVec 32), i.lit?)
  | .srotSi d a i g => some ((0x1b#7 ++ d ++ a ++ i.bits ++ g : BitVec 32), i.lit?)
  | .sclz d a u w g => some ((0x1c#7 ++ d ++ a ++ 0#8 ++ u ++ w ++ g : BitVec 32), none)
  | .sctz d a u w g => some ((0x1d#7 ++ d ++ a ++ 0#8 ++ u ++ w ++ g : BitVec 32), none)
  | .spopc d a u w g => some ((0x1e#7 ++ d ++ a ++ 0#8 ++ u ++ w ++ g : BitVec 32), none)
  | .sext d a z n g => some ((0x1f#7 ++ d ++ a ++ 0#7 ++ z ++ n ++ g : BitVec 32), none)
  | .sbfx d a b u g => some ((0x20#7 ++ d ++ a ++ b ++ 0#3 ++ u ++ 0#1 ++ g : BitVec 32), none)
  | .sbfi d a b g => some ((0x21#7 ++ d ++ a ++ b ++ 0#5 ++ g : BitVec 32), none)
  | .smov d a g => some ((0x22#7 ++ d ++ a ++ 0#10 ++ g : BitVec 32), none)
  | .smovi d i g => some ((0x23#7 ++ d ++ i.bits ++ g : BitVec 32), i.lit?)
  | .scmp d a b w c g => some ((0x24#7 ++ d ++ a ++ b ++ 0#1 ++ w ++ c ++ g : BitVec 32), none)
  | .scmpSi d a i c g => some ((0x25#7 ++ d ++ a ++ i.bits ++ c ++ g : BitVec 32), i.lit?)
  | .ssel d a b n p g => some ((0x26#7 ++ d ++ a ++ b ++ n ++ p ++ g : BitVec 32), none)
  | .pset d a b t g => some ((0x27#7 ++ d ++ a ++ b ++ 0#1 ++ t ++ g : BitVec 32), none)
  | .sfadd d a b s g => some ((0x28#7 ++ d ++ a ++ b ++ 0#4 ++ s ++ g : BitVec 32), none)
  | .sfmul d a b g => some ((0x29#7 ++ d ++ a ++ b ++ 0#5 ++ g : BitVec 32), none)
  | .sffma d a b n g => some ((0x2a#7 ++ d ++ a ++ b ++ 0#4 ++ n ++ g : BitVec 32), none)
  | .sfcvt d a f k m t w g => some ((0x2b#7 ++ d ++ a ++ 0#1 ++ f ++ k ++ m ++ t ++ w ++ g : BitVec 32), none)
  | .sfcmp d a b c g => some ((0x2c#7 ++ d ++ a ++ b ++ 0#2 ++ c ++ g : BitVec 32), none)
  | .sget d s g => some ((0x48#7 ++ d ++ s ++ 0#5 ++ g : BitVec 32), none)
  | .sset d s g => some ((0x49#7 ++ d ++ s ++ 0#5 ++ g : BitVec 32), none)
  | .br o g => some ((0x60#7 ++ o ++ g : BitVec 32), none)
  | .call o g => some ((0x61#7 ++ o ++ g : BitVec 32), none)
  | .bri d a g => some ((0x62#7 ++ d ++ a ++ 0#10 ++ g : BitVec 32), none)
  | .ret g => some ((0x63#7 ++ 0#20 ++ g : BitVec 32), none)
  | .loop a b s g => some ((0x64#7 ++ a ++ b ++ s ++ g : BitVec 32), none)
  | .loopx o g => some ((0x65#7 ++ o ++ g : BitVec 32), none)
  | .trap c g => some ((0x66#7 ++ c ++ g : BitVec 32), none)
  | .brk c g => some ((0x67#7 ++ c ++ g : BitVec 32), none)
  | .trig g => some ((0x68#7 ++ 0#20 ++ g : BitVec 32), none)
  | .exit g => some ((0x69#7 ++ 0#20 ++ g : BitVec 32), none)
  | .yield g => some ((0x6a#7 ++ 0#20 ++ g : BitVec 32), none)
  | .cont o g => some ((0x6b#7 ++ o ++ g : BitVec 32), none)
  | .tret g => some ((0x6c#7 ++ 0#20 ++ g : BitVec 32), none)
  | .halt g => some ((0x6d#7 ++ 0#20 ++ g : BitVec 32), none)
  | .vaddF d a b m t g => some ((0x0#7 ++ d ++ a ++ b ++ m ++ t ++ g : BitVec 32), none)
  | .vsubF d a b m t g => some ((0x1#7 ++ d ++ a ++ b ++ m ++ t ++ g : BitVec 32), none)
  | .vmulF d a b m t g => some ((0x2#7 ++ d ++ a ++ b ++ m ++ t ++ g : BitVec 32), none)
  | .vfma d a b m t g => some ((0x3#7 ++ d ++ a ++ b ++ m ++ t ++ g : BitVec 32), none)
  | .vfnma d a b m t g => some ((0x4#7 ++ d ++ a ++ b ++ m ++ t ++ g : BitVec 32), none)
  | .vminF d a b m t g => some ((0x5#7 ++ d ++ a ++ b ++ m ++ t ++ g : BitVec 32), none)
  | .vmaxF d a b m t g => some ((0x6#7 ++ d ++ a ++ b ++ m ++ t ++ g : BitVec 32), none)
  | .vabsF d a m t g => some ((0x7#7 ++ d ++ a ++ 0#5 ++ m ++ t ++ g : BitVec 32), none)
  | .vnegF d a m t g => some ((0x8#7 ++ d ++ a ++ 0#5 ++ m ++ t ++ g : BitVec 32), none)
  | .vcmpF d a b c t g => some ((0x9#7 ++ 0#2 ++ d ++ a ++ b ++ c ++ t ++ g : BitVec 32), none)
  | .vaddI d a b m t g => some ((0xa#7 ++ d ++ a ++ b ++ m ++ t ++ g : BitVec 32), none)
  | .vsubI d a b m t g => some ((0xb#7 ++ d ++ a ++ b ++ m ++ t ++ g : BitVec 32), none)
  | .vmulI d a b m t g => some ((0xc#7 ++ d ++ a ++ b ++ m ++ t ++ g : BitVec 32), none)
  | .vminI d a b m t g => some ((0xd#7 ++ d ++ a ++ b ++ m ++ t ++ g : BitVec 32), none)
  | .vmaxI d a b m t g => some ((0xe#7 ++ d ++ a ++ b ++ m ++ t ++ g : BitVec 32), none)
  | .vminN d a b m t g => some ((0xf#7 ++ d ++ a ++ b ++ m ++ t ++ g : BitVec 32), none)
  | .vmaxN d a b m t g => some ((0x10#7 ++ d ++ a ++ b ++ m ++ t ++ g : BitVec 32), none)
  | .vabsI d a m t g => some ((0x11#7 ++ d ++ a ++ 0#5 ++ m ++ t ++ g : BitVec 32), none)
  | .vnegI d a m t g => some ((0x12#7 ++ d ++ a ++ 0#5 ++ m ++ t ++ g : BitVec 32), none)
  | .vcmpI d a b c t g => some ((0x13#7 ++ 0#2 ++ d ++ a ++ b ++ c ++ t ++ g : BitVec 32), none)
  | .vcmpN d a b c t g => some ((0x14#7 ++ 0#2 ++ d ++ a ++ b ++ c ++ t ++ g : BitVec 32), none)
  | .vand d a b m g => some ((0x15#7 ++ d ++ a ++ b ++ m ++ 0#2 ++ g : BitVec 32), none)
  | .vor d a b m g => some ((0x16#7 ++ d ++ a ++ b ++ m ++ 0#2 ++ g : BitVec 32), none)
  | .vxor d a b m g => some ((0x17#7 ++ d ++ a ++ b ++ m ++ 0#2 ++ g : BitVec 32), none)
  | .vshl d a b m t g => some ((0x18#7 ++ d ++ a ++ b ++ m ++ t ++ g : BitVec 32), none)
  | .vshr d a b m t g => some ((0x19#7 ++ d ++ a ++ b ++ m ++ t ++ g : BitVec 32), none)
  | .vsra d a b m t g => some ((0x1a#7 ++ d ++ a ++ b ++ m ++ t ++ g : BitVec 32), none)
  | .vsel d a b m g => some ((0x1b#7 ++ d ++ a ++ b ++ m ++ 0#2 ++ g : BitVec 32), none)
  | .vmov d a m g => some ((0x1c#7 ++ d ++ a ++ 0#5 ++ m ++ 0#2 ++ g : BitVec 32), none)
  | .vmovs d a m g => some ((0x1d#7 ++ d ++ a ++ 0#5 ++ m ++ 0#2 ++ g : BitVec 32), none)
  | .viota d a m g => some ((0x1e#7 ++ d ++ a ++ 0#5 ++ m ++ 0#2 ++ g : BitVec 32), none)
  | .vcvt d a s e r g => some ((0x20#7 ++ d ++ a ++ s ++ e ++ r ++ g : BitVec 32), none)
  | .vcvtSat d a s e r g => some ((0x21#7 ++ d ++ a ++ s ++ e ++ r ++ g : BitVec 32), none)
  | .vpack d a s e r g => some ((0x22#7 ++ d ++ a ++ s ++ e ++ r ++ g : BitVec 32), none)
  | .vunpk d a s e r g => some ((0x23#7 ++ d ++ a ++ s ++ e ++ r ++ g : BitVec 32), none)
  | .vquant d a e g => some ((0x24#7 ++ d ++ a ++ 0#4 ++ e ++ 0#2 ++ g : BitVec 32), none)
  | .vrotr d a k g => some ((0x28#7 ++ d ++ a ++ k ++ 0#4 ++ g : BitVec 32), none)
  | .vbcr d a k g => some ((0x29#7 ++ d ++ a ++ k ++ 0#4 ++ g : BitVec 32), none)
  | .vredr d a k f g => some ((0x2a#7 ++ d ++ a ++ k ++ f ++ 0#2 ++ g : BitVec 32), none)
  | .vrotc d a k g => some ((0x2b#7 ++ d ++ a ++ k ++ 0#4 ++ g : BitVec 32), none)
  | .vbcc d a k g => some ((0x2c#7 ++ d ++ a ++ k ++ 0#4 ++ g : BitVec 32), none)
  | .vredc d a k f g => some ((0x2d#7 ++ d ++ a ++ k ++ f ++ 0#2 ++ g : BitVec 32), none)
  | .vpermc d a b m g => some ((0x2e#7 ++ d ++ a ++ b ++ m ++ 0#2 ++ g : BitVec 32), none)
  | .vext d a r c g => some ((0x30#7 ++ d ++ a ++ r ++ c ++ g : BitVec 32), none)
  | .vins d a r c g => some ((0x31#7 ++ d ++ a ++ r ++ c ++ g : BitVec 32), none)
  | .mlog d a b o g => some ((0x38#7 ++ d ++ a ++ b ++ o ++ 0#2 ++ g : BitVec 32), none)
  | .mpop d a m g => some ((0x39#7 ++ d ++ a ++ 0#5 ++ m ++ 0#2 ++ g : BitVec 32), none)
  | .mset d a g => some ((0x3a#7 ++ d ++ a ++ 0#10 ++ g : BitVec 32), none)
  | .mmov d a g => some ((0x3b#7 ++ d ++ a ++ 0#10 ++ g : BitVec 32), none)
  | .vrcp d a m t g => some ((0x40#7 ++ d ++ a ++ 0#5 ++ m ++ t ++ g : BitVec 32), none)
  | .vrsq d a m t g => some ((0x41#7 ++ d ++ a ++ 0#5 ++ m ++ t ++ g : BitVec 32), none)
  | .vexp2 d a m t g => some ((0x42#7 ++ d ++ a ++ 0#5 ++ m ++ t ++ g : BitVec 32), none)
  | .vlog2 d a m t g => some ((0x43#7 ++ d ++ a ++ 0#5 ++ m ++ t ++ g : BitVec 32), none)
  | .ldB t a o g => some ((0x0#7 ++ t ++ a ++ o ++ g : BitVec 32), none)
  | .ldBu t a o g => some ((0x1#7 ++ t ++ a ++ o ++ g : BitVec 32), none)
  | .ldH t a o g => some ((0x2#7 ++ t ++ a ++ o ++ g : BitVec 32), none)
  | .ldHu t a o g => some ((0x3#7 ++ t ++ a ++ o ++ g : BitVec 32), none)
  | .ldW t a o g => some ((0x4#7 ++ t ++ a ++ o ++ g : BitVec 32), none)
  | .ldWu t a o g => some ((0x5#7 ++ t ++ a ++ o ++ g : BitVec 32), none)
  | .ldD t a o g => some ((0x6#7 ++ t ++ a ++ o ++ g : BitVec 32), none)
  | .ldv t a o g => some ((0x7#7 ++ t ++ a ++ o ++ g : BitVec 32), none)
  | .stB t a o g => some ((0x8#7 ++ t ++ a ++ o ++ g : BitVec 32), none)
  | .stH t a o g => some ((0x9#7 ++ t ++ a ++ o ++ g : BitVec 32), none)
  | .stW t a o g => some ((0xa#7 ++ t ++ a ++ o ++ g : BitVec 32), none)
  | .stD t a o g => some ((0xb#7 ++ t ++ a ++ o ++ g : BitVec 32), none)
  | .stv t a o g => some ((0xc#7 ++ t ++ a ++ o ++ g : BitVec 32), none)
  | .ldBMq t a c s h g => some ((0x10#7 ++ t ++ a ++ c ++ s ++ h ++ 0#1 ++ g : BitVec 32), none)
  | .ldBuMq t a c s h g => some ((0x11#7 ++ t ++ a ++ c ++ s ++ h ++ 0#1 ++ g : BitVec 32), none)
  | .ldHMq t a c s h g => some ((0x12#7 ++ t ++ a ++ c ++ s ++ h ++ 0#1 ++ g : BitVec 32), none)
  | .ldHuMq t a c s h g => some ((0x13#7 ++ t ++ a ++ c ++ s ++ h ++ 0#1 ++ g : BitVec 32), none)
  | .ldWMq t a c s h g => some ((0x14#7 ++ t ++ a ++ c ++ s ++ h ++ 0#1 ++ g : BitVec 32), none)
  | .ldWuMq t a c s h g => some ((0x15#7 ++ t ++ a ++ c ++ s ++ h ++ 0#1 ++ g : BitVec 32), none)
  | .ldDMq t a c s h g => some ((0x16#7 ++ t ++ a ++ c ++ s ++ h ++ 0#1 ++ g : BitVec 32), none)
  | .ldvMq t a c s h g => some ((0x17#7 ++ t ++ a ++ c ++ s ++ h ++ 0#1 ++ g : BitVec 32), none)
  | .stBMq t a c s h g => some ((0x18#7 ++ t ++ a ++ c ++ s ++ h ++ 0#1 ++ g : BitVec 32), none)
  | .stHMq t a c s h g => some ((0x19#7 ++ t ++ a ++ c ++ s ++ h ++ 0#1 ++ g : BitVec 32), none)
  | .stWMq t a c s h g => some ((0x1a#7 ++ t ++ a ++ c ++ s ++ h ++ 0#1 ++ g : BitVec 32), none)
  | .stDMq t a c s h g => some ((0x1b#7 ++ t ++ a ++ c ++ s ++ h ++ 0#1 ++ g : BitVec 32), none)
  | .stvMq t a c s h g => some ((0x1c#7 ++ t ++ a ++ c ++ s ++ h ++ 0#1 ++ g : BitVec 32), none)
  | .ldAcqB t a c s h g => some ((0x20#7 ++ t ++ a ++ c ++ s ++ h ++ 0#1 ++ g : BitVec 32), none)
  | .ldAcqBu t a c s h g => some ((0x21#7 ++ t ++ a ++ c ++ s ++ h ++ 0#1 ++ g : BitVec 32), none)
  | .ldAcqH t a c s h g => some ((0x22#7 ++ t ++ a ++ c ++ s ++ h ++ 0#1 ++ g : BitVec 32), none)
  | .ldAcqHu t a c s h g => some ((0x23#7 ++ t ++ a ++ c ++ s ++ h ++ 0#1 ++ g : BitVec 32), none)
  | .ldAcqW t a c s h g => some ((0x24#7 ++ t ++ a ++ c ++ s ++ h ++ 0#1 ++ g : BitVec 32), none)
  | .ldAcqWu t a c s h g => some ((0x25#7 ++ t ++ a ++ c ++ s ++ h ++ 0#1 ++ g : BitVec 32), none)
  | .ldAcqD t a c s h g => some ((0x26#7 ++ t ++ a ++ c ++ s ++ h ++ 0#1 ++ g : BitVec 32), none)
  | .stRelB t a c s h g => some ((0x28#7 ++ t ++ a ++ c ++ s ++ h ++ 0#1 ++ g : BitVec 32), none)
  | .stRelH t a c s h g => some ((0x29#7 ++ t ++ a ++ c ++ s ++ h ++ 0#1 ++ g : BitVec 32), none)
  | .stRelW t a c s h g => some ((0x2a#7 ++ t ++ a ++ c ++ s ++ h ++ 0#1 ++ g : BitVec 32), none)
  | .stRelD t a c s h g => some ((0x2b#7 ++ t ++ a ++ c ++ s ++ h ++ 0#1 ++ g : BitVec 32), none)
  | .ldSpB t a o g => some ((0x30#7 ++ t ++ a ++ o ++ g : BitVec 32), none)
  | .ldSpBu t a o g => some ((0x31#7 ++ t ++ a ++ o ++ g : BitVec 32), none)
  | .ldSpH t a o g => some ((0x32#7 ++ t ++ a ++ o ++ g : BitVec 32), none)
  | .ldSpHu t a o g => some ((0x33#7 ++ t ++ a ++ o ++ g : BitVec 32), none)
  | .ldSpW t a o g => some ((0x34#7 ++ t ++ a ++ o ++ g : BitVec 32), none)
  | .ldSpWu t a o g => some ((0x35#7 ++ t ++ a ++ o ++ g : BitVec 32), none)
  | .ldSpD t a o g => some ((0x36#7 ++ t ++ a ++ o ++ g : BitVec 32), none)
  | .ldvSp t a o g => some ((0x37#7 ++ t ++ a ++ o ++ g : BitVec 32), none)
  | .stSpB t a o g => some ((0x38#7 ++ t ++ a ++ o ++ g : BitVec 32), none)
  | .stSpH t a o g => some ((0x39#7 ++ t ++ a ++ o ++ g : BitVec 32), none)
  | .stSpW t a o g => some ((0x3a#7 ++ t ++ a ++ o ++ g : BitVec 32), none)
  | .stSpD t a o g => some ((0x3b#7 ++ t ++ a ++ o ++ g : BitVec 32), none)
  | .stvSp t a o g => some ((0x3c#7 ++ t ++ a ++ o ++ g : BitVec 32), none)
  | .ldSpBMq t a c s g => some ((0x40#7 ++ t ++ a ++ c ++ s ++ 0#3 ++ g : BitVec 32), none)
  | .ldSpBuMq t a c s g => some ((0x41#7 ++ t ++ a ++ c ++ s ++ 0#3 ++ g : BitVec 32), none)
  | .ldSpHMq t a c s g => some ((0x42#7 ++ t ++ a ++ c ++ s ++ 0#3 ++ g : BitVec 32), none)
  | .ldSpHuMq t a c s g => some ((0x43#7 ++ t ++ a ++ c ++ s ++ 0#3 ++ g : BitVec 32), none)
  | .ldSpWMq t a c s g => some ((0x44#7 ++ t ++ a ++ c ++ s ++ 0#3 ++ g : BitVec 32), none)
  | .ldSpWuMq t a c s g => some ((0x45#7 ++ t ++ a ++ c ++ s ++ 0#3 ++ g : BitVec 32), none)
  | .ldSpDMq t a c s g => some ((0x46#7 ++ t ++ a ++ c ++ s ++ 0#3 ++ g : BitVec 32), none)
  | .ldvSpMq t a c s g => some ((0x47#7 ++ t ++ a ++ c ++ s ++ 0#3 ++ g : BitVec 32), none)
  | .stSpBMq t a c s g => some ((0x48#7 ++ t ++ a ++ c ++ s ++ 0#3 ++ g : BitVec 32), none)
  | .stSpHMq t a c s g => some ((0x49#7 ++ t ++ a ++ c ++ s ++ 0#3 ++ g : BitVec 32), none)
  | .stSpWMq t a c s g => some ((0x4a#7 ++ t ++ a ++ c ++ s ++ 0#3 ++ g : BitVec 32), none)
  | .stSpDMq t a c s g => some ((0x4b#7 ++ t ++ a ++ c ++ s ++ 0#3 ++ g : BitVec 32), none)
  | .stvSpMq t a c s g => some ((0x4c#7 ++ t ++ a ++ c ++ s ++ 0#3 ++ g : BitVec 32), none)
  | .ldx t a b c g => some ((0x50#7 ++ t ++ a ++ b ++ c ++ 0#1 ++ g : BitVec 32), none)
  | .stx t a b c g => some ((0x51#7 ++ t ++ a ++ b ++ c ++ 0#1 ++ g : BitVec 32), none)
  | .ldxSp t a b c g => some ((0x52#7 ++ t ++ a ++ b ++ c ++ 0#1 ++ g : BitVec 32), none)
  | .stxSp t a b c g => some ((0x53#7 ++ t ++ a ++ b ++ c ++ 0#1 ++ g : BitVec 32), none)
  | .atomW t a c s o g => some ((0x54#7 ++ t ++ a ++ c ++ s ++ o ++ g : BitVec 32), none)
  | .atomD t a c s o g => some ((0x55#7 ++ t ++ a ++ c ++ s ++ o ++ g : BitVec 32), none)
  | .casW t a c s g => some ((0x56#7 ++ t ++ a ++ c ++ s ++ 0#3 ++ g : BitVec 32), none)
  | .casD t a c s g => some ((0x57#7 ++ t ++ a ++ c ++ s ++ 0#3 ++ g : BitVec 32), none)
  | .fence m s g => some ((0x58#7 ++ m ++ s ++ 0#1 ++ g : BitVec 32), none)
  | .mwait t a b s g => some ((0x59#7 ++ t ++ a ++ b ++ s ++ 0#2 ++ g : BitVec 32), none)
  | .prf t a h g => some ((0x5a#7 ++ t ++ a ++ 0#7 ++ h ++ 0#1 ++ g : BitVec 32), none)
  | .cinv g => some ((0x5b#7 ++ 0#20 ++ g : BitVec 32), none)
  | .cinvL a g => some ((0x5b#7 ++ a ++ 1#15 ++ g : BitVec 32), none)
  | .vjoin g => some ((0x5c#7 ++ 0#20 ++ g : BitVec 32), none)
  | .ifence g => some ((0x5d#7 ++ 0#20 ++ g : BitVec 32), none)
  | .enq a b g => some ((0x5e#7 ++ a ++ b ++ 0#10 ++ g : BitVec 32), none)
  | .grow b g => some ((0x5f#7 ++ 0#5 ++ b ++ 0#10 ++ g : BitVec 32), none)
  | .bgadd a b m g => some ((0x60#7 ++ a ++ b ++ 0#9 ++ m ++ g : BitVec 32), none)
  | .copy a b c s g => some ((0x61#7 ++ a ++ b ++ c ++ s ++ 0#3 ++ g : BitVec 32), none)
  | .stamp a b c s x g => some ((0x62#7 ++ a ++ b ++ c ++ s ++ 0#2 ++ x ++ g : BitVec 32), none)
  | .ctarm a b c s g => some ((0x63#7 ++ a ++ b ++ c ++ s ++ 0#3 ++ g : BitVec 32), none)
  | .ctarmDis b c s g => some ((0x63#7 ++ 0#5 ++ b ++ c ++ s ++ 1#3 ++ g : BitVec 32), none)
  | .ctset b c s g => some ((0x64#7 ++ 0#5 ++ b ++ c ++ s ++ 0#3 ++ g : BitVec 32), none)
  | .ctstat a b m g => some ((0x65#7 ++ a ++ b ++ 0#9 ++ m ++ g : BitVec 32), none)
  | .hgive a b c s g => some ((0x66#7 ++ a ++ b ++ c ++ s ++ 0#3 ++ g : BitVec 32), none)
  | .hgiveRet b c s g => some ((0x66#7 ++ 0#5 ++ b ++ c ++ s ++ 1#3 ++ g : BitVec 32), none)
  | .htake a b c s g => some ((0x67#7 ++ a ++ b ++ c ++ s ++ 0#3 ++ g : BitVec 32), none)
  | .htakeWd b c s g => some ((0x67#7 ++ 0#5 ++ b ++ c ++ s ++ 1#3 ++ g : BitVec 32), none)
  | .hqry a b g => some ((0x68#7 ++ a ++ b ++ 0#10 ++ g : BitVec 32), none)
  | .snap a b c g => some ((0x69#7 ++ a ++ b ++ c ++ 40#6 ++ g : BitVec 32), none)
  | .sacc a b c g => some ((0x6a#7 ++ a ++ b ++ c ++ 40#6 ++ g : BitVec 32), none)
  | .srej a b c g => some ((0x6b#7 ++ a ++ b ++ c ++ 40#6 ++ g : BitVec 32), none)
  | .sstat a b g => some ((0x6c#7 ++ a ++ b ++ 0#10 ++ g : BitVec 32), none)
  | .evac a b c s g => some ((0x6d#7 ++ a ++ b ++ c ++ s ++ 0#3 ++ g : BitVec 32), none)
  | .chartq a b g => some ((0x6e#7 ++ a ++ b ++ 0#10 ++ g : BitVec 32), none)
  | .mxfmt a b w g => some ((0x70#7 ++ 0#10 ++ a ++ b ++ w ++ 0#1 ++ g : BitVec 32), none)
  | .mxw q p g => some ((0x71#7 ++ 0#6 ++ q ++ 0#9 ++ p ++ g : BitVec 32), none)
  | .mxmac t q p g => some ((0x72#7 ++ t ++ q ++ 0#9 ++ p ++ g : BitVec 32), none)
  | .mxmul t q p g => some ((0x73#7 ++ t ++ q ++ 0#9 ++ p ++ g : BitVec 32), none)
  | .mxdrv v q p g => some ((0x74#7 ++ 0#1 ++ v ++ q ++ 0#9 ++ p ++ g : BitVec 32), none)
  | .mxchk t r e g => some ((0x75#7 ++ t ++ 0#8 ++ r ++ e ++ g : BitVec 32), none)
  | .mxwait g => some ((0x76#7 ++ 0#20 ++ g : BitVec 32), none)
  | .ringcfg t q n s g => some ((0x77#7 ++ t ++ q ++ n ++ s ++ 0#2 ++ g : BitVec 32), none)
  | .ringst t q c g => some ((0x78#7 ++ 0#1 ++ t ++ q ++ 0#9 ++ c ++ g : BitVec 32), none)
  | .tld q a x f b d g => some ((0x79#7 ++ q ++ a ++ x ++ f ++ 0#1 ++ b ++ d ++ g : BitVec 32), none)
  | .tst q a x f p g => some ((0x7a#7 ++ q ++ a ++ x ++ f ++ 0#5 ++ p ++ g : BitVec 32), none)
  | .ald v t r f g => some ((0x0#7 ++ v ++ t ++ r ++ f ++ g : BitVec 32), none)
  | .ast v t r f g => some ((0x1#7 ++ v ++ t ++ r ++ f ++ g : BitVec 32), none)
  | .aadd v t r f g => some ((0x2#7 ++ v ++ t ++ r ++ f ++ g : BitVec 32), none)
  | .azero t g => some ((0x3#7 ++ 0#5 ++ t ++ 0#9 ++ g : BitVec 32), none)
  | .ascl v t g => some ((0x4#7 ++ v ++ t ++ 0#9 ++ g : BitVec 32), none)
  | .acvt v t r f g => some ((0x5#7 ++ v ++ t ++ r ++ f ++ g : BitVec 32), none)
  | .acks t g => some ((0x6#7 ++ 0#5 ++ t ++ 0#9 ++ g : BitVec 32), none)
  | .aadam v t r z g => some ((0x7#7 ++ v ++ t ++ r ++ 0#1 ++ z ++ g : BitVec 32), none)
  | .bundleIssue .. => none
  | .bundleLimitDatum .. => none
  | .interlockedResult .. => none
  | .datumCommit .. => none
  | .remoteFaultDelivery .. => none
  | .budgetExhaustion .. => none
  | .graceExhaustion .. => none
  | .stopRequest .. => none
  | .stopAbandon .. => none
  | .storePerform .. => none
  | .monitorWake .. => none
  | .mwaitRemoteRecheck .. => none
  | .mwaitHostPoll .. => none
  | .matrixCommandStart .. => none
  | .drainCheck .. => none
  | .tldComplete .. => none
  | .tstComplete .. => none
  | .copyExecute .. => none
  | .copyStamp .. => none
  | .stampWrite .. => none
  | .collectiveArm .. => none
  | .collectiveDisarm .. => none
  | .sendFlagSet .. => none
  | .collectiveSend .. => none
  | .sendComplete .. => none
  | .contributionArrival .. => none
  | .collectiveTimeout .. => none
  | .handleOffer .. => none
  | .handleBind .. => none
  | .handleReturn .. => none
  | .handleWithdraw .. => none
  | .snapInstall .. => none
  | .snapshotAccept .. => none
  | .snapshotReject .. => none
  | .growApply .. => none
  | .bgaddApply .. => none
  | .retirement .. => none
  | .evacuationLineCopy .. => none
  | .compaction .. => none
  | .foldCopy .. => none
  | .errsThreshold .. => none
  | .selfTestComplete .. => none
  | .patrolScrub .. => none
  | .admission .. => none
  | .waitMet .. => none
  | .dispatch .. => none
  | .ageingPromotion .. => none
  | .isobarWindow .. => none
  | .packageReset .. => none
  | .attestationRequest .. => none
  | .ucieModuleFail .. => none
  | .bhpRd .. => none
  | .bhpWr .. => none
  | .bhpRdAq .. => none
  | .bhpWrRl .. => none
  | .bhpFence .. => none
  | .bhpAt .. => none
  | .bhpCpl .. => none
  | .registerWrite .. => none
  | .wbaseWrite .. => none
  | .queueEnable .. => none
  | .queueDisable .. => none
  | .featctlLock .. => none
  | .quiesceClear .. => none
  | .intcauseClear .. => none
  | .htret .. => none
  | .htopup .. => none
  | .linkTrain .. => none
  | .req .. => none
  | .rsp .. => none
  | .wakeMessage .. => none
  | .pause .. => none
  | .resume .. => none
  | .ack .. => none
  | .nak .. => none
  | .flitCrcFail .. => none
  | .portRetrain .. => none
  | .portDown .. => none
  | .softError .. => none
  | .mxwLoadComplete .. => none
  | .mxchkComplete .. => none

/-- Every feature accepted and every right given: the environment in which a word's own encoding is read. -/
def DecEnv.full : DecEnv := ⟨0xFF, false, true, true, false⟩

/-- A slot an operation of the class may stand in: S1, V0, M, A. -/
def SlotClass.slot : SlotClass → Slot
  | .s => .s1
  | .v => .v0
  | .m => .m
  | .a => .a

/-- A word read in the slot of a class, with every feature accepted. -/
def decodeClass (c : SlotClass) (w : W32) : Option Instr :=
  match decodeSlot DecEnv.full c.slot w none with
  | .ok i => some i
  | .error _ => none

/-- The classes in the order in which `decodeTableWord` tries them. -/
def SlotClass.all : List SlotClass := [.s, .v, .m, .a]

/-- The class of the first slot class in which a word decodes. -/
def wordClass (w : W32) : Option SlotClass :=
  SlotClass.all.find? fun c => (decodeClass c w).isSome

/-- A word of the opcode table as an instruction. The four slot classes share their opcodes (spec/07, Slot words), so
a word alone may be an operation of several; the first of S, V, M, A in which it decodes is taken (assumption 7). -/
def decodeTableWord (nbits w : Nat) : Option Instr :=
  if nbits ≠ 32 then none
  else
    match wordClass (BitVec.ofNat 32 w) with
    | none => none
    | some c => decodeClass c (BitVec.ofNat 32 w)

end Sys2Proof
end

