-- ==== Sys2Proof/Machine/State.lean ====
section
/-! DEFINITION. The state of one SV9 package, as plain data, and the state after reset. Every field cites the rule that
gives the machine this state; a field of the model's own says so. -/

namespace Sys2Proof.Machine

/-- Bytes by address, strictly rising, listing no zero byte: an unlisted address reads 0 (R369 step 4; for the stores it
does not cover, assumption 5). -/
abbrev Mem := List Host.Cell

/-- The image of a vector register: 1,024 elements by element index 64*i + j (R207). -/
abbrev Vec := List W32

/-- A vector mask, one bit for each element (R207). -/
abbrev Mask := BitVec 1024

/-- A 128-byte line as one number, its byte at offset n in bits 8*n+7 to 8*n. -/
abbrev Line := BitVec 1024

/-- An accumulator tile: 65 rows of 65 fp32 values, element (i, j) at index 65*i + j (R63). -/
abbrev AccTile := List W32

/-- A table by number, in rising order of its keys. -/
abbrev KMap (α : Type) := List (Nat × α)

/-- A memory: its bytes, its poisoned lines (R331) and the byte ranges [lo, hi) that hold undefined values (R8). -/
structure Store where
  cells  : Mem
  poison : List Nat
  undef  : List (Nat × Nat)
  deriving DecidableEq, Repr

/-- A memory with every byte zero. -/
def Store.zero : Store := ⟨[], [], []⟩

/-- A place with a home (R68): a byte of the pod's HBM4 by 52-bit pod address, or of host memory. -/
inductive Loc where
  | hbm (a : Nat)
  | host (a : Nat)
  deriving DecidableEq, Repr

/-- A global place that a command writes, with the policy of its window entry (R32). -/
structure Spot where
  loc : Loc
  pol : BitVec 2
  deriving DecidableEq, Repr

/-- A place a stamp is written: global, or an offset of a task's scratchpad (R92). -/
inductive StampLoc where
  | global (x : Spot)
  | sp (task : W64) (off : Nat)
  deriving DecidableEq, Repr

/-- One active loop (R131, R181 to R183, R380): the body's start, E, the address after the last pass (E, or the target of
a loopx), B, S, N, the pass, and R183's Ns once loopx has issued. -/
structure Loop where
  body   : W64
  endA   : W64
  target : W64
  blen   : Nat
  stages : Nat
  n      : Nat
  pass   : Nat
  ns     : Option Nat
  /-- Iterations started when a stop holds p8 false (R134). -/
  stopNs : Option Nat
  deriving DecidableEq, Repr

/-- An armed monitor of an mwait whose result is outstanding (R113, R259, R261). -/
structure Monitor where
  loc    : Loc
  va     : W64
  target : BitVec 56
  t      : Nat
  scope  : Nat
  /-- The policy of its entry (R32). -/
  pol    : BitVec 2
  deriving DecidableEq, Repr

/-- The registers of a partition: what the duplicate set copies and a rollback restores (R113). -/
structure Regs where
  /-- s0 to s31; entry 0 is never read (R114). -/
  s      : List W64
  /-- p0 to p15; p0 reads true and p8 to p15 come from the loops (R114, R131). -/
  p      : BitVec 16
  v      : List Vec
  m      : List Mask
  lc0    : W64
  lc1    : W64
  /-- Active loops, outermost first (R132). -/
  loops  : List Loop
  pc     : W64
  /-- Format latch (R227). -/
  fa     : BitVec 4
  fb     : BitVec 4
  w      : Bool
  /-- mxfmt values not yet in force, each with the bundles issued since, oldest first (R227). -/
  fmtq   : List (BitVec 4 × BitVec 4 × Bool × Nat)
  mxstat : BitVec 5
  cont   : W64
  /-- Continuation mode with its parked program counter and loops (R310). -/
  cm     : Bool
  parkedPc : W64
  parked : List Loop
  mon    : Option Monitor
  /-- Free values drawn at the last vjoin; 0 before one (R23, R264; the model's own). -/
  vj     : Nat
  /-- Own releases that an acquire has read before they performed, as the acquire's class and the store's `op` (R373; the model's own). -/
  acq    : List (Nat × Nat)
  deriving DecidableEq, Repr

/-- A register value on its way (R118). -/
inductive Write where
  | s (d : Nat) (x : W64)
  | p (d : Nat) (b : Bool)
  | v (d : Nat) (x : Vec)
  | m (d : Nat) (x : Mask)
  | sat
  /-- Nothing lands: a vquant that has not saturated holds its window (R241). -/
  | quant
  /-- Nothing lands: system register n held x before an sset or cont whose value is not yet sure to be read (R186). -/
  | sysOld (n : Nat) (x : W64)
  deriving DecidableEq, Repr

/-- An in-flight result: issued at cycle `iss`, landed from cycle `due` on (R118, R119). -/
structure Flight where
  wr  : Write
  iss : Nat
  due : Nat
  deriving DecidableEq, Repr

/-- What an atomic makes of its operand: the operation of R151 with its second operand, or a comparison with its expected and
new values (R256, R257). -/
inductive Rmw where
  | atom (op : BitVec 3) (y : Nat)
  | cas (e y : Nat)
  deriving DecidableEq, Repr

/-- What a home outside the package answers to a request (R348, R359): done with the bytes it read, refused by a snapshot arena
(R109), poisoned (R331), or refused as a read or as a write (R362). -/
inductive Answer where
  | done (bs : List Byte)
  | arena
  | poison
  | refused (write : Bool)
  deriving DecidableEq, Repr

/-- An interlocked read that has issued and not performed (R69, R120), or an atomic at a home outside the package. -/
structure Pend where
  dst    : Reg
  loc    : Loc
  size   : Nat
  sext   : Bool
  cls    : Nat
  scope  : Nat
  pol    : BitVec 2
  acq    : Bool
  /-- Store-buffer entries before it in program order: what they hold is forwarded (R70). -/
  sb     : Nat
  /-- The access it is a piece of: the pieces of one access keep no order among themselves (R87; a number of the model's
  own). -/
  op     : Nat
  /-- What an atomic does to its operand (R82). -/
  rmw    : Option Rmw
  /-- A piece of a vector load or a gather lands from this element on (R252, R254). -/
  elem   : Option Nat
  va     : W64
  /-- Its place in program order within the interval (R337; the model's own). -/
  key    : Nat
  deriving DecidableEq, Repr

/-- The data of one ring slot or stationary buffer (R224, R230): 4,096 element encodings by 64*i + j, format, blocking
(column when true), 128 scales, and the checksum vectors. -/
structure TileData where
  fmt  : BitVec 4
  cb   : Bool
  el   : List W32
  sc   : List Byte
  csc  : List W32
  csr  : List W32
  csz  : W32
  poison : Bool
  deriving DecidableEq, Repr

/-- A slot's side store and whether its data have arrived: a slot a copy has reserved waits for its stamp (R271). Of an undefined slot
`data` holds the format, the blocking and the poison alone, and each read finds other data (R8). -/
structure RingSlot where
  data  : TileData
  ready : Bool
  undef : Bool
  deriving DecidableEq, Repr

/-- An operand ring (R229, R230). `popped` counts the slots popped in the open interval (R128). -/
structure Ring where
  base   : Nat
  nunits : Nat
  sz     : Nat
  nslots : Nat
  head   : Nat
  tail   : Nat
  count  : Nat
  popped : Nat
  inx    : Bool
  slots  : KMap RingSlot
  deriving DecidableEq, Repr

/-- The two stationary buffers and which is current (R224). -/
structure Stat where
  b0  : Option TileData
  b1  : Option TileData
  cur : Option Bool
  /-- An mxw has filled a buffer in the open interval (R224). -/
  loaded : Bool
  deriving DecidableEq, Repr

/-- What a line held: its bytes, and the ranges of offsets in it whose bytes were undefined (R8). -/
structure LineImg where
  data  : Line
  undef : List (Nat × Nat)
  deriving DecidableEq, Repr

/-- A scratchpad line written in one view and not yet joined with the other: what it held before, the view of the write
(swizzled when true), and whether the write belongs to the open interval (R23). -/
structure ViewLine where
  line : Nat
  old  : LineImg
  swz  : Bool
  tent : Bool
  /-- What `old` was before the writes of the open interval in the other view (R23, R129). -/
  base : LineImg
  /-- Free values drawn when it was written: a vjoin that drew more has joined it for its partition (R264; the model's own). -/
  tick : Nat
  deriving DecidableEq, Repr

/-- What a task keeps resident on a core (R113, R324, R379): its scratchpad rows, rings, tiles and stationary buffers,
by the names the task uses (R21, R228). -/
structure Resident where
  rows  : Nat
  units : Nat
  rmask : BitVec 16
  tmask : BitVec 64
  sp    : Store
  /-- Lines whose last writes the other view need not show before a vjoin (R23). -/
  views : List ViewLine
  /-- Elements of 16 bytes that have taken an addition since bytes of theirs were last stored (R66, R204; the model's own). -/
  took  : List Nat
  rings : KMap Ring
  tiles : KMap AccTile
  /-- Undefined elements of accumulator tiles (R8, R270), as ranges of 4225 * tile + 65 * row + column. -/
  tundef : List (Nat × Nat)
  /-- Poisoned rows of accumulator tiles, as (tile, row) (R331). -/
  tpoison : List (Nat × Nat)
  stat  : Stat
  /-- First row, unit of the reservation on the core (R22, R229). -/
  row0  : Nat
  unit0 : Nat
  deriving DecidableEq, Repr

/-- A matrix command in the front or shadow set (R223). -/
inductive MxKind where
  | mxw | mxmac | mxmul | mxdrv | mxchk
  deriving DecidableEq, Repr

structure MxCmd where
  kind : MxKind
  seq  : Nat
  /-- Its place in program order within the interval (R337; the model's own). -/
  key  : Nat
  t    : Nat
  q    : Nat
  pop  : Bool
  fa   : BitVec 4
  fb   : BitVec 4
  rep  : Bool
  e    : Nat
  pc   : W64
  started : Bool
  /-- Recomputes taken by R238. -/
  tries : Nat
  deriving DecidableEq, Repr

/-- A tld or tst that has issued and not completed (R232, R233). -/
structure TileOp where
  store : Bool
  seq  : Nat
  /-- Its place in program order within the interval (R337; the model's own). -/
  key  : Nat
  q    : Nat
  off  : Nat
  tr   : Bool
  f    : BitVec 4
  fd   : BitVec 4
  cb   : Bool
  pop  : Bool
  pc   : W64
  tries : Nat
  deriving DecidableEq, Repr

/-- A ringst whose result has not landed (R230). -/
structure RingRead where
  t   : Nat
  q   : Nat
  clr : Bool
  seq : Nat
  /-- Its place in program order within the interval (R337; the model's own). -/
  key : Nat
  deriving DecidableEq, Repr

/-- An A-slot operation with the operands it read at issue (R243 to R247). -/
inductive AKind where
  | ald (v r : Nat) (cs : Bool)
  | ast (x : Vec) (r : Nat) (cs : Bool)
  | aadd (x : Vec) (r : Nat) (cs : Bool)
  | azero
  | ascl (x : W32)
  | acvt (v r : Nat) (m : BitVec 2)
  | acks
  | aadam (v r : Nat) (z : Bool) (w m s par : Vec)
  deriving DecidableEq, Repr

/-- An A-slot operation that waits for an earlier operation on its tile (R243). -/
structure AOp where
  kind : AKind
  tile : Nat
  seq  : Nat
  /-- Its place in program order within the interval (R337; the model's own). -/
  key  : Nat
  pc   : W64
  deriving DecidableEq, Repr

/-- A place an engine access names, resolved at issue (R21): a home with the policy of its entry (R32), an offset of a task's reservation,
a byte of an accumulator tile in the address form of space 3, or a ring slot. -/
inductive Place where
  | glob (l : Loc) (pol : BitVec 2)
  | sp (task : W64) (off : Nat)
  | acc (task : W64) (addr : Nat)
  | slot (task : W64) (q i : Nat)
  deriving DecidableEq, Repr

/-- A copy as its descriptor names it at issue (R269, R270): `n0` bytes or elements a run, and the source and destination
of each run. -/
structure CopyDesc where
  anchor : Int
  cb : Bool
  dfmt : BitVec 4
  sfmt : BitVec 4
  op   : Nat
  tile : Bool
  n0   : Nat
  runs : List (Place × Place)
  deriving DecidableEq, Repr

/-- A peer of a collective entry (R96, R273). -/
structure Peer where
  idx : Nat
  pkg : Nat
  sd  : Nat
  entry : Nat
  deriving DecidableEq, Repr

/-- The descriptor of a ctarm (R273), its addresses resolved; fields of a disabled side are none. -/
structure ArmDesc where
  rx  : Bool
  tx  : Bool
  op  : Nat
  sfmt : BitVec 4
  expect : Nat
  anchor : Int
  deadline : Nat
  dtile : Nat
  result : Option Spot
  consumers : BitVec 48
  cstamp : Option Spot
  cseq : BitVec 56
  source : Option Place
  sstamp : Option Spot
  sseq : BitVec 56
  peers : List Peer
  deriving DecidableEq, Repr

/-- The descriptor of a snap (R281), with its range and arena as runs of pod addresses [lo, hi). -/
structure SnapDesc where
  range  : List (Nat × Nat)
  arena  : List (Nat × Nat)
  alines : Nat
  stamp  : Option Spot
  seq    : BitVec 56
  deriving DecidableEq, Repr

/-- What an engine command does once released (R266). Numbers reserved at issue are part of it. -/
inductive CmdKind where
  | copy (d : CopyDesc) (stamp : StampLoc) (seq : BitVec 56)
  | stamp (l : StampLoc) (seq : BitVec 56)
  | ctarm (sd e : Nat) (d : ArmDesc)
  | ctarmDis (sd e : Nat)
  | ctset (sd e : Nat)
  | hgive (h : Nat) (peer nrows baserow : Nat)
  | hgiveRet (h : Nat)
  | htake (h : Nat) (peer ph : Nat)
  | htakeWd (h : Nat)
  | snap (n : Option Nat) (d : SnapDesc)
  | sacc (h : Nat) (stamp : Option Spot) (seq : BitVec 56)
  | srej (h : Nat) (stamp : Option Spot) (seq : BitVec 56)
  /-- The budgets of the tasks, and what the issue has debited for them (R301). -/
  | grow (n : Nat) (bgi bgm debI debM : Int)
  | bgadd (target : W64) (m : Bool) (amount : Nat) (sup : Bool)
  | evac (core idx : Nat)
  | trig
  deriving DecidableEq, Repr

/-- A piece of a run read by an engine, by its place in the run: its bytes, with poisoned stretches (R73, R333). -/
structure GotPiece where
  off : Nat
  bytes : List Byte
  bad : List (Nat × Nat)
  deriving DecidableEq, Repr

/-- A run of a copy in progress (R73, R87, R270): the pieces still to be read, what has been read, the pieces still to be written as
offset and bytes with poisoned stretches, and the rereads that R334 has made. Pieces are named by offset and length. -/
structure RunProg where
  run  : Nat
  gets : List (Nat × Nat)
  got  : List GotPiece
  puts : List GotPiece
  tries : Nat
  deriving DecidableEq, Repr

/-- An engine command with its issuer and attributes (R74, R90). -/
structure Cmd where
  kind  : CmdKind
  part  : Nat
  task  : W64
  asid  : Nat
  cls   : Nat
  scope : Nat
  seq   : Nat
  /-- The partition's last vjoin as the command issued (R23; the model's own). -/
  vj    : Nat
  /-- Own releases that acquires of its class before it have read, by `op` (R373; the model's own). -/
  after : List Nat
  /-- Pages it touches, of host memory when true, and whether it has pinned them (R19). -/
  pages : List (Bool × Nat)
  pinned : Bool
  /-- Ring slots a copy has reserved at release (R271). -/
  slots : List (Nat × Nat)
  /-- Runs a copy has performed, and those it has begun (R73, R87). -/
  did   : List Nat
  prog  : List RunProg
  /-- The first failure's status, and whether a copy's stamp is due (R93, R268). -/
  status : Nat
  done  : Bool
  deriving DecidableEq, Repr

/-- A global store (R76): withheld, or released and not performed. -/
structure GStore where
  loc   : Loc
  data  : List Byte
  cls   : Nat
  scope : Nat
  rel   : Bool
  pol   : BitVec 2
  va    : W64
  /-- The access it is a piece of (R87; a number of the model's own). -/
  op    : Nat
  part  : Nat
  task  : W64
  asid  : Nat
  seq   : Nat
  /-- Fences that hold later accesses until this store performs: the class mask, and the number from which a store counts
  as later (R78). -/
  before : List (BitVec 16 × Nat)
  /-- A fence of scope 2 or wider invalidates the core's L1 once this store has performed (R78). -/
  inval : Bool
  /-- Its data are poisoned: they come from a poisoned register, or the store buffer holds them poisoned (R327, R331). -/
  bad : Bool
  deriving DecidableEq, Repr

/-- What a partition withholds until its interval commits, in program order (R76, R83). -/
inductive Deferred where
  | store (x : GStore)
  | cmd (c : Cmd)
  deriving DecidableEq, Repr

/-- One line of the undo journal: its place in the reservation and what it held (R126). -/
structure JLine where
  line : Nat
  old  : LineImg
  poisoned : Bool
  /-- What of `Resident.took` lies in the line. -/
  took : List Nat
  /-- The journal itself holds the line poisoned (R327, R331, R332). -/
  bad  : Bool
  deriving DecidableEq, Repr

/-- A remapped accumulator tile: what the old physical tile holds, with its poisoned rows (R127, R331). -/
structure Remap where
  tile : Nat
  old  : AccTile
  undef : List (Nat × Nat)
  poison : List Nat
  deriving DecidableEq, Repr

/-- The failure that put a partition into rerun mode, for its log record (R345): kind, island, core, partition, Chart index, cycle of
detection and the record's last word. -/
structure Cause where
  kind : Nat
  island : Nat
  core : Nat
  part : Nat
  idx  : Nat
  cyc  : Nat
  last : Nat
  deriving DecidableEq, Repr

/-- Rerun mode (R336, R337): the run in progress and what run 1 left. -/
structure Rerun where
  run : Nat
  c1  : Nat
  i1  : W64
  o1  : W64
  cause : Cause
  /-- Run 2 has passed its comparison, and its closing datum has yet to commit (R337). -/
  passed : Bool
  deriving DecidableEq, Repr

/-- Balances and latches of a partition (R305, R308, R310). -/
structure Bal where
  bgi  : Int
  bgm  : Int
  exh  : Bool
  gl   : Bool
  grace : Nat
  /-- Isobar's charges (R367). -/
  use  : KMap Nat
  /-- Entries of the store buffer, which the bundle's own commands follow. -/
  sb   : Nat
  deriving DecidableEq, Repr

/-- A partition (R113). -/
structure Part where
  /-- TASKID of the task it runs; none when free. -/
  task : Option W64
  regs : Regs
  /-- The duplicate register set (R124 step 4). -/
  dup  : Regs
  flight : List Flight
  pend : List Pend
  /-- Earliest cycle of the next bundle (R115), of the next V0, V1 and A operation (R121, R243). -/
  next : Nat
  v0   : Nat
  v1   : Nat
  aNext : Nat
  bgi  : Int
  bgm  : Int
  exh  : Bool
  gl   : Bool
  grace : Nat
  /-- The balances before the bundle in issue, which an ILLEGAL bundle leaves (R305). -/
  bal0 : Bal
  /-- The balances the bundle in issue has been debited to, before its operations: a trap of it leaves these (R180, R305). -/
  bal1 : Bal
  /-- Store buffer, undo journal, remap list and the rings and buffers as the datum left them (R113, R126 to R128). -/
  sb   : List Deferred
  /-- Store-buffer entries the interval has taken (R130). -/
  sbn  : Nat
  journal : List JLine
  remaps : List Remap
  ringsD : KMap Ring
  statD : Stat
  mxq  : List MxCmd
  tq   : List TileOp
  rsq  : List RingRead
  aq   : List AOp
  /-- An mxwait holds the next bundle (R240). -/
  waitAll : Bool
  seq  : Nat
  /-- Bundles issued since the last datum (R130). -/
  nb   : Nat
  /-- Pending stop requests (R321) and the cycle of the earliest (R134). -/
  preempt : Bool
  relocate : Option Nat
  /-- A `yield` waits for its stop; `yieldD` when the interval that holds it has committed (R311). -/
  yielding : Bool
  yieldD : Bool
  stopAt : Option Nat
  /-- The pending stop takes effect at the datum in progress (R134, R185, R261). -/
  stopHere : Bool
  /-- A pending stop was raised with no loop active (R134). -/
  stopAny : Bool
  /-- Rollbacks so far (the model's own: an attempt that finds the number changed gives up). -/
  rb : Nat
  /-- A register bank whose evacuation waits for the next datum: the Chart index retired and its spare (R42). -/
  bank : Option (Nat × Nat)
  rerun : Option Rerun
  sus  : Bool
  /-- What the run of a rerun pair has read and written so far, by place in program order (R337). -/
  trIn : KMap (List W64)
  trOut : KMap (List W64)
  /-- Faults not yet served: a comparison with the Vane copy that fails (R328), and a fault in the V or A slot that the residue of
  the next result shows (R330). -/
  vane : Bool
  residue : Bool
  /-- Where the Vane copy of the control state differs: the copy of the register holds the partition's value plus this (R329). -/
  vdiff : List (CtlReg × W64)
  /-- Poisoned registers, and poisoned registers of the duplicate set (R331). -/
  rpoison : List RegBank
  dpoison : List RegBank
  /-- A restore has met poison in the partition's own state: the address its POISON names (R332). -/
  ownBad : Option Nat
  /-- The M operation that makes the bundle in issue a datum has performed, after every check of the interval (R125). -/
  sealed : Bool
  /-- Granules whose poison an access has consumed, by space code and address: read again once (R332). -/
  reread : List (Nat × Nat)
  /-- The bundle in issue: its address, its length (0 between bundles) and cycle, and whether a datum is due at the boundary
  that follows (R115, R125, R133). -/
  issA : W64
  issLen : Nat
  issT : Nat
  /-- Free values drawn when the bundle issued: its guards read one choice for each predicate (R116; the model's own). -/
  ix : Nat
  datumAfter : Bool
  /-- The loops as the control operation in issue leaves them, in force from the next bundle on (R115, R116). -/
  loopsNext : Option (List Loop)
  /-- The M operation of a datum bundle that waits for the bundle's other operations (R125). -/
  held : Option (Slot × Instr)
  /-- The partition runs the commit of an exit, halt or tret (R303, R304, R320). -/
  exiting : Option Nat
  /-- The task has committed no datum since its last restore (R136). -/
  lastRestore : Bool
  deriving DecidableEq, Repr

/-- A valid entry of a translation window table (R12). -/
structure WEnt where
  vbase : Nat
  pbase : Nat
  size  : Nat
  rd    : Bool
  wr    : Bool
  x     : Bool
  pol   : BitVec 2
  sn    : Bool
  tgt   : Nat
  sup   : Bool
  deriving DecidableEq, Repr

/-- A table generation (R17, R18): the entries Meridian read when it checked the table, and whether it is bad (R13). -/
structure Gen where
  asid : Nat
  gen  : Nat
  ents : List WEnt
  bad  : Bool
  deriving DecidableEq, Repr

/-- A handle entry (R35). `resv` marks a number reserved at issue (R278, R279); the owner is kept whole. -/
structure Handle where
  state : Nat
  peer  : Nat
  peerh : Nat
  nrows : Nat
  baserow : Nat
  owner : W64
  ownp  : Nat
  resv  : Bool
  deriving DecidableEq, Repr

/-- An output of the drain buffer: fp32, or the exact integer n * 2^e of a checksum output (R197). -/
inductive DVal where
  | f (x : W32)
  | z (n e : Int)
  deriving DecidableEq, Repr

/-- A product whose drain buffer is full and whose check has not run (R225, R237). -/
structure Drain where
  part : Nat
  d    : List DVal
  /-- A product overflowed (R197). -/
  ovf  : Bool
  deriving DecidableEq, Repr

/-- An evacuation in progress (R40, R41): the retired entry, its replacement and the cursor. -/
structure Evac where
  idx : Nat
  spare : Nat
  cursor : Nat
  /-- A fold or removal copy of R43 step 4 rather than a copy to a spare. -/
  fold : Bool
  /-- The logical index that the retired entry served (R41). -/
  logical : Nat
  deriving DecidableEq, Repr

/-- A line of L1 or of the instruction cache: of host memory when `host`, its way, and what it holds (R24, R30, R33). -/
structure CLine where
  host : Bool
  line : Nat
  way  : Nat
  data : Line
  deriving DecidableEq, Repr

/-- A line of a slice of the memory-side cache: its way, what HBM4 still holds when the line is dirty, and whether it is queued
for early write-back (R31, R32). What the line holds is what its home answers, `State.mem`. -/
structure MLine where
  line  : Nat
  way   : Nat
  back  : Option Line
  early : Bool
  deriving DecidableEq, Repr

/-- A core. -/
structure Core where
  /-- L1 (R30) and the instruction cache (R33), most recently used first. -/
  l1   : List CLine
  ic   : List CLine
  /-- Lines that a prefetch has asked a home outside the package for (R262). -/
  pf   : List Loc
  /-- Window slots: ASID and generation (R18). -/
  slots : List (Nat × Nat)
  handles : KMap Handle
  /-- CHKCNT (R242). -/
  rerun : Nat
  recomp : Nat
  corr : Nat
  /-- Matrix engine: partition served last, the buffer in the array, the product being drained (R223 to R225). -/
  rr   : Nat
  array : Option (Nat × Bool)
  drain : Option Drain
  /-- Bit flips that strike the next product (R327; SOFT_ERROR). -/
  flips : List (Nat × Nat × Nat)
  accepting : Bool
  halted : Bool
  quar : Bool
  evac : Option Evac
  /-- Retirements that wait for the evacuation in progress, oldest first (R40). -/
  waiting : List Nat
  /-- The reservations await compaction and the fold copy, for the Chart index retired and the logical index it served (R43). -/
  compact : Option (Nat × Nat)
  /-- Partitions taken out of service by a self-test (R339), and a matrix engine found unusable (R29). -/
  partsOut : BitVec 4
  mxOut : Bool
  deriving DecidableEq, Repr

/-- A Chart entry (R38). -/
structure ChartEnt where
  state : Nat
  logical : Nat
  errs : Nat
  cursor : Nat
  /-- Cycles of the last errors counted, newest first, as many as R340 looks at. -/
  recent : List Nat
  deriving DecidableEq, Repr

/-- A collective entry (R96, R273, R276). -/
structure Entry where
  rst : Nat
  sst : Nat
  flag : Bool
  dup : Bool
  sat : Bool
  asid : Option Nat
  task : W64
  desc : Option ArmDesc
  /-- Pages pinned by the two sides (R19). -/
  rpins : List (Bool × Nat)
  spins : List (Bool × Nat)
  bitmap : BitVec 64
  count : Nat
  armedAt : Nat
  /-- Lines combined so far of each peer, and peers already sent to (R99, R98). -/
  lines : List (Nat × Nat)
  sent : Nat
  sendStatus : Nat
  /-- The last vjoin before the command that armed or fired it (R23; the model's own). -/
  vj : Nat
  /-- Rereads of the source image (R334), and a disarm that waits for SENT (R277). -/
  tries : Nat
  dying : Bool
  /-- The contribution to the next peer, of this package, has been combined, and that peer's completion is to come (R100, R268; the model's
  own). -/
  half : Bool
  /-- The tile is ready, and its result and stamp, outside the package, are to be written (R100, R268; the model's own). -/
  owed : Bool
  deriving DecidableEq, Repr

/-- A shadowed line (R104): what it held, the arena that keeps it, and whether another agent has written that arena, which
leaves the shadow undefined (R374). -/
structure Shadow where
  line : Nat
  old  : LineImg
  poison : Bool
  aid  : Nat
  bad  : Bool
  deriving DecidableEq, Repr

/-- A snapshot number (R103 to R109, R281 to R283): 0 free, 1 reserved, 2 open, 3 closing. -/
structure Snap where
  state : Nat
  asid : Nat
  parent : Option Nat
  level : Nat
  range : List (Nat × Nat)
  arena : List (Nat × Nat)
  alines : Nat
  /-- A number of its own for its arena (the model's own). -/
  aid : Nat
  shadows : List Shadow
  /-- Lines of quota reserved by commits whose stores have not performed, with the arena (R109), and arenas of closed
  children that hold lines re-tagged to this snapshot (R106). -/
  quota : List (Nat × Nat)
  kept : List (Nat × List (Nat × Nat))
  pins : List (Bool × Nat)
  deriving DecidableEq, Repr

/-- The loaded fields of a task record (R290). -/
structure Rec where
  ver : Nat
  cls : Nat
  prio : Nat
  routine : W64
  sprows : Nat
  sup : Bool
  noreloc : Bool
  snap : Bool
  topup : Bool
  args : W64
  nx : Nat
  ny : Nat
  x0 : Nat
  y0 : Nat
  z0 : Nat
  tsu : Nat
  place : BitVec 8
  count : Nat
  rings : BitVec 16
  tiles : BitVec 64
  bgi : Nat
  bgm : Nat
  wk0 : Nat
  wk1 : Nat
  parts : Nat
  cstamp : W64
  deriving DecidableEq, Repr

/-- A wait of a launch (R292): kind, address or queue, target; met once and for all. -/
structure Wait where
  kind : Nat
  a : W64
  b : W64
  met : Bool
  deriving DecidableEq, Repr

/-- A launch (R293 to R299, R313). -/
structure Launch where
  lid : BitVec 32
  q   : Option Nat
  ticket : Nat
  /-- It has waited longer than the BOUND of its queue (R297). -/
  promoted : Bool
  record : Rec
  asid : Nat
  gen : Nat
  waits : List Wait
  ready : Bool
  readyAt : Nat
  next : Nat
  count : Nat
  trigd : List Nat
  triggered : Bool
  exited : Nat
  poolI : Int
  poolM : Int
  attach : List Byte
  /-- The trapped task a service launch serves (R319). -/
  serves : Option W64
  /-- Partitions reserved for a class-2 launch (R297). -/
  reserved : List Nat
  deriving DecidableEq, Repr

/-- Where a task stands (R112, R322 to R325, R377). -/
inductive TaskSt where
  | running (p : Nat)
  | saved
  | trapped
  /-- Terminated by its trap service; it waits under R303 (R320). -/
  | ending
  deriving DecidableEq, Repr

/-- Meridian's own copy of a saved context, whose block in the pool a service task may change in part (R320, R322). -/
structure Ctx where
  regs : Regs
  exh : Bool
  gl : Bool
  grace : Nat
  rr : Option Cause
  sus : Bool
  deriving DecidableEq, Repr

/-- A task (R111, R112). `core` is where its resident state stands; none when it is in the spill pool (R379). -/
structure Task where
  id   : W64
  lid  : BitVec 32
  idx  : Nat
  st   : TaskSt
  why  : Nat
  core : Option Nat
  res  : Resident
  ctx  : Option Ctx
  /-- Pool address of its context block and the pool units of its image set (R324, R379). -/
  block : Nat
  images : List Nat
  late : List LateFault
  /-- The cause code of its last trap, in Meridian's own copy of the record (R318, R320). -/
  cause : Nat
  /-- The numbers of its last save and of the dispatch that placed it last (R45, R296, R298). -/
  savedAt : Nat
  dispatchedAt : Nat
  deriving DecidableEq, Repr

/-- Meridian's state of a queue (R287, R296, R297, R299). -/
structure QueueSt where
  head : Nat
  tdone : Nat
  cdone : Nat
  deficit : Nat
  /-- The queue's bit of QSUP as it stood when EN was last set (R352). -/
  sup : Bool
  deriving DecidableEq, Repr

/-- A Galtum Link port (R335, R358 to R363). -/
structure Port where
  up : Bool
  training : Bool
  ver : Nat
  paused : BitVec 16
  /-- Flits in the replay buffer, and failed replays in a row of the oldest of them (R335, R360). -/
  replay : Nat
  fails : Nat
  resend : Nat
  /-- Failed replays in a row of a flit received (R335). -/
  rfails : Nat
  /-- Requests received and not performed, by lane, oldest first, and the lanes this package has paused (R359). -/
  held : KMap (List (Nat × RemoteReq))
  pausing : BitVec 16
  deriving DecidableEq, Repr

/-- What the package sends over Galtum Link: PAUSE and RESUME for a lane of a port (R359), NAK (R360), a request to the home of an
access in another package (R16), and a line of a contribution to an entry of another package (R98). -/
inductive LinkMsg where
  | pause (port lane : Nat)
  | resume (port lane : Nat)
  | nak (port : Nat)
  | req (port pkg : Nat) (r : RemoteReq)
  | col (port pkg sd entry : Nat) (c : ContribLine)
  deriving DecidableEq, Repr

/-- A completion the package sends to a host requester (R348). -/
structure Cpl where
  rq : Nat
  status : Nat
  data : List Byte
  deriving DecidableEq, Repr

/-- What the package answers or tells another one: a response under the requester's number, or a wake message for a line (R260, R359). -/
inductive PeerMsg where
  | rsp (c : Cpl)
  | wake (pkg line : Nat)
  deriving DecidableEq, Repr

/-- The host register space (R352) but for what the other fields hold. -/
structure HostRegs where
  featoff : List W64
  featacc : List W64
  lock : Bool
  spill : W64
  quiesce : W64
  logq : W64
  htrapq : W64
  intctl : W64
  intcause : W64
  pinq : W64
  poolq : W64
  htsel : W64
  podid : Nat
  qsup : KMap W64
  wbase : KMap W64
  traph : KMap W64
  trapv : KMap W64
  qctl : KMap W64
  qring : KMap W64
  qblk : KMap W64
  errc : KMap (Nat × Nat × Nat)
  deriving DecidableEq, Repr

/-- Isobar's window (R367): units and bytes debited to each island, the reserve in picojoules, the issue rate. -/
structure Isobar where
  use : KMap Nat
  reserve : Int
  rate : Nat
  /-- Windows planned since reset. -/
  windows : Nat
  deriving DecidableEq, Repr

/-- The state of one package. -/
structure State where
  /-- Free values drawn so far (the model's own; assumption 1). -/
  fresh : Nat
  /-- The answer in hand of a home outside the package, while an RSP or BHP_CPL is served (the model's own; assumption 21). -/
  ans : Option Answer
  /-- The order in which the hardware's agents and the outside act (the model's own; assumption 2). -/
  agenda : List Instr
  /-- The partition that issues when nothing else is due (the model's own; assumption 2). -/
  focus : Nat
  /-- Steps taken without an agenda (the model's own; assumption 2). -/
  turn : Nat
  /-- Operations of the bundle in issue that have not executed (the model's own; assumption 3). -/
  slots : List (Slot × Instr)
  /-- CYC (R187). -/
  cyc : Nat
  /-- HBM4 of the pod by 52-bit pod address, and host memory (R15, R16). -/
  mem : Store
  hostMem : Store
  /-- The slices of the memory-side cache by cluster, each most recently used first (R31). -/
  msc : KMap (List MLine)
  /-- Pin counts by 256 KiB page of HBM4 and of host memory (R19). -/
  pins : KMap Nat
  hostPins : KMap Nat
  regs : HostRegs
  gens : List Gen
  parts : KMap Part
  cores : KMap Core
  /-- The Chart by 324 * core + index, a cluster's class-7 entries under its first core (R38, R284). -/
  chart : KMap ChartEnt
  launches : List Launch
  tasks : List Task
  queues : KMap QueueSt
  /-- Round-robin pointer of each level (R296), the last LAUNCH number (R187), 16 KiB units of the spill pool in use
  (R324, R379), quiesces since reset (R304). -/
  levelPtr : KMap Nat
  lastLid : Nat
  poolUsed : List Nat
  quiesces : Nat
  /-- Released stores and engine commands in release order (R83), and the count that numbers them. -/
  released : List GStore
  cmds : List Cmd
  rseq : Nat
  /-- Dispatches and saves made so far: what orders tasks by their last dispatch or save (R45, R296, R298). -/
  dseq : Nat
  /-- Collective units: entries by 2,048 * stack domain + entry; STRAY of each unit (R96, R276). -/
  entries : KMap Entry
  stray : KMap Nat
  snaps : KMap Snap
  ports : KMap Port
  /-- Other packages that can be reached (R361, R362). -/
  pod : List Nat
  ucie : BitVec 4
  bhp : Nat
  hatom : Bool
  /-- What the package has sent to the host: completions and interrupt vectors, newest first (R348, R354). -/
  cpls : List Cpl
  ints : List Nat
  /-- What the package has sent to other packages: messages; responses under the requester's package number, and wake messages as
  (package, line), newest first; and the monitors other packages hold here (R16, R260, R359). -/
  lmsgs : List LinkMsg
  rsps : List Cpl
  wakes : List (Nat × Nat)
  rmons : List (Nat × Nat)
  /-- Requests to homes in other packages that a paused lane or a full or retraining port holds back, oldest first (R359, R360). -/
  outbox : List (Loc × RemoteReq)
  /-- Responses and wake messages that a full or retraining port holds back, oldest first (R360). -/
  peerq : List PeerMsg
  /-- The port that carries a destination and lane, by 4,096 * package + lane; contributions of an entry count as lane 16 + entry,
  responses and wake messages as lane 3,072
  (R86, R360). -/
  routes : KMap Nat
  /-- Pages of other packages whose home has said that their pin count is at 65,535 (R19). -/
  farFull : List Nat
  isobar : Isobar
  /-- Measurement register and the last attestation report (R370, R371). -/
  measure : BitVec 512
  report : List Byte
  /-- Sideband code of a bring-up that failed; 0 when it succeeded (R369). -/
  sideband : Nat
  /-- Stacks that failed training (R369 step 4). -/
  absent : BitVec 8
  deriving DecidableEq, Repr

/-- Why the machine stops with a fault. No meaning of this model does: the SV9 reports every error as a trap, a stamp, a
completion or a log record, each a next state. -/
inductive Fault where
  /-- Raised by nothing; kept so that the type names what a stop would be. -/
  | stuck
  deriving DecidableEq, Repr

/-- Why an instruction has no meaning. -/
inductive Refusal where
  /-- The instruction of that mnemonic is not modelled yet. Safe: the machine stops by name. -/
  | notModelled (mnemonic : String)
  deriving DecidableEq, Repr

/-- A register file of zeros with the latch's dispatch value (R227, R295). -/
def Regs.zero : Regs :=
  { s := List.replicate 32 0, p := 1, v := List.replicate 32 (List.replicate 1024 0)
    m := BitVec.allOnes 1024 :: List.replicate 7 0, lc0 := 0, lc1 := 0, loops := [], pc := 0
    fa := 1, fb := 1, w := false, fmtq := [], mxstat := 0, cont := 0, cm := false, parkedPc := 0
    parked := [], mon := none, vj := 0, acq := [] }

/-- No stationary buffer (R224). -/
def Stat.empty : Stat := ⟨none, none, none, false⟩

/-- A free partition (its registers: assumption 6). -/
def Part.free : Part :=
  { task := none, regs := Regs.zero, dup := Regs.zero, flight := [], pend := [], next := 0, v0 := 0, v1 := 0
    aNext := 0, bgi := 0, bgm := 0, exh := false, gl := false, grace := 0
    bal0 := ⟨0, 0, false, false, 0, [], 0⟩, bal1 := ⟨0, 0, false, false, 0, [], 0⟩, sb := [], sbn := 0, journal := []
    remaps := [], ringsD := [], statD := Stat.empty, mxq := [], tq := [], rsq := [], aq := [], waitAll := false, seq := 0, nb := 0
    preempt := false, relocate := none, yielding := false, yieldD := false, stopAt := none, stopHere := false, stopAny := false
    rb := 0, bank := none, rerun := none
    sus := false, trIn := [], trOut := [], vane := false, residue := false, vdiff := [], rpoison := [], dpoison := []
    ownBad := none, sealed := false, reread := []
    issA := 0, issLen := 0, issT := 0, ix := 0, datumAfter := false, loopsNext := none, held := none, exiting := none
    lastRestore := false }

/-- A core with nothing resident. -/
def Core.idle : Core :=
  { l1 := [], ic := [], pf := [], slots := [], handles := [], rerun := 0, recomp := 0, corr := 0, rr := 3
    array := none, drain := none, flips := [], accepting := true, halted := false, quar := false
    evac := none, waiting := [], compact := none, partsOut := 0, mxOut := false }

/-- The feature words the part offers (R158, R364). -/
def offered : List W64 := [0xFF, 3, 0, 0]

/-- A table of Chart entries as numbers, for its digest (R370, R371). -/
def chartNums (m : KMap ChartEnt) : List (List Nat) := m.map fun e => [e.1, e.2.state, e.2.logical, e.2.errs, e.2.cursor]

/-- The measurement register once the first n of the five items of R370 have been measured. -/
def measuredOf (n : Nat) (m : KMap ChartEnt) : BitVec 512 :=
  ([Config.romItem 0, Config.romItem 1, Config.romItem 2, Config.digestBytes (Config.shake256 (Config.chartBytes (chartNums m))),
    offered.flatMap fun w => (List.range 8).map fun k => w.extractLsb' (8 * k) 8].take n).foldl
    (fun x item => Config.shake256 (Config.digestBytes x ++ item)) 0

/-- The measurement register once bring-up has measured the five items of R370. -/
def measured (m : KMap ChartEnt) : BitVec 512 := measuredOf 5 m

/-- The host register space as step 6 of bring-up opens it (R364, R369). -/
def HostRegs.reset : HostRegs :=
  { featoff := offered, featacc := [0, 0, 0, 0], lock := false, spill := 0, quiesce := 0, logq := 0
    htrapq := 0, intctl := 0, intcause := 0, pinq := 0, poolq := 0, htsel := 0, podid := 0, qsup := []
    wbase := [], traph := [], trapv := [], qctl := [], qring := [], qblk := [], errc := [] }

/-- A port that has not trained (R369 step 7). -/
def Port.down : Port := ⟨false, false, 0, 0, 0, 0, 0, 0, [], 0⟩

/-- The package at the end of bring-up step 6 after a reset in mode 0, with a new part's Chart (R44, R369). -/
def State.reset : State :=
  { fresh := 0, ans := none, agenda := [], focus := 0, turn := 0, slots := [], cyc := 0, mem := Store.zero, hostMem := Store.zero, msc := []
    pins := [], hostPins := [], regs := HostRegs.reset, gens := [], parts := [], cores := [], chart := []
    launches := [], tasks := [], queues := [], levelPtr := [], lastLid := 0, poolUsed := [], quiesces := 0
    released := [], cmds := [], rseq := 0, dseq := 0, entries := [], stray := [], snaps := [], ports := [], pod := []
    ucie := 0xF, bhp := 3, hatom := false, cpls := [], ints := []
    lmsgs := [], rsps := [], wakes := [], rmons := [], outbox := [], peerq := [], routes := [], farFull := []
    isobar := ⟨[], 2500000000000, 16, 0⟩, measure := measured [], report := [], sideband := 0, absent := 0 }

end Sys2Proof.Machine
end

