-- ==== Sys2Proof/Machine/Mem.lean ====
section
/-! DEFINITION. Operations over tables, bytes and memories: the canonical list of cells (R5), poison (R331) and undefined
bytes (R8). -/

namespace Sys2Proof.Machine

/-- The entry of a table, or the default. -/
def KMap.get {α : Type} (d : α) : KMap α → Nat → α
  | [], _ => d
  | (k', x) :: m, k => if k' = k then x else if k < k' then d else KMap.get d m k

/-- The table with an entry written, keys rising. -/
def KMap.set {α : Type} : KMap α → Nat → α → KMap α
  | [], k, x => [(k, x)]
  | (k', y) :: m, k, x =>
    if k' = k then (k, x) :: m
    else if k < k' then (k, x) :: (k', y) :: m
    else (k', y) :: KMap.set m k x

/-- The table without an entry. -/
def KMap.del {α : Type} (m : KMap α) (k : Nat) : KMap α := m.filter fun e => e.1 != k

/-- The entry of a table, if listed. -/
def KMap.find {α : Type} (m : KMap α) (k : Nat) : Option α := KMap.get none (m.map fun e => (e.1, some e.2)) k

/-- The byte at an address; an unlisted one is 0. -/
def Mem.read (m : Mem) (a : Nat) : Byte := KMap.get 0 m a

/-- The cells of a run of bytes from an address, without the zero bytes. -/
def cellsOf : Nat → List Byte → Mem
  | _, [] => []
  | a, b :: bs => if b = 0 then cellsOf (a + 1) bs else (a, b) :: cellsOf (a + 1) bs

/-- Memory with a run of bytes written from an address. -/
def Mem.writeN (m : Mem) (a : Nat) (bs : List Byte) : Mem :=
  m.filter (fun c => c.1 < a) ++ cellsOf a bs ++ m.filter (fun c => a + bs.length ≤ c.1)

/-- n bytes from an address. -/
def Mem.readN (m : Mem) (a n : Nat) : List Byte := (List.range n).map fun k => Mem.read m (a + k)

/-- The canonical form: addresses strictly rising and no zero byte listed. -/
abbrev Mem.wf (m : Mem) : Prop := m.Pairwise (fun x y => x.1 < y.1) ∧ ∀ c ∈ m, c.2 ≠ 0

/-- A little-endian run of bytes as a number (R5). -/
def leNat : List Byte → Nat
  | [] => 0
  | b :: bs => b.toNat + 256 * leNat bs

/-- The n little-endian bytes of a number (R5). -/
def leBytes : Nat → Nat → List Byte
  | 0, _ => []
  | n + 1, x => BitVec.ofNat 8 x :: leBytes n (x / 256)

/-- Bytes as a word of w bits. -/
def leWord (w : Nat) (bs : List Byte) : BitVec w := BitVec.ofNat w (leNat bs)

/-- The ranges without [lo, hi). -/
def cutRange (lo hi : Nat) : List (Nat × Nat) → List (Nat × Nat)
  | [] => []
  | (a, b) :: rs =>
    (if a < min b lo then [(a, min b lo)] else []) ++
    (if max a hi < b then [(max a hi, b)] else []) ++ cutRange lo hi rs

/-- An address lies in one of the ranges. -/
def inRanges (rs : List (Nat × Nat)) (a : Nat) : Bool := rs.any fun r => r.1 ≤ a && a < r.2

/-- [lo, hi) meets one of the ranges. -/
def meetsRanges (rs : List (Nat × Nat)) (lo hi : Nat) : Bool := rs.any fun r => r.1 < hi && lo < r.2

/-- The lines that [a, a + n) touches. -/
def linesOf (a n : Nat) : List Nat :=
  if n = 0 then [] else (List.range ((a + n - 1) / 128 - a / 128 + 1)).map fun k => a / 128 + k

/-- n bytes of a memory; a byte marked undefined is a free value of its own for each read `fr` and address (R8). -/
def Store.readN (st : Store) (fr a n : Nat) : List Byte :=
  if st.undef.isEmpty then Mem.readN st.cells a n
  else (List.range n).map fun k =>
    if inRanges st.undef (a + k) then Config.freeCell fr (a + k) else Mem.read st.cells (a + k)

/-- A line of a memory as one number. -/
def Store.line (st : Store) (fr l : Nat) : Line := leWord 1024 (st.readN fr (128 * l) 128)

/-- A line that [a, a + n) touches is poisoned (R331). -/
def Store.poisoned (st : Store) (a n : Nat) : Bool :=
  !st.poison.isEmpty && (linesOf a n).any fun l => st.poison.contains l

/-- The first poisoned line that [a, a + n) touches. -/
def Store.firstPoison (st : Store) (a n : Nat) : Option Nat := (linesOf a n).find? fun l => st.poison.contains l

/-- Bytes written: they become defined, and the poison of each line wholly written is cleared (R331). -/
def Store.writeN (st : Store) (a : Nat) (bs : List Byte) : Store :=
  { cells := Mem.writeN st.cells a bs
    poison := st.poison.filter fun l => !(a ≤ 128 * l && 128 * l + 128 ≤ a + bs.length)
    undef := cutRange a (a + bs.length) st.undef }

/-- Bytes made undefined (R8). -/
def Store.undefine (st : Store) (a n : Nat) : Store := { st with undef := st.undef ++ [(a, a + n)] }

/-- A line marked poisoned (R331). -/
def Store.addPoison (st : Store) (l : Nat) : Store :=
  { st with poison := if st.poison.contains l then st.poison else l :: st.poison }

/-- A line as it stands, with what of it is undefined (R8). -/
def Store.image (st : Store) (fr l : Nat) : LineImg :=
  ⟨st.line fr l, st.undef.filterMap fun r =>
    if max r.1 (128 * l) < min r.2 (128 * l + 128) then some (max r.1 (128 * l) - 128 * l, min r.2 (128 * l + 128) - 128 * l) else none⟩

/-- The bytes of a line from offset o. -/
def lineBytes (x : Line) (o n : Nat) : List Byte := (List.range n).map fun k => x.extractLsb' (8 * (o + k)) 8

/-- A line with bytes replaced from offset o. -/
def lineSet (x : Line) (o : Nat) (bs : List Byte) : Line :=
  leWord 1024 ((lineBytes x 0 o) ++ bs ++ lineBytes x (o + bs.length) (128 - o - bs.length))

/-- A line as it stood put back: what was undefined is so again (R8). -/
def Store.putImage (st : Store) (l : Nat) (x : LineImg) : Store :=
  x.undef.foldl (fun st r => st.undefine (128 * l + r.1) (r.2 - r.1)) (st.writeN (128 * l) (lineBytes x.data 0 128))

/-- Bytes replaced in a line that is kept. -/
def LineImg.set (x : LineImg) (o : Nat) (bs : List Byte) : LineImg :=
  ⟨lineSet x.data o bs, cutRange o (o + bs.length) x.undef⟩

/-- A line that is kept, as a read finds it: its undefined bytes are free values (R8). -/
def LineImg.read (x : LineImg) (fr at_ : Nat) : Line :=
  if x.undef.isEmpty then x.data
  else leWord 1024 ((List.range 128).map fun k =>
    if inRanges x.undef k then Config.freeCell fr (at_ + k) else x.data.extractLsb' (8 * k) 8)

/-- A line's poison mark set as given. -/
def Store.setPoison (st : Store) (l : Nat) (b : Bool) : Store :=
  if b then st.addPoison l else { st with poison := st.poison.filter fun x => x != l }

/-- An element of a list, or the default. -/
def nth {α : Type} (d : α) (l : List α) (n : Nat) : α := l.getD n d

/-- A vector register from its elements by index (R207). -/
def Vec.build (f : Nat → W32) : Vec := (List.range 1024).map f

/-- Element e of a vector register. -/
def Vec.el (v : Vec) (e : Nat) : W32 := nth 0 v e

/-- The 4,096-byte image of a vector register (R207). -/
def Vec.bytes (v : Vec) : List Byte := v.flatMap fun x => leBytes 4 x.toNat

/-- Words of n bytes each, as many as k, from a run of bytes. -/
def wordsOf (n : Nat) : Nat → List Byte → List Nat
  | 0, _ => []
  | k + 1, bs => leNat (bs.take n) :: wordsOf n k (bs.drop n)

/-- A vector register from its image (R207). -/
def Vec.ofBytes (bs : List Byte) : Vec := (wordsOf 4 1024 bs).map fun x => BitVec.ofNat 32 x

end Sys2Proof.Machine
end

