-- ==== Sys2Proof/Machine/Entries.lean ====
section
/-! DEFINITION. The entries of the Chart, by class and index (R24, R38, R284). -/

namespace Sys2Proof.Machine

/-- The class of a Chart index (R284). -/
def chartClass (i : Nat) : Nat :=
  if i < 36 then 0 else if i < 70 then 1 else if i < 87 then 2 else if i < 167 then 3
  else if i < 235 then 4 else if i < 300 then 5 else if i < 308 then 6 else 7

/-- The first Chart index of a class and how many it has (R284). -/
def classSpan (c : Nat) : Nat × Nat :=
  match c with
  | 0 => (0, 36) | 1 => (36, 34) | 2 => (70, 17) | 3 => (87, 80)
  | 4 => (167, 68) | 5 => (235, 65) | 6 => (300, 8) | _ => (308, 16)

/-- The partition of a class-0 index (R38); 0 for the others. -/
def chartPart (i : Nat) : Nat := if i < 36 then i / 9 else 0

/-- The physical index of a Chart index within its class, and partition (R284). -/
def chartPhys (i : Nat) : Nat := if i < 36 then i % 9 else i - (classSpan (chartClass i)).1

/-- Logical resources of a class (R24, R284). -/
def logicalCount (c : Nat) : Nat :=
  match c with
  | 0 => 8 | 1 => 32 | 2 => 16 | 3 => 0 | 4 => 64 | 5 => 64 | 6 => 8 | _ => 16

/-- The entry of a new part: every resource good, the last of a class its spares (R24, R44). -/
def newEntry (i : Nat) : ChartEnt :=
  { state := 0, logical := if chartPhys i < logicalCount (chartClass i) then chartPhys i else 0x7F
    errs := 0, cursor := 0, recent := [] }

/-- The place of an entry: a cluster's class-7 entries are one set (R38). -/
def chartKey (core i : Nat) : Nat := if 308 ≤ i then 324 * (core / 8 * 8) + i else 324 * core + i

/-- Entry i of the Chart of a core (R38). -/
def State.chartAt (s : State) (core i : Nat) : ChartEnt := KMap.get (newEntry i) s.chart (chartKey core i)

/-- A Chart entry changed. -/
def State.setChart (s : State) (core i : Nat) (f : ChartEnt → ChartEnt) : State :=
  { s with chart := KMap.set s.chart (chartKey core i) (f (s.chartAt core i)) }

end Sys2Proof.Machine
end

