-- ==== Sys2Proof/Machine/Num.lean ====
section
/-! DEFINITION. Element formats and the arithmetic rules of the SV9 (spec/03 R47 to R54, spec/09 R190 to R206): every
result is computed exactly on dyadic numbers and rounded where a rule names a rounding. -/

namespace Sys2Proof.Machine

/-- The floating formats of R48. -/
inductive FloatFmt where
  | fp32 | bf16 | fp16 | e4m3 | e5m2 | e2m1
  deriving DecidableEq, Repr

/-- Rounding modes by their 2-bit code: 0 rn, 1 rz, 2 ru, 3 rd (R190). -/
inductive RMode where
  | rn | rz | ru | rd
  deriving DecidableEq, Repr

/-- The mode a 2-bit field names (R190). -/
def RMode.of (m : BitVec 2) : RMode :=
  match m.toNat with
  | 0 => .rn
  | 1 => .rz
  | 2 => .ru
  | _ => .rd

/-- Width W of R48. -/
def FloatFmt.width : FloatFmt → Nat
  | .fp32 => 32 | .bf16 => 16 | .fp16 => 16 | .e4m3 => 8 | .e5m2 => 8 | .e2m1 => 4

/-- Fraction width M of R48. -/
def FloatFmt.man : FloatFmt → Nat
  | .fp32 => 23 | .bf16 => 7 | .fp16 => 10 | .e4m3 => 3 | .e5m2 => 2 | .e2m1 => 1

/-- Exponent width E of R48. -/
def FloatFmt.exp (f : FloatFmt) : Nat := f.width - 1 - f.man

/-- Bias of R48. -/
def FloatFmt.bias : FloatFmt → Nat
  | .fp32 => 127 | .bf16 => 127 | .fp16 => 15 | .e4m3 => 7 | .e5m2 => 15 | .e2m1 => 1

/-- The format has infinities (R48). -/
def FloatFmt.hasInf : FloatFmt → Bool
  | .e4m3 | .e2m1 => false
  | _ => true

/-- Encoding of the largest finite magnitude (R48). -/
def FloatFmt.maxEnc : FloatFmt → Nat
  | .fp32 => 0x7F7FFFFF | .bf16 => 0x7F7F | .fp16 => 0x7BFF | .e4m3 => 0x7E | .e5m2 => 0x7B | .e2m1 => 7

/-- Canonical NaN (R48, R50); E2M1 has none and takes +0 (R193). -/
def FloatFmt.nanEnc : FloatFmt → Nat
  | .fp32 => 0x7FC00000 | .bf16 => 0x7FC0 | .fp16 => 0x7E00 | .e4m3 => 0x7F | .e5m2 => 0x7E | .e2m1 => 0

/-- Encoding of +infinity, in a format that has one (R48). -/
def FloatFmt.infEnc (f : FloatFmt) : Nat := (2 ^ f.exp - 1) * 2 ^ f.man

/-- The exponent of the smallest normal (R48). -/
def FloatFmt.emin (f : FloatFmt) : Int := 1 - (f.bias : Int)

/-- A value of a floating format: NaN, an infinity, or (-1)^neg * m * 2^e, with a signed zero. -/
inductive FV where
  | nan
  | inf (neg : Bool)
  | fin (neg : Bool) (m : Nat) (e : Int)
  deriving DecidableEq, Repr

/-- An exact dyadic number n * 2^e. -/
structure Dy where
  n : Int
  e : Int
  deriving DecidableEq, Repr

/-- 2^k for a non-negative integer k, else 1. -/
def pow2 (k : Int) : Nat := 2 ^ k.toNat

/-- The numerator of a dyadic over 2^e, for e no larger than its own exponent. -/
def Dy.num (a : Dy) (e : Int) : Int := a.n * (pow2 (a.e - e) : Nat)

/-- Exact sum. -/
def Dy.add (a b : Dy) : Dy :=
  let e := min a.e b.e
  ⟨a.num e + b.num e, e⟩

/-- Exact difference. -/
def Dy.sub (a b : Dy) : Dy := a.add ⟨-b.n, b.e⟩

/-- Exact product. -/
def Dy.mul (a b : Dy) : Dy := ⟨a.n * b.n, a.e + b.e⟩

/-- Magnitude. -/
def Dy.abs (a : Dy) : Dy := ⟨(a.n.natAbs : Int), a.e⟩

/-- Order of the values. -/
def Dy.le (a b : Dy) : Bool :=
  let e := min a.e b.e
  decide (a.num e ≤ b.num e)

/-- Strict order of the values. -/
def Dy.lt (a b : Dy) : Bool := !b.le a

/-- Exact sum of a list. -/
def Dy.sum (l : List Dy) : Dy :=
  let e := l.foldl (fun m d => min m d.e) 0
  ⟨l.foldl (fun t d => t + d.num e) 0, e⟩

/-- The dyadic of a finite value; 0 for the others. -/
def FV.dy : FV → Dy
  | .fin neg m e => ⟨if neg then -(m : Int) else m, e⟩
  | _ => ⟨0, 0⟩

/-- A dyadic as a value, zero as +0. -/
def FV.ofDy (d : Dy) : FV := .fin (decide (d.n < 0)) d.n.natAbs d.e

/-- An integer as a value, zero as +0. -/
def FV.ofInt (n : Int) : FV := .fin (decide (n < 0)) n.natAbs 0

def FV.isNan : FV → Bool
  | .nan => true
  | _ => false

def FV.isInf : FV → Bool
  | .inf _ => true
  | _ => false

def FV.isFin : FV → Bool
  | .fin .. => true
  | _ => false

/-- The sign bit of a value; NaN has none. -/
def FV.neg? : FV → Bool
  | .nan => false
  | .inf n => n
  | .fin n _ _ => n

/-- A value with its sign inverted. -/
def FV.neg : FV → FV
  | .nan => .nan
  | .inf n => .inf (!n)
  | .fin n m e => .fin (!n) m e

/-- A value with its sign cleared. -/
def FV.abs : FV → FV
  | .nan => .nan
  | .inf _ => .inf false
  | .fin _ m e => .fin false m e

/-- A value is zero. -/
def FV.isZero : FV → Bool
  | .fin _ 0 _ => true
  | _ => false

/-- fpvalue of R49: the value of an encoding. -/
def fpvalue (f : FloatFmt) (x : Nat) : FV :=
  let s := x.testBit (f.width - 1)
  let e := (x >>> f.man) % 2 ^ f.exp
  let m := x % 2 ^ f.man
  if f.hasInf && e = 2 ^ f.exp - 1 && m ≠ 0 then .nan
  else if f = .e4m3 && e = 15 && m = 7 then .nan
  else if f.hasInf && e = 2 ^ f.exp - 1 then .inf s
  else if e = 0 then .fin s m (1 - (f.bias : Int) - f.man)
  else .fin s (2 ^ f.man + m) ((e : Int) - f.bias - f.man)

/-- The magnitude m * 2^e of a value of sign `neg` made an integer by the mode (R190). -/
def roundMag (mode : RMode) (neg : Bool) (m : Nat) (e : Int) : Nat :=
  if 0 ≤ e then m * pow2 e
  else
    let d := pow2 (-e)
    let q := m / d
    let r := m % d
    match mode with
    | .rn => if 2 * r > d || (2 * r = d && q % 2 = 1) then q + 1 else q
    | .rz => q
    | .ru => if r ≠ 0 && !neg then q + 1 else q
    | .rd => if r ≠ 0 && neg then q + 1 else q

/-- floor(log2 (m * 2^e)) for m > 0. -/
def floorLog2 (m : Nat) (e : Int) : Int := (Nat.log2 m : Int) + e

/-- The sign bit of a format. -/
def FloatFmt.signEnc (f : FloatFmt) (neg : Bool) : Nat := if neg then 2 ^ (f.width - 1) else 0

/-- The `overflow` table of R190. -/
def overflowEnc (f : FloatFmt) (mode : RMode) (neg sat : Bool) : Nat :=
  let maxf := f.signEnc neg + f.maxEnc
  let big := if f.hasInf then f.signEnc neg + f.infEnc else f.nanEnc
  if sat || f = .e2m1 then maxf
  else
    match mode with
    | .rn => big
    | .rz => maxf
    | .ru => if neg then maxf else big
    | .rd => if neg then big else maxf

/-- An encoding and whether the finite value rounded to it lay beyond the largest finite value. -/
structure Rounded where
  enc : Nat
  ovf : Bool

/-- `round` of R190 on a finite value; `sat` selects the saturating form. -/
def roundFin (f : FloatFmt) (mode : RMode) (sat neg : Bool) (m : Nat) (e : Int) : Rounded :=
  if m = 0 then ⟨f.signEnc neg, false⟩
  else
    let ee := max (floorLog2 m e) f.emin
    let q := ee - f.man
    let n := roundMag mode neg m (e - q)
    let mx := fpvalue f f.maxEnc
    if mx.dy.lt ⟨(n : Int), q⟩ then ⟨overflowEnc f mode neg sat, true⟩
    else if n = 0 then ⟨f.signEnc neg, false⟩
    else if n < 2 ^ f.man then ⟨f.signEnc neg + n, false⟩
    else
      let n' := if n = 2 ^ (f.man + 1) then 2 ^ f.man else n
      let q' := if n = 2 ^ (f.man + 1) then q + 1 else q
      ⟨f.signEnc neg + ((q' + f.man + f.bias).toNat * 2 ^ f.man + (n' - 2 ^ f.man)), false⟩

/-- A value rounded to a format: R190 for a finite one, R193 for NaN and the infinities. -/
def roundTo (f : FloatFmt) (mode : RMode) (sat : Bool) (v : FV) : Rounded :=
  match v with
  | .nan => ⟨f.nanEnc, false⟩
  | .inf neg =>
    if sat then ⟨f.signEnc neg + f.maxEnc, false⟩
    else if f.hasInf then ⟨f.signEnc neg + f.infEnc, false⟩
    else ⟨overflowEnc f .rn neg false, false⟩
  | .fin neg m e => roundFin f mode sat neg m e

/-- rne of a value into a format, as an encoding. -/
def rne (f : FloatFmt) (v : FV) : Nat := (roundTo f .rn false v).enc

/-- rne32 as a value. -/
def rne32v (v : FV) : FV := fpvalue .fp32 (rne .fp32 v)

/-- rne32 as a 32-bit pattern. -/
def rne32 (v : FV) : W32 := BitVec.ofNat 32 (rne .fp32 v)

/-- The value of an fp32 pattern. -/
def f32 (x : W32) : FV := fpvalue .fp32 x.toNat

/-- Exact product (R191, R192). -/
def FV.mul (a b : FV) : FV :=
  match a, b with
  | .nan, _ => .nan
  | _, .nan => .nan
  | .inf s, .inf t => .inf (s != t)
  | .inf s, .fin t m _ => if m = 0 then .nan else .inf (s != t)
  | .fin s m _, .inf t => if m = 0 then .nan else .inf (s != t)
  | .fin s m e, .fin t n g => .fin (s != t) (m * n) (e + g)

/-- Exact sum of terms with the zero sign of R191 and the NaN and infinity rules of R192. -/
def FV.sum (l : List FV) : FV :=
  if l.any FV.isNan then .nan
  else
    let pos := l.any fun v => v == FV.inf false
    let ng := l.any fun v => v == FV.inf true
    if pos && ng then .nan
    else if pos then .inf false
    else if ng then .inf true
    else
      let d := Dy.sum (l.map FV.dy)
      if d.n = 0 then .fin (!l.isEmpty && l.all FV.neg?) 0 0 else FV.ofDy d

/-- Exact sum of two values. -/
def FV.add (a b : FV) : FV := FV.sum [a, b]

/-- Order of two values that are not NaN: −∞ < finite < +∞. -/
def FV.lt (a b : FV) : Bool :=
  match a, b with
  | .nan, _ => false
  | _, .nan => false
  | .inf s, .inf t => s && !t
  | .inf s, _ => s
  | _, .inf t => !t
  | a, b => a.dy.lt b.dy

/-- The order minimum and maximum use, with −0 below +0 (R192). -/
def FV.ltz (a b : FV) : Bool :=
  a.lt b || (a.isZero && b.isZero && a.neg? && !b.neg?)

/-- Minimum (R192). -/
def FV.min (a b : FV) : FV := if a.isNan || b.isNan then .nan else if b.ltz a then b else a

/-- Maximum (R192). -/
def FV.max (a b : FV) : FV := if a.isNan || b.isNan then .nan else if a.ltz b then b else a

/-- The eight floating conditions in sfcmp's order (R177). -/
def fcond (c : Nat) (a b : FV) : Bool :=
  let un := a.isNan || b.isNan
  match c with
  | 0 => !un && !a.lt b && !b.lt a
  | 1 => un || a.lt b || b.lt a
  | 2 => !un && a.lt b
  | 3 => !un && !b.lt a
  | 4 => !un && b.lt a
  | 5 => !un && !a.lt b
  | 6 => un
  | _ => !un

/-- The low w bits of an integer. -/
def wrapNat (w : Nat) (n : Int) : Nat := (n % (2 ^ w : Nat)).toNat

/-- A w-bit pattern read as two's complement (R52). -/
def sintOf (w x : Nat) : Int := if x.testBit (w - 1) then (x : Int) - (2 ^ w : Nat) else x

/-- An integer format: width and signedness (R52). -/
structure IntFmt where
  w : Nat
  signed : Bool
  deriving DecidableEq, Repr

/-- A pattern read in the format. -/
def IntFmt.read (f : IntFmt) (x : Nat) : Int := if f.signed then sintOf f.w x else x

/-- The smallest value of the format (R52). -/
def IntFmt.lo (f : IntFmt) : Int := if f.signed then -(2 ^ (f.w - 1) : Nat) else 0

/-- The largest value of the format (R52). -/
def IntFmt.hi (f : IntFmt) : Int := if f.signed then (2 ^ (f.w - 1) : Nat) - 1 else (2 ^ f.w : Nat) - 1

/-- The value made an integer by the mode (R190). -/
def roundInt (mode : RMode) (neg : Bool) (m : Nat) (e : Int) : Int :=
  if neg then -(roundMag mode neg m e : Int) else roundMag mode neg m e

/-- Conversion of a floating value to an integer format (R194), as a w-bit pattern. -/
def toInt (f : IntFmt) (mode : RMode) (sat : Bool) (v : FV) : Nat :=
  match v with
  | .nan => if sat then 0 else 2 ^ (f.w - 1)
  | .inf neg => if sat then wrapNat f.w (if neg then f.lo else f.hi) else 2 ^ (f.w - 1)
  | .fin neg m e =>
    let n := roundInt mode neg m e
    if f.lo ≤ n && n ≤ f.hi then wrapNat f.w n
    else if sat then wrapNat f.w (if n < f.lo then f.lo else f.hi)
    else 2 ^ (f.w - 1)

/-- Conversion of an integer to an integer format (R195). -/
def intToInt (f : IntFmt) (sat : Bool) (n : Int) : Nat :=
  if sat then wrapNat f.w (max f.lo (min f.hi n)) else wrapNat f.w n

/-- A format a conversion names: floating or integer. -/
inductive AnyFmt where
  | fl (f : FloatFmt)
  | int (f : IntFmt)
  deriving DecidableEq, Repr

/-- The width of a format. -/
def AnyFmt.width : AnyFmt → Nat
  | .fl f => f.width
  | .int f => f.w

/-- The format of a code of R47; an MX code stands for its element format (R54). -/
def fmtOf (c : BitVec 4) : AnyFmt :=
  match c.toNat with
  | 0 => .fl .fp32
  | 1 => .fl .bf16
  | 2 => .fl .fp16
  | 3 => .fl .e4m3
  | 4 => .fl .e5m2
  | 5 => .fl .e2m1
  | 6 => .fl .e4m3
  | 7 => .fl .e5m2
  | 8 => .fl .e2m1
  | 9 => .int ⟨8, true⟩
  | 10 => .int ⟨8, false⟩
  | 11 => .int ⟨16, true⟩
  | 12 => .int ⟨16, false⟩
  | 13 => .int ⟨32, true⟩
  | _ => .int ⟨32, false⟩

/-- Conversion between any two formats (R193 to R195). -/
def convert (src dst : AnyFmt) (mode : RMode) (sat : Bool) (x : Nat) : Nat :=
  match src, dst with
  | .fl a, .fl b => (roundTo b mode sat (fpvalue a x)).enc
  | .fl a, .int b => toInt b mode sat (fpvalue a x)
  | .int a, .fl b => (roundTo b mode sat (FV.ofInt (a.read x))).enc
  | .int a, .int b => intToInt b sat (a.read x)

/-- The value of an element encoding in any format. -/
def AnyFmt.value (f : AnyFmt) (x : Nat) : FV :=
  match f with
  | .fl a => fpvalue a x
  | .int a => FV.ofInt (a.read x)

/-- mxvalue of R54: the dequantised value of an element under a scale. -/
def mxvalue (sc : Byte) (f : AnyFmt) (x : Nat) : FV :=
  if sc = 0xFF then .nan
  else
    match f.value x with
    | .fin s m e => .fin s m (e + (sc.toNat : Int) - 127)
    | v => v

/-- The value of an element of a tile of format code `c` under a block scale (R49, R52, R54). -/
def elemValue (c : BitVec 4) (sc : Byte) (x : Nat) : FV :=
  if c = 6 || c = 7 || c = 8 then mxvalue sc (fmtOf c) x else (fmtOf c).value x

/-- emaxF of R196. -/
def emaxF : FloatFmt → Int
  | .e2m1 => 2
  | .e4m3 => 8
  | _ => 15

/-- A quantised block: scale, elements, and whether SAT is set (R196). -/
structure MxBlock where
  sc : Byte
  el : List Nat
  sat : Bool

/-- The larger magnitude of two finite values. -/
def maxMag (a b : Dy) : Dy := if a.le b then b else a

/-- Quantising of one block (R196). -/
def quantBlock (f : FloatFmt) (xs : List FV) : MxBlock :=
  if xs.any fun v => !v.isFin then ⟨0xFF, xs.map fun _ => 0, xs.any FV.isInf⟩
  else
    let amax := (xs.map fun v => v.dy.abs).foldl maxMag ⟨0, 0⟩
    if amax.n = 0 then ⟨0, xs.map fun v => f.signEnc v.neg?, false⟩
    else
      let sc := max (-127) (min 127 (floorLog2 amax.n.natAbs amax.e - emaxF f))
      let rs := xs.map fun v =>
        match v with
        | .fin s m e => roundFin f .rn true s m (e - sc)
        | _ => ⟨0, false⟩
      ⟨BitVec.ofInt 8 (sc + 127), rs.map Rounded.enc, rs.any Rounded.ovf⟩

/-- rnd32 of R55. -/
def rnd32 (terms : List FV) : W32 := rne32 (FV.sum terms)

/-- The product of 64 terms (R197) before rounding: the special value, or the exact S * 2^(E-60). -/
def dotExact (a b : List FV) : FV :=
  let p := List.zipWith FV.mul a b
  let pos := p.any fun v => v == FV.inf false
  let ng := p.any fun v => v == FV.inf true
  if p.any FV.isNan || (pos && ng) then .nan
  else if pos then .inf false
  else if ng then .inf true
  else if p.all FV.isZero then .fin (p.all FV.neg?) 0 0
  else
    let nz := p.filterMap fun v =>
      match v with
      | .fin _ 0 _ => none
      | .fin s m e => some (s, m, e)
      | _ => none
    let top := nz.foldl (fun t x => max t (floorLog2 x.2.1 x.2.2))
      (match nz with | [] => 0 | x :: _ => floorLog2 x.2.1 x.2.2)
    let s := nz.foldl (fun (t : Int) x => t + roundInt .rd x.1 x.2.1 (x.2.2 + 60 - top)) 0
    if s = 0 then .fin false 0 0 else FV.ofDy ⟨s, top - 60⟩

/-- One level of the tree of R199: neighbours combined in pairs. -/
def pairUp {α : Type} (op : α → α → α) : List α → List α
  | a :: b :: l => op a b :: pairUp op l
  | l => l

/-- The tree of R199 on 2^k inputs. -/
def tree {α : Type} (op : α → α → α) : Nat → List α → List α
  | 0, l => l
  | k + 1, l => tree op k (pairUp op l)

/-- fma of R200 to R202, on values. -/
def fmaV (a b c : FV) : FV := rne32v (FV.add (a.mul b) c)

/-- fmul of R200 to R202. -/
def fmulV (a b : FV) : FV := rne32v (a.mul b)

/-- fadd of R200 to R202. -/
def faddV (a b : FV) : FV := rne32v (a.add b)

/-- An fp32 constant by its encoding. -/
def k32 (x : Nat) : FV := fpvalue .fp32 x

/-- Scaling by a power of two, exact. -/
def FV.scale (v : FV) (k : Int) : FV :=
  match v with
  | .fin s m e => .fin s m (e + k)
  | v => v

/-- Repetition of a step. -/
def iter {α : Type} (f : α → α) : Nat → α → α
  | 0, x => x
  | n + 1, x => iter f n (f x)

/-- vrcp (R200), as a value. -/
def rcpV (x : FV) : FV :=
  match x with
  | .nan => .nan
  | .inf s => .fin s 0 0
  | .fin s 0 _ => .inf s
  | .fin s m e =>
    let k := floorLog2 m e
    let mm : FV := .fin false m (e - k)
    let y0 := fmaV (k32 0x3FF0F0F1).neg mm (k32 0x4034B4B5)
    let y := iter (fun y => fmaV y (fmaV mm.neg y (k32 0x3F800000)) y) 3 y0
    let r := y.scale (-k)
    rne32v (if s then r.neg else r)

/-- vrsq (R201), as a value. -/
def rsqV (x : FV) : FV :=
  match x with
  | .nan => .nan
  | .fin s 0 _ => .inf s
  | .inf s => if s then .nan else .fin false 0 0
  | .fin true _ _ => .nan
  | .fin false m e =>
    let k0 := floorLog2 m e
    let k := if k0 % 2 = 0 then k0 else k0 - 1
    let mm : FV := .fin false m (e - k)
    let hm := mm.scale (-1)
    let y0 := fmaV (k32 0xBE19999A) mm (k32 0x3F99999A)
    let y := iter (fun y => fmulV y (fmaV hm.neg (fmulV y y) (k32 0x3FC00000))) 5 y0
    rne32v (y.scale (-(k / 2)))

/-- vexp2 (R202), as a value. -/
def exp2V (x : FV) : FV :=
  match x with
  | .nan => .nan
  | .inf s => if s then .fin false 0 0 else .inf false
  | .fin s m e =>
    if !x.lt (.fin false 128 0) then .inf false
    else if x.lt (.fin true 160 0) then .fin false 0 0
    else
      let n := roundInt .rn s m e
      let f := FV.ofDy (x.dy.sub ⟨n, 0⟩)
      let p := [0x3AAEC3FF, 0x3C1D955B, 0x3D635847, 0x3E75FDF0, 0x3F317218].foldl
        (fun p c => fmaV p f (k32 c)) (k32 0x392185F0)
      rne32v ((fmaV p f (k32 0x3F800000)).scale n)

/-- vlog2 (R202), as a value. -/
def log2V (x : FV) : FV :=
  match x with
  | .nan => .nan
  | .fin _ 0 _ => .inf true
  | .inf s => if s then .nan else .inf false
  | .fin true _ _ => .nan
  | .fin false m e =>
    let k0 := floorLog2 m e
    let m0 : FV := .fin false m (e - k0)
    let big := (k32 0x3FB504F3).lt m0
    let mm := if big then m0.scale (-1) else m0
    let k := if big then k0 + 1 else k0
    let t := fmulV (mm.add (.fin true 1 0)) (rcpV (faddV mm (k32 0x3F800000)))
    let u := fmulV t t
    let q := [0x3ED30B31, 0x3F13BB63, 0x3F76384F, 0x4038AA3B].foldl
      (fun q c => fmaV q u (k32 c)) (k32 0x3EA4258A)
    faddV (FV.ofInt k) (fmulV q t)

/-- A fixed-point accumulate element (R64). -/
structure Fixed where
  val : Int
  tag : Nat
  sat : Bool
  deriving DecidableEq, Repr

/-- An element from its 16 bytes read as one number (R64). -/
def Fixed.ofBits (x : BitVec 128) : Fixed :=
  ⟨(x.extractLsb' 0 96).toInt, (x.extractLsb' 96 2).toNat, x.getLsbD 98⟩

/-- The 16 bytes of an element as one number (R64); reserved bits are zero. -/
def Fixed.bits (f : Fixed) : BitVec 128 :=
  (0#29 ++ BitVec.ofBool f.sat ++ BitVec.ofNat 2 f.tag ++ BitVec.ofInt 96 f.val : BitVec 128)

/-- The armed element (R64, R96). -/
def Fixed.armed : Fixed := ⟨0, 0, false⟩

/-- The tag of an addend and its place on the grid of anchor A (R203). -/
def onGrid (anchor : Int) (v : FV) : Nat × Int :=
  match v with
  | .nan => (3, 0)
  | .inf s => (if s then 2 else 1, 0)
  | .fin s m e => (0, roundInt .rn s m (e + 64 - anchor))

/-- combine of R203. -/
def combineTag (a b : Nat) : Nat :=
  if a = 3 || b = 3 then 3 else if a = 0 then b else if b = 0 then a else if a = b then a else 3

/-- A sum saturated to the range of VAL (R203). -/
def satVal (n : Int) : Int × Bool :=
  if n > 2 ^ 95 - 1 then (2 ^ 95 - 1, true) else if n < -2 ^ 95 then (-2 ^ 95, true) else (n, false)

/-- Addition of an addend to an element (R203). -/
def Fixed.sum (f : Fixed) (anchor : Int) (v : FV) : Fixed :=
  let (tag, g) := onGrid anchor v
  if tag = 0 then
    let (x, o) := satVal (f.val + g)
    ⟨x, combineTag f.tag tag, f.sat || o⟩
  else ⟨f.val, combineTag f.tag tag, f.sat⟩

/-- Rank of a tag in the order −∞ < finite < +∞ (R204). -/
def tagRank (t : Nat) : Nat := if t = 2 then 0 else if t = 0 then 1 else 2

/-- Maximum or minimum of an element and an addend; `first` takes the first arrival whole (R204). An arrival with no finite part
leaves VAL at the value that changes no later one, since arrivals in any order leave one value (R99; assumption 65). -/
def Fixed.extreme (f : Fixed) (isMax first : Bool) (anchor : Int) (v : FV) : Fixed :=
  let (tag, g0) := onGrid anchor v
  let (g, o) := satVal g0
  let sat := f.sat || (tag = 0 && o)
  let void : Int := if isMax then -2 ^ 95 else 2 ^ 95 - 1
  if first then ⟨if tag = 0 then g else void, tag, sat⟩
  else
    let val := if tag ≠ 0 then f.val else if isMax then max f.val g else min f.val g
    let t := if f.tag = 3 || tag = 3 then 3
      else if isMax then (if tagRank f.tag < tagRank tag then tag else f.tag)
      else (if tagRank tag < tagRank f.tag then tag else f.tag)
    ⟨val, t, sat⟩

/-- Read-out of an element to fp32 and whether a finite value overflowed (R205). -/
def Fixed.readout (f : Fixed) (anchor : Int) : W32 × Bool :=
  match f.tag with
  | 1 => (BitVec.ofNat 32 FloatFmt.fp32.infEnc, false)
  | 2 => (BitVec.ofNat 32 (FloatFmt.fp32.signEnc true + FloatFmt.fp32.infEnc), false)
  | 3 => (BitVec.ofNat 32 FloatFmt.fp32.nanEnc, false)
  | _ =>
    let r := roundTo .fp32 .rn false (FV.ofDy ⟨f.val, anchor - 64⟩)
    (BitVec.ofNat 32 r.enc, r.ovf)

/-- The exponent t of the tolerance 2^-t of a format (R206); none for the integer formats, whose test is equality. -/
def tolerance (c : BitVec 4) : Option Nat :=
  match c.toNat with
  | 0 | 1 | 2 => some 17
  | 3 | 4 | 6 | 7 => some 18
  | 8 => some 19
  | _ => none

/-- The pass test of R206 on exact values, with tolerance 2^-t, or equality. -/
def passTest (tol : Option Nat) (cs : List Dy) (chk : Dy) : Bool :=
  let d := ((Dy.sum cs).sub chk).abs
  match tol with
  | none => d.n = 0
  | some t =>
    let scale (x : Dy) : Dy := ⟨x.n, x.e - t⟩
    d.le (((scale (Dy.sum (cs.map Dy.abs))).add (scale chk.abs)).add ⟨1, -126⟩)

end Sys2Proof.Machine
end

