-- ==== Sys2Proof/Machine/Ops.lean ====
section
/-! DEFINITION. The named operations over the state: partitions, cores and tasks; register reads and writes at issue
(R114 to R119); translation (R10 to R18); reads and writes at a home with L1 and snapshot shadows (R68 to R73, R104,
R109); log records and interrupts (R344, R354); saving and restoring a context (R322); rollback (R129); taking a trap
(R316) and the return from one (R320). -/

namespace Sys2Proof.Machine

/-- What a step or a meaning answers. -/
abbrev Out := Host.Outcome State Fault Refusal

/-- The low n bits of a number from bit lo. -/
def bitsAt (x lo n : Nat) : Nat := (x >>> lo) % 2 ^ n

/-! ### Partitions, cores, tasks and launches -/

/-- Partition p (R113). -/
def State.part (s : State) (p : Nat) : Part := KMap.get Part.free s.parts p

/-- Partition p changed. -/
def State.updPart (s : State) (p : Nat) (f : Part → Part) : State :=
  { s with parts := KMap.set s.parts p (f (s.part p)) }

/-- The partition in issue. -/
def State.me (s : State) : Part := s.part s.focus

/-- The partition in issue changed. -/
def State.updMe (s : State) (f : Part → Part) : State := s.updPart s.focus f

/-- Core c. -/
def State.core (s : State) (c : Nat) : Core := KMap.get Core.idle s.cores c

/-- Core c changed. -/
def State.updCore (s : State) (c : Nat) (f : Core → Core) : State :=
  { s with cores := KMap.set s.cores c (f (s.core c)) }

/-- The core of partition p (R187). -/
def coreOf (p : Nat) : Nat := p / 4

/-- The cluster of core c (R187). -/
def clusterOf (c : Nat) : Nat := c / 8

/-- The stack domain of core c (R187). -/
def stackOf (c : Nat) : Nat := c / 48

/-- The task of a TASKID that has not exited. -/
def State.task (s : State) (id : W64) : Option Task := s.tasks.find? fun t => t.id == id

/-- A task changed. -/
def State.updTask (s : State) (id : W64) (f : Task → Task) : State :=
  { s with tasks := s.tasks.map fun t => if t.id == id then f t else t }

/-- The task that partition p runs. -/
def State.taskOn (s : State) (p : Nat) : Option Task := (s.part p).task.bind s.task

/-- The launch of a number. -/
def State.launch (s : State) (lid : BitVec 32) : Option Launch := s.launches.find? fun l => l.lid == lid

/-- A launch changed. -/
def State.updLaunch (s : State) (lid : BitVec 32) (f : Launch → Launch) : State :=
  { s with launches := s.launches.map fun l => if l.lid == lid then f l else l }

/-- The launch of the task on partition p. -/
def State.launchOn (s : State) (p : Nat) : Option Launch := (s.taskOn p).bind fun t => s.launch t.lid

/-- A resident state of nothing. -/
def Resident.none : Resident :=
  { rows := 0, units := 0, rmask := 0, tmask := 0, sp := Store.zero, views := [], took := [], rings := [], tiles := [], tundef := []
    tpoison := []
    stat := Stat.empty, row0 := 0, unit0 := 0 }

/-- The resident state of the task on partition p. -/
def State.res (s : State) (p : Nat) : Resident :=
  match s.taskOn p with
  | some t => t.res
  | none => Resident.none

/-- The resident state of the task on partition p changed. -/
def State.updRes (s : State) (p : Nat) (f : Resident → Resident) : State :=
  match (s.part p).task with
  | some id => s.updTask id fun t => { t with res := f t.res }
  | none => s

/-- The task on partition p carries SUPERVISOR (R290). -/
def State.isSup (s : State) (p : Nat) : Bool :=
  match s.launchOn p with
  | some l => l.record.sup
  | none => false

/-- The address space of the task on partition p (R11). -/
def State.asidOn (s : State) (p : Nat) : Nat :=
  match s.launchOn p with
  | some l => l.asid
  | none => 0

/-- The features accepted: FEAT0 (R158, R353). -/
def State.feat0 (s : State) : W64 := nth 0 s.regs.featacc 0

/-- What decode needs to know of the task on partition p. -/
def State.decEnv (s : State) (p : Nat) : DecEnv :=
  match s.launchOn p with
  | some l => ⟨s.feat0, l.record.sup, l.record.snap, l.record.topup, false⟩
  | none => ⟨s.feat0, false, false, false, false⟩

/-- Draw a fresh block of free values. -/
def State.draw (s : State) : State := { s with fresh := s.fresh + 1 }

/-! ### Loops and registers -/

/-- The iterations a loop may start: all N, or those started when loopx or a stop ended it (R131, R134, R183). -/
def Loop.limit (l : Loop) : Nat :=
  match l.ns with
  | some n => n
  | none =>
    match l.stopNs with
    | some n => n
    | none => l.n

/-- The last pass of a loop (R131, R183). -/
def Loop.lastPass (l : Loop) : Nat := l.limit + l.stages - 2

/-- Stage predicate p(8+k) in the loop's pass (R131). -/
def Loop.stage (l : Loop) (k : Nat) : Bool := k < l.stages && k ≤ l.pass && l.pass - k < l.limit

/-- The loop counter during a pass (R131). -/
def Loop.counter (l : Loop) : W64 := BitVec.ofInt 64 ((l.n : Int) - l.pass)

/-- Iterations that have started when the loop ends in its pass (R184). -/
def Loop.started (l : Loop) : Nat := min l.limit (l.pass + 1)

/-- The predicate file as it reads: p0 true, p8 to p15 of the innermost loop, false outside loops (R114, R131, R132). -/
def Regs.pred (r : Regs) (n : Nat) : Bool :=
  if n = 0 then true
  else if n < 8 then r.p.getLsbD n
  else
    match r.loops.getLast? with
    | some l => l.stage (n - 8)
    | none => false

/-- LC0 or LC1 (R131, R184). -/
def Regs.lc (r : Regs) (k : Nat) : W64 :=
  match r.loops[k]? with
  | some l => l.counter
  | none => if k = 0 then r.lc0 else r.lc1

/-- LC0 or LC1 as a loop that ends leaves it. -/
def Regs.setLc (r : Regs) (k : Nat) (x : W64) : Regs := if k = 0 then { r with lc0 := x } else { r with lc1 := x }

/-- The innermost loop ends: its counter is N minus the iterations started (R184). -/
def Regs.endLoop (r : Regs) : Regs :=
  match r.loops.getLast? with
  | none => r
  | some l =>
    let r' := r.setLc (r.loops.length - 1) (BitVec.ofInt 64 ((l.n : Int) - l.started))
    { r' with loops := r.loops.dropLast }

/-- Every active loop ends at once (R179). -/
def Regs.endLoops (r : Regs) : Regs := (r.endLoop).endLoop

/-- A register of the file changed. -/
def setNth {α : Type} (l : List α) (n : Nat) (x : α) : List α := l.set n x

/-- A landed result. -/
def Regs.apply (r : Regs) : Write → Regs
  | .s d x => { r with s := setNth r.s d x }
  | .p d b => { r with p := if b then r.p ||| BitVec.twoPow 16 d else r.p &&& ~~~(BitVec.twoPow 16 d) }
  | .v d x => { r with v := setNth r.v d x }
  | .m d x => { r with m := setNth r.m d x }
  | .sat => { r with mxstat := r.mxstat ||| 1 }
  | .quant => r
  | .sysOld _ _ => r

/-- The register a result goes to. -/
def Write.reg? : Write → Option Reg
  | .s d _ => some (.s d)
  | .p d _ => some (.p d)
  | .v d _ => some (.v d)
  | .m d _ => some (.m d)
  | .sat => none
  | .quant => none
  | .sysOld _ _ => none

/-- An in-flight result of the register. -/
def Flight.hits (f : Flight) (r : Reg) : Bool := f.wr.reg? == some r

/-- The granule of the register file that a result overwrites (R331). -/
def Write.bank? : Write → Option RegBank
  | .s d _ => some (.ctl (.s d))
  | .p d _ => some (.ctl (.p d))
  | .v d _ => some (.v d)
  | .m d _ => some (.m d)
  | .sat => none
  | .quant => none
  | .sysOld _ _ => none

/-- Results due by cycle t land, in program order (R118, R119); a register written anew is poisoned no longer (R331), and stands in both
copies (R329). -/
def Part.land (P : Part) (t : Nat) : Part :=
  { P with
    regs := (P.flight.filter fun f => f.due ≤ t).foldl (fun r f => r.apply f.wr) P.regs
    flight := P.flight.filter fun f => t < f.due
    vdiff := P.vdiff.filter fun d => !P.flight.any fun f => f.due ≤ t && f.wr.bank? == some (.ctl d.1)
    rpoison := P.rpoison.filter fun r => !P.flight.any fun f => f.due ≤ t && f.wr.bank? == some r }

/-- A control register is written outside the in-flight results: in both copies (R329), and it is poisoned no longer (R331). -/
def Part.wrote (P : Part) (r : CtlReg) : Part :=
  { P with vdiff := P.vdiff.filter fun d => d.1 ≠ r, rpoison := P.rpoison.filter fun x => x ≠ .ctl r }

/-- The latest cycle at which an in-flight result lands. -/
def Part.lastDue (P : Part) (t : Nat) : Nat := P.flight.foldl (fun m f => max m f.due) t

/-- A result issued with bound L: its window closes no earlier than one already open on its register (R118, R119). -/
def Part.issue (P : Part) (w : Write) (L : Nat) : Part :=
  let prior := P.flight.foldl (fun m f => if f.wr.reg?.isSome && f.wr.reg? == w.reg? then max m f.due else m) 0
  { P with flight := P.flight ++ [⟨w, P.issT, max (P.issT + L) prior⟩] }

/-- The register's window, opened by an earlier bundle, is open at the cycle of issue (R116, R118). -/
def Part.inWindow (P : Part) (r : Reg) : Bool :=
  P.flight.any fun f => f.hits r && f.iss < P.issT && P.issT < f.due

/-- The index of the free value an operand k in its window reads. -/
def State.freeIx (s : State) (k : Nat) : Nat := s.fresh * 65536 + 32768 + k

/-- Scalar register r as operand k of the operation in issue (R114, R116, R118). -/
def State.rdS (s : State) (k : Nat) (r : BitVec 5) : W64 :=
  if r = 0 then 0
  else if s.me.inWindow (.s r.toNat) then Config.freeBits (s.freeIx k) 64
  else nth 0 s.me.regs.s r.toNat

/-- Predicate n as operand k (R114, R116, R118). -/
def State.rdP (s : State) (k n : Nat) : Bool :=
  if 1 ≤ n && n ≤ 7 && s.me.inWindow (.p n) then Config.freeChoice (s.freeIx k)
  else s.me.regs.pred n

/-- A vector value as its 1,024 elements (R207). -/
def Vec.fit (x : Vec) : Vec := (x ++ List.replicate 1024 0).take 1024

/-- Vector register n as operand k (R208). -/
def State.rdV (s : State) (k n : Nat) : Vec :=
  if s.me.inWindow (.v n) then Vec.build fun e => Config.freeBits (s.freeIx (1024 * (k + 1) + e)) 32
  else Vec.fit (nth [] s.me.regs.v n)

/-- Mask n as operand k (R114, R208). -/
def State.rdM (s : State) (k n : Nat) : Mask :=
  if n = 0 then BitVec.allOnes 1024
  else if s.me.inWindow (.m n) then Config.freeBits (s.freeIx k) 1024
  else nth 0 s.me.regs.m n

/-- Predicate n as the guards of the bundle in issue read it: in its window one free choice for the whole bundle (R116, R118). -/
def State.guardP (s : State) (n : Nat) : Bool :=
  if 1 ≤ n && n ≤ 7 && s.me.inWindow (.p n) then Config.freeChoice (s.me.ix * 65536 + 32768 + 64 + n)
  else s.me.regs.pred n

/-- The guard holds (R116, R142). -/
def State.guardOk (s : State) (g : BitVec 5) : Bool :=
  s.guardP (g.extractLsb' 0 4).toNat != g.getLsbD 4

/-- An operation under its guard: a false one suppresses it entirely (R116). -/
def guarded (g : BitVec 5) (s : State) (f : State → State) : Out :=
  .next (if s.guardOk g then f s else s)

/-- Scalar result x of register d with bound L; s0 discards it (R114, R118). -/
def State.putS (s : State) (d : BitVec 5) (x : W64) (L : Nat) : State :=
  if d = 0 then s else s.updMe fun P => P.issue (.s d.toNat x) L

/-- Predicate result (R118). -/
def State.putP (s : State) (d : BitVec 5) (b : Bool) (L : Nat) : State :=
  s.updMe fun P => P.issue (.p d.toNat b) L

/-- Vector result (R118). -/
def State.putV (s : State) (d : Nat) (x : Vec) (L : Nat) : State :=
  s.updMe fun P => P.issue (.v d x) L

/-- Mask result (R118). -/
def State.putM (s : State) (d : Nat) (x : Mask) (L : Nat) : State :=
  s.updMe fun P => P.issue (.m d x) L

/-- An interlocked scalar result (R120): it stands from the next bundle on; s0 discards it. -/
def State.landS (s : State) (d : BitVec 5) (x : W64) : State := s.putS d x 0

/-- A pending stop is served at the next datum of any kind: it was raised with no loop active, or no loop is active now (R134). -/
def Part.stopOpen (P : Part) : Bool := P.stopAt.isSome && (P.stopAny || P.regs.loops.isEmpty)

/-- A stop request is raised at cycle t: the innermost loop starts no iteration from its next pass on (R134, R308, R321). -/
def Part.raiseStop (P : Part) (t : Nat) : Part :=
  let hold : List Loop → List Loop
    | [] => []
    | ls => ls.dropLast ++ ls.getLast?.toList.map fun l =>
        if l.ns.isSome || l.stopNs.isSome then l else { l with stopNs := some l.started }
  { P with stopAt := some (match P.stopAt with | some u => u | none => t)
           stopAny := P.stopAny || P.regs.loops.isEmpty
           regs := { P.regs with loops := if P.stopAt.isSome then P.regs.loops else hold P.regs.loops } }

/-! ### Host registers, islands, interrupts, log -/

/-- The 52-bit pod address of a local physical address of this package (R15, R16). -/
def State.own (s : State) (a : Nat) : Nat := s.regs.podid * 2 ^ 42 + a

/-- A pod address lies in this package's HBM4. -/
def State.isOwn (s : State) (a : Nat) : Bool := a / 2 ^ 42 = s.regs.podid

/-- An interrupt cause: its bit is set, and rising while enabled it sends INT (R354). -/
def State.raise (s : State) (bit : Nat) : State :=
  let was := s.regs.intcause.getLsbD bit
  let s := { s with regs := { s.regs with intcause := s.regs.intcause ||| BitVec.twoPow 64 bit } }
  if !was && s.regs.intctl.getLsbD bit then { s with ints := bit :: s.ints } else s

/-- Error counter of an island: fields DUE, MIS, CE, each saturating (R343). -/
def State.errc (s : State) (i : Nat) : Nat × Nat × Nat := KMap.get (0, 0, 0) s.regs.errc i

/-- Error counters of an island increased (R343). -/
def State.countErr (s : State) (i due mis ce : Nat) : State :=
  let (a, b, c) := s.errc i
  let e := (min 0xFFFF (a + due), min 0xFFFF (b + mis), min 0xFFFFFFFF (c + ce))
  { s with regs := { s.regs with errc := KMap.set s.regs.errc i e } }

/-- The arenas in use of a snapshot, each with its number: its own from the release of its snap on (R374). -/
def Snap.arenas (x : Snap) : List (Nat × List (Nat × Nat)) := if x.arena.isEmpty then x.kept else (x.aid, x.arena) :: x.kept

/-- A write into an arena still in use leaves the shadows it keeps undefined (R374). -/
def State.hitArena (s : State) (a n : Nat) : State :=
  { s with snaps := s.snaps.map fun e =>
      let hit := (e.2.arenas.filter fun r => meetsRanges r.2 a (a + n)).map Prod.fst
      if hit.isEmpty then e
      else (e.1, { e.2 with shadows := e.2.shadows.map fun h => if hit.contains h.aid then { h with bad := true } else h }) }

/-- The bytes of [a, a + n) that lie in an arena in use read undefined (R374). -/
def State.blurArena (s : State) (a n : Nat) : State :=
  let rs := s.snaps.flatMap fun e => e.2.arenas.flatMap Prod.snd
  { s with mem := rs.foldl (fun m r =>
      if max a r.1 < min (a + n) r.2 then m.undefine (max a r.1) (min (a + n) r.2 - max a r.1) else m) s.mem }

/-- The slices of the memory-side cache as a write of n bytes by an agent that names no policy leaves them: a line of this package that
it hits is dirty, and queued for early write-back (R31, R32; assumption 63). -/
def State.mscHit (s : State) (a n : Nat) : KMap (List MLine) :=
  if n = 0 then s.msc
  else s.msc.map fun e => (e.1, e.2.map fun f =>
    if a / 128 ≤ f.line && f.line ≤ (a + n - 1) / 128 then
      { f with back := some (f.back.getD (s.mem.line s.fresh f.line)), early := true }
    else f)

/-- Bytes written to local memory by Meridian or the management controller: context blocks, trap records, log and notice records. No
line of them takes a shadow (R104; assumption 76). To an arena in use they are another agent's (R374). -/
def State.putMem (s : State) (a : Nat) (bs : List Byte) : State :=
  let s := s.hitArena (s.own a) bs.length
  State.blurArena { s with mem := s.mem.writeN (s.own a) bs, msc := s.mscHit (s.own a) bs.length } (s.own a) bs.length

/-- A word of local memory. -/
def State.getMem (s : State) (a n : Nat) : Nat := leNat (s.mem.readN s.fresh (s.own a) n)

/-- A record of 32 bytes into a ring named by a register of LOGQ's format (R344); dropped when the ring is full. Answers
whether it was written. -/
def State.ringWrite (s : State) (reg : W64) (ws : List W64) : State × Bool :=
  let base := (reg.extractLsb' 12 27).toNat * 4096
  let cap := 2 ^ ((reg.extractLsb' 40 4).toNat + 6)
  if !reg.getLsbD 63 || (reg.extractLsb' 40 4).toNat > 9 then (s, false)
  else
    let wr := s.getMem base 8
    let rd := s.getMem (base + 8) 8
    if wr - rd ≥ cap then (s.putMem (base + 16) (leBytes 8 (s.getMem (base + 16) 8 + 1)), false)
    else
      let s := s.putMem (base + 64 + 32 * (wr % cap)) (ws.flatMap fun w => leBytes 8 w.toNat)
      (s.putMem base (leBytes 8 (wr + 1)), true)

/-- A log record (R345): cycle of detection, kind, outcome, island, core, partition, Chart index, physical address, last
word. -/
def State.logAt (s : State) (cyc kind outcome island core part idx addr last : Nat) : State :=
  let w1 := kind * 2 ^ 56 + outcome * 2 ^ 48 + island * 2 ^ 32 + core * 2 ^ 23 + part * 2 ^ 21 + idx * 2 ^ 12
  let (s, ok) := s.ringWrite s.regs.logq [BitVec.ofNat 64 cyc, BitVec.ofNat 64 w1, BitVec.ofNat 64 addr, BitVec.ofNat 64 last]
  if ok && outcome ≥ 3 then s.raise 3 else s

/-- A log record of an event detected now. -/
def State.log (s : State) (kind outcome island core part idx addr last : Nat) : State :=
  s.logAt s.cyc kind outcome island core part idx addr last

/-! ### Translation -/

/-- Bits 63:56 equal bit 55 (R10). -/
def canonical (va : Nat) : Bool := va < 2 ^ 55 || (2 ^ 64 - 2 ^ 55 ≤ va && va < 2 ^ 64)

/-- The window entry as its 128 bits read (R12); none when V = 0. -/
def WEnt.ofBits (x : BitVec 128) : Option WEnt :=
  if !x.getLsbD 50 then none
  else some
    { vbase := (((x.extractLsb' 90 38) ++ (0#18)).signExtend 64).toNat
      pbase := (x.extractLsb' 56 34).toNat * 2 ^ 18
      size := 2 ^ 18 * 2 ^ (x.extractLsb' 51 5).toNat
      rd := x.getLsbD 49, wr := x.getLsbD 48, x := x.getLsbD 47, pol := x.extractLsb' 44 2, sn := x.getLsbD 43
      tgt := (x.extractLsb' 41 2).toNat, sup := x.getLsbD 40 }

/-- Conditions 1, 2, 4, 5 and 6 of R13 on the bits of a valid entry. -/
def entryOk (x : BitVec 128) : Bool :=
  match WEnt.ofBits x with
  | none => true
  | some e =>
    let k := (x.extractLsb' 51 5).toNat
    let local_ := e.pbase % 2 ^ 42
    let fits := local_ + e.size ≤ 2 ^ 39
    k ≤ 16 && x.extractLsb' 0 40 == 0 && (x.extractLsb' 44 3).toNat ≤ 3 && e.tgt ≠ 3 &&
    (x.extractLsb' 90 38).toNat % 2 ^ k = 0 && (x.extractLsb' 56 34).toNat % 2 ^ k = 0 &&
    (e.tgt ≠ 0 || e.pbase + e.size ≤ 2 ^ 39) &&
    (e.tgt ≠ 1 || (e.pbase / 2 ^ 42 < 768 && fits)) &&
    (!e.x || e.tgt = 0) && (!e.sn || (e.tgt = 0 && e.wr))

/-- Condition 3 of R13: no two valid entries overlap. -/
def noOverlap : List WEnt → Bool
  | [] => true
  | e :: es => es.all (fun f => e.vbase + e.size ≤ f.vbase || f.vbase + f.size ≤ e.vbase) && noOverlap es

/-- The generation of a table as Meridian reads and checks it (R13, R17). A bad generation keeps the entries that meet R13 by
themselves: Meridian reaches a queue through them, and no launch is admitted under them (assumption 10). -/
def State.readGen (s : State) (a : Nat) : Gen :=
  let wb := KMap.get 0 s.regs.wbase a
  let tbase := (wb.extractLsb' 14 28).toNat * 2 ^ 14
  let xs := (List.range 1024).map fun i => leWord 128 (s.mem.readN s.fresh (s.own (tbase + 16 * i)) 16)
  let ents := xs.filterMap WEnt.ofBits
  let absent := !wb.getLsbD 63 || tbase + 16384 > 2 ^ 39
  { asid := a, gen := (wb.extractLsb' 48 15).toNat
    ents := if absent then [] else (xs.filter entryOk).filterMap WEnt.ofBits
    bad := absent || !xs.all entryOk || !noOverlap ents }

/-- The loaded generation of an ASID and number. -/
def State.gen? (s : State) (a g : Nat) : Option Gen := s.gens.find? fun x => x.asid = a && x.gen = g

/-- The current generation of an ASID, read and checked once (R13, R17). -/
def State.curGen (s : State) (a : Nat) : Gen × State :=
  let g := ((KMap.get 0 s.regs.wbase a).extractLsb' 48 15).toNat
  match s.gen? a g with
  | some x => (x, s)
  | none =>
    let x := s.readGen a
    (x, { s with gens := x :: s.gens })

/-- What an access asks of the window. -/
structure Acc where
  rd : Bool
  wr : Bool
  x  : Bool
  atomic : Bool
  deriving DecidableEq, Repr

def Acc.load : Acc := ⟨true, false, false, false⟩
def Acc.store : Acc := ⟨false, true, false, false⟩
def Acc.fetch : Acc := ⟨false, false, true, false⟩
def Acc.atom : Acc := ⟨true, true, false, true⟩

/-- A translated access: the place of its first byte and the entry that holds it. -/
structure Xlate where
  loc : Loc
  ent : WEnt

/-- The place a virtual address has under an entry (R14, R16). -/
def WEnt.place (e : WEnt) (podid va : Nat) : Loc :=
  let pa := e.pbase + (va - e.vbase)
  if e.tgt = 2 then .host pa else if e.tgt = 1 then .hbm pa else .hbm (podid * 2 ^ 42 + pa)

/-- The checks of R14 in order of reason, for n bytes from va. An access whose bytes run past 2^64 − 1 has reason 1, as R270 says of
copies (assumption 66). -/
def translate (ents : List WEnt) (podid : Nat) (sup hatom : Bool) (acc : Acc) (va n : Nat) : Except Nat Xlate :=
  if !canonical va || !canonical (va + n - 1) || (va < 2 ^ 55 && 2 ^ 55 ≤ va + n - 1) then .error 1
  else
    match ents.find? fun e => e.vbase ≤ va && va < e.vbase + e.size with
    | none => .error 2
    | some e =>
      if e.vbase + e.size < va + n then .error 3
      else if e.sup && !sup then .error 4
      else if acc.rd && !e.rd then .error 5
      else if acc.wr && !e.wr then .error 6
      else if acc.x && !e.x then .error 7
      else if acc.atomic && e.tgt = 2 && !hatom then .error 10
      else .ok ⟨e.place podid va, e⟩

/-- The entries of the generation a launch keeps (R17). -/
def State.entsOf (s : State) (asid g : Nat) : List WEnt :=
  match s.gen? asid g with
  | some x => x.ents
  | none => []

/-- Translation through the window of the task on partition p (R11, R14). -/
def State.xlate (s : State) (p : Nat) (acc : Acc) (va n : Nat) : Except Nat Xlate :=
  match s.launchOn p with
  | some l => translate (s.entsOf l.asid l.gen) s.regs.podid l.record.sup s.hatom acc va n
  | none => .error 2

/-- Meridian's translation through the current generation of an ASID, with supervisor rights (R286). -/
def State.xlateMeridian (s : State) (asid : Nat) (acc : Acc) (va n : Nat) : Except Nat Loc :=
  let (g, _) := s.curGen asid
  match translate g.ents s.regs.podid true s.hatom acc va n with
  | .ok x => .ok x.loc
  | .error r => .error r

/-! ### Homes -/

/-- A place moved on by n bytes. -/
def Loc.add : Loc → Nat → Loc
  | .hbm a, n => .hbm (a + n)
  | .host a, n => .host (a + n)

/-- The 128-byte line of a place within its own space. -/
def Loc.line : Loc → Nat
  | .hbm a => a / 128
  | .host a => a / 128

/-- The byte address of a place within its own space. -/
def Loc.addr : Loc → Nat
  | .hbm a => a
  | .host a => a

/-- The home of a place is this package's (R68). -/
def State.localHome (s : State) : Loc → Bool
  | .hbm a => s.isOwn a
  | .host _ => false

/-- The answer in hand is this one, and the place has its home outside the package (R16). -/
def State.farAnswer (s : State) (l : Loc) (f : Answer → Bool) : Bool :=
  !s.localHome l && match s.ans with | some x => f x | none => false

/-- The home of a place answers: a stack that trained, a package that is reachable, or the host (R362, R369 step 4). -/
def State.reachable (s : State) : Loc → Bool
  | .hbm a => if s.isOwn a then !s.absent.getLsbD (a % 2 ^ 39 / 2 ^ 36) else s.pod.contains (a / 2 ^ 42)
  | .host _ => s.ucie != 0 && s.bhp != 0

/-- A home that answers lets a write perform: it is not the host that refuses (R362). -/
def State.takes (s : State) (l : Loc) : Bool := s.reachable l && !s.farAnswer l fun x => x = .refused true

/-- The bytes at a home outside the package, as its answer gives them (R16). -/
def State.outside (s : State) (l : Loc) (bs : List Byte) : State :=
  match l with
  | .hbm a => if s.isOwn a then s else { s with mem := s.mem.writeN a bs }
  | .host a => { s with hostMem := s.hostMem.writeN a bs }

/-- The answer in hand brings what a home outside the package holds in [l, l + n). -/
def State.told (s : State) (l : Loc) (n : Nat) : State :=
  match s.ans with
  | some (.done bs) => s.outside l (bs.take n)
  | _ => s

/-- n bytes at their home (R69). -/
def State.readHome (s : State) (l : Loc) (n : Nat) : List Byte :=
  match l with
  | .hbm a => s.mem.readN s.fresh a n
  | .host a => s.hostMem.readN s.fresh a n

/-- The bytes at a home are poisoned, or their home is unreachable or refuses the read (R331, R362). -/
def State.poisonedAt (s : State) (l : Loc) (n : Nat) : Bool :=
  !s.reachable l || (s.farAnswer l fun x => x = .poison || x = .refused false) ||
  match l with
  | .hbm a => s.mem.poisoned a n
  | .host a => s.hostMem.poisoned a n

/-- The open snapshots whose range holds the line, innermost last (R104, R105). -/
def State.snapsOver (s : State) (line : Nat) : List (Nat × Snap) :=
  s.snaps.filter fun e => e.2.state = 2 && meetsRanges e.2.range (128 * line) (128 * line + 128)

/-- The innermost open snapshot whose range holds the line. -/
def State.innermost (s : State) (line : Nat) : Option (Nat × Snap) :=
  (s.snapsOver line).foldl (fun b e =>
    match b with
    | none => some e
    | some x => if x.2.level ≤ e.2.level then some e else b) none

/-- The line has a shadow at the snapshot (R104). -/
def Snap.shadowed (x : Snap) (line : Nat) : Bool := x.shadows.any fun e => e.line = line

/-- Arena lines that hold shadows or reserved quota (R109, R283). -/
def Snap.used (x : Snap) : Nat :=
  (x.shadows.filter fun e => e.aid = x.aid).length + (x.quota.filter fun q => q.2 = x.aid).length

/-- A line takes its shadow before its first write at the innermost level (R104); none when the arena is full (R109). An arena line that
a commit has reserved for this very line serves whichever agent writes the line first (assumption 78). -/
def State.shadow (s : State) (line : Nat) : Option State :=
  match s.innermost line with
  | none => some s
  | some (n, x) =>
    if x.shadowed line then some s
    else
      let aid : Option Nat :=
        match x.quota.find? fun q => q.1 = line with
        | some q => some q.2
        | none => if x.alines ≤ x.used then none else some x.aid
      match aid with
      | none => none
      | some a =>
        let sh : Shadow := ⟨line, s.mem.image s.fresh line, s.mem.poison.contains line, a, false⟩
        let x' : Snap := { x with shadows := x.shadows ++ [sh], quota := x.quota.filter fun q => q.1 != line }
        some { s with snaps := KMap.set s.snaps n x' }

/-- Every line of a write takes its shadow, or none. -/
def State.shadows (s : State) : List Nat → Option State
  | [] => some s
  | l :: ls =>
    match s.shadow l with
    | none => none
    | some s' => s'.shadows ls

/-! ### Messages over Galtum Link -/

/-- The Galtum Link port that a hash value picks, or while that is down the next one that is up (R86, R360). -/
def State.carrier (s : State) (h : Nat) : Nat :=
  match ((List.range 16).map fun k => (h + k) % 16).find? fun n => (KMap.get Port.down s.ports n).up with
  | some n => n
  | none => h % 16

/-- The key of a destination package and lane (R86, R360). -/
def laneKey (pkg lane : Nat) : Nat := 4096 * pkg + lane

/-- The Galtum Link port that carries a destination and lane: the one that has carried it while that is up, else the one its hash picks
(R360). -/
def State.route (s : State) (pkg lane : Nat) : Nat :=
  match KMap.find s.routes (laneKey pkg lane) with
  | some n => if (KMap.get Port.down s.ports n).up then n else s.carrier (Config.portHash pkg lane)
  | none => s.carrier (Config.portHash pkg lane)

/-- n flits put into the replay buffer of a port until they are acknowledged (R360). -/
def State.putFlits (s : State) (port n : Nat) : State :=
  let x := KMap.get Port.down s.ports port
  if x.up then { s with ports := KMap.set s.ports port { x with replay := x.replay + n } } else s

/-- The package a message goes to. -/
def PeerMsg.pkg : PeerMsg → Nat
  | .rsp r => r.rq
  | .wake pkg _ => pkg

/-- The flits of an answer or a wake message, at 232 bytes of messages a flit (R358). -/
def PeerMsg.flits : PeerMsg → Nat
  | .rsp r => max 1 ((r.data.length + 231) / 232)
  | .wake .. => 1

/-- The lane under which `routes` keeps the port of the answers and wake messages to a package (R360). -/
def peerLane : Nat := 3072

/-- The port that carries a message is not retraining and has room for it in its replay buffer (R360); the channel of answers is never
paused (R359). -/
def State.peerRoom (s : State) (m : PeerMsg) : Bool :=
  let x := KMap.get Port.down s.ports (s.route m.pkg peerLane)
  !x.up || (!x.training && x.replay + m.flits ≤ 1024)

/-- A message goes out on its port (R359, R360). -/
def State.putPeer (s : State) (m : PeerMsg) : State :=
  let n := s.route m.pkg peerLane
  let s : State := { s.putFlits n m.flits with routes := KMap.set s.routes (laneKey m.pkg peerLane) n }
  match m with
  | .rsp r => { s with rsps := r :: s.rsps }
  | .wake pkg line => { s with wakes := (pkg, line) :: s.wakes }

/-- An answer or a wake message is sent, or waits for room behind those to its package that do (R360). -/
def State.peerSend (s : State) (m : PeerMsg) : State :=
  if s.peerRoom m && !s.peerq.any fun x => x.pkg = m.pkg then s.putPeer m else { s with peerq := s.peerq ++ [m] }

/-- Wake messages for the monitors that other packages hold on the lines of a write (R260). -/
def State.wakePeers (s : State) (a n : Nat) : State :=
  (s.rmons.filter fun m => (linesOf a n).contains m.2).foldl (fun s m => s.peerSend (.wake m.1 m.2)) s

/-- Bytes applied at their home (R69), with the shadows of R104; none when an arena refuses them (R109). -/
def State.writeHome (s : State) (l : Loc) (bs : List Byte) : Option State :=
  if s.farAnswer l fun x => x = .arena then none else
  match l with
  | .host a => some { s with hostMem := s.hostMem.writeN a bs }
  | .hbm a =>
    match (if s.isOwn a then s.shadows (linesOf a bs.length) else some s) with
    | none => none
    | some s' =>
      let s' := (s'.hitArena a bs.length).wakePeers a bs.length
      some (State.blurArena { s' with mem := s'.mem.writeN a bs } a bs.length)

/-- A write at its home by an agent that names no policy: the host, another package, Meridian (R31; assumption 63). -/
def State.writeBy (s : State) (l : Loc) (bs : List Byte) : Option State :=
  ({ s with msc := match l with | .hbm a => s.mscHit a bs.length | .host _ => s.msc } : State).writeHome l bs

/-! ### The memory-side cache -/

/-- The slice, by its cluster, that holds a line of this package's HBM4 (R31). -/
def sliceOf (line : Nat) : Nat := 6 * (line * 128 % 2 ^ 39 / 2 ^ 36) + Config.sliceHash line % 6

/-- The ways of a slice that are in service (R31, R38). -/
def State.sliceWays (s : State) (cl : Nat) : List Nat :=
  (List.range 16).filter fun w => (s.chartAt (8 * cl) (308 + w)).state = 0

/-- The lines of a slice. -/
def State.slice (s : State) (cl : Nat) : List MLine := KMap.get [] s.msc cl

/-- A slice's lines replaced. -/
def State.setSlice (s : State) (cl : Nat) (ls : List MLine) : State := { s with msc := KMap.set s.msc cl ls }

/-- A line allocated in a slice in a free way of its set, else in the way used longest ago, whose line is written back (R31; its
set: assumption 63). -/
def mscPut (ways : List Nat) (ls : List MLine) (line : Nat) (back : Option Line) : List MLine :=
  let set := ls.filter fun e => e.line % 4096 = line % 4096
  match ways.find? fun w => !set.any fun e => e.way = w with
  | some w => ⟨line, w, back, false⟩ :: ls
  | none =>
    match (set.filter fun e => ways.contains e.way).getLast? with
    | some v => ⟨line, v.way, back, false⟩ :: ls.filter fun e => e.line != v.line
    | none => ls

/-- A line read or written through its slice under a policy (R32): with bit 1 clear it is allocated and used last, and a write makes
it dirty; with bit 1 set a miss passes by, and a write that hits is queued for early write-back. -/
def State.touchLine (s : State) (w : Bool) (pol : BitVec 2) (line : Nat) : State :=
  let cl := sliceOf line
  let ls := s.slice cl
  let now (_ : Unit) : Line := s.mem.line s.fresh line
  match ls.find? fun e => e.line = line with
  | some e =>
    let back := if w && e.back.isNone then some (now ()) else e.back
    if pol.getLsbD 1 then
      if w then s.setSlice cl (ls.map fun f => if f.line = line then { e with back := back, early := true } else f) else s
    else s.setSlice cl ({ e with back := back } :: ls.filter fun f => f.line != line)
  | none =>
    if pol.getLsbD 1 then s
    else s.setSlice cl (mscPut (s.sliceWays cl) ls line (if w then some (now ()) else none))

/-- An access of n bytes at a place passes the memory-side cache, before a write is applied: host memory never enters it, and the
homes of other packages have their own (R16, R31, R32). -/
def State.touch (s : State) (l : Loc) (n : Nat) (w : Bool) (pol : BitVec 2) : State :=
  match l with
  | .hbm a => if s.isOwn a then (linesOf a n).foldl (fun s L => s.touchLine w pol L) s else s
  | .host _ => s

/-- A slice's queued lines are written back: they stay valid and are clean (R32). -/
def State.writeBack (s : State) (cl : Nat) : State :=
  s.setSlice cl ((s.slice cl).map fun e => if e.early then { e with back := none, early := false } else e)

/-- A way of a slice is given up: its dirty lines are written back, and it holds no line (R31). -/
def State.dropWay (s : State) (cl way : Nat) : State := s.setSlice cl ((s.slice cl).filter fun e => e.way != way)

/-! ### L1 -/

/-- A place lies in host memory. -/
def Loc.isHost : Loc → Bool
  | .hbm _ => false
  | .host _ => true

/-- Two places lie in one line. -/
def sameLine (x y : Loc) : Bool := x.isHost == y.isHost && x.line = y.line

/-- A cache line holds the line of a place. -/
def CLine.holds (e : CLine) (l : Loc) : Bool := e.host == l.isHost && e.line = l.line

/-- A line filled into a cache of `sets` sets, and used last: in its own place, in a free way of its set, or in the way used longest
ago (R24, R30; its set: assumption 63). -/
def cachePut (sets : Nat) (ways : List Nat) (ls : List CLine) (l : Loc) (x : Line) : List CLine :=
  match ls.find? fun e => e.holds l with
  | some e => { e with data := x } :: ls.filter fun f => !f.holds l
  | none =>
    let set := ls.filter fun e => e.line % sets = l.line % sets
    match ways.find? fun w => !set.any fun e => e.way = w with
    | some w => ⟨l.isHost, l.line, w, x⟩ :: ls
    | none =>
      match (set.filter fun e => ways.contains e.way).getLast? with
      | some v => ⟨l.isHost, l.line, v.way, x⟩ :: ls.filter fun f => f != v
      | none => ls

/-- The L1 ways of a core that are in service (R30, R38). -/
def State.l1Ways (s : State) (c : Nat) : List Nat := (List.range 8).filter fun w => (s.chartAt c (300 + w)).state = 0

/-- A line filled into the L1 of a core (R24, R30). -/
def State.l1Put (s : State) (c : Nat) (l : Loc) (x : Line) : State :=
  s.updCore c fun k => { k with l1 := cachePut 64 (s.l1Ways c) k.l1 l x, pf := k.pf.filter (!sameLine l ·) }

/-- A whole L1 invalidated (R30); what has been prefetched and has not arrived is not filled (assumption 86). -/
def Core.cinv (c : Core) : Core := { c with l1 := [], pf := [] }

/-- One line invalidated in L1. -/
def Core.cinvLine (c : Core) (l : Loc) : Core :=
  { c with l1 := c.l1.filter fun e => !e.holds l, pf := c.pf.filter (!sameLine l ·) }

/-- A store that performs updates the issuing core's L1 on a hit, or invalidates the line under policy bit 0 (R30, R32). -/
def Core.l1Store (c : Core) (pol : BitVec 2) (l : Loc) (bs : List Byte) : Core :=
  if pol.getLsbD 0 then c.cinvLine l
  else
    { c with l1 := c.l1.map fun e => if e.holds l then { e with data := lineSet e.data (l.addr % 128) bs } else e
             pf := c.pf.filter (!sameLine l ·) }

/-- The pieces of an access, one for each line (R73): offset into the access, and length. -/
def piecesFrom (a n : Nat) : List (Nat × Nat) :=
  (linesOf a n).map fun l => (max a (128 * l) - a, min (a + n) (128 * l + 128) - max a (128 * l))

/-- The place where the line of a place begins. -/
def Loc.lineBase : Loc → Loc
  | .hbm a => .hbm (a / 128 * 128)
  | .host a => .host (a / 128 * 128)

/-- One piece of a read by a core (R32, R70): a present line may serve it where L1 may, unless it has been dropped meanwhile; a miss
reads the home and allocates. A read that passes L1 by leaves no line behind that could be older than what it returns (R72). -/
def State.readPiece (s : State) (core : Nat) (l : Loc) (n : Nat) (pol : BitVec 2) (l1ok : Bool) : List Byte × State :=
  let home := s.readHome l n
  if pol.getLsbD 0 || !l1ok then (home, (s.touch l n false pol).updCore core fun c => c.cinvLine l)
  else
    let fill (s : State) : State := (s.touch l n false pol).l1Put core l (leWord 1024 (s.readHome l.lineBase 128))
    match (s.core core).l1.find? fun e => e.holds l with
    | none => (home, fill s)
    | some e =>
      if Config.freeChoice (s.freeIx 0) then (lineBytes e.data (l.addr % 128) n, (s.l1Put core l e.data).draw)
      else (home, (fill s).draw)

/-- The pieces of a read one after another. -/
def State.readPieces (s : State) (core : Nat) (l : Loc) (pol : BitVec 2) (l1ok : Bool) : List (Nat × Nat) → List Byte × State
  | [] => ([], s)
  | (o, n) :: ps =>
    let (b, s) := s.readPiece core (l.add o) n pol l1ok
    let (bs, s) := s.readPieces core l pol l1ok ps
    (b ++ bs, s)

/-- Bytes read, with those of the task's own withheld stores, latest first, over them (R70). -/
def fwdBytes (fwd : List (Nat × Byte)) (bs : List Byte) : List Byte :=
  (bs.zipIdx).map fun (b, k) => match fwd.find? fun f => f.1 = k with | some f => f.2 | none => b

/-- A read of n bytes by a core (R70): the source of each piece, then the task's own withheld bytes over it. -/
def State.readGlobal (s : State) (core : Nat) (l : Loc) (n : Nat) (pol : BitVec 2) (l1ok : Bool)
    (fwd : List (Nat × Byte)) : List Byte × State :=
  let (bs, s) := s.readPieces core l pol l1ok (piecesFrom l.addr n)
  (fwdBytes fwd bs, s)

/-- The bytes of [l, l + n) that a store covers, by offset. -/
def GStore.cover (g : GStore) (l : Loc) (n : Nat) : List (Nat × Byte) :=
  let same := match g.loc, l with | .hbm _, .hbm _ => true | .host _, .host _ => true | _, _ => false
  if !same then []
  else (List.range n).filterMap fun k =>
    let a := l.addr + k
    if g.loc.addr ≤ a && a < g.loc.addr + g.data.length then some (k, nth 0 g.data (a - g.loc.addr)) else none

/-- The task's own stores that are released and not performed, or among the first k entries of the open interval, latest first. They
follow the task: after a save with stores still draining the next task of the partition does not see them, and a task that has moved
does (R70, R134; assumption 75). -/
def State.ownStores (s : State) (p k : Nat) : List GStore :=
  let P := s.part p
  let own := (P.sb.take k).filterMap fun d => match d with | .store g => some g | .cmd _ => none
  let rel := s.released.filter fun g => some g.task == P.task
  (rel ++ own).reverse

/-- The bytes of a place that the task's own stores hold, latest first, byte by byte (R70 item 1). -/
def State.withheld (s : State) (p k : Nat) (l : Loc) (n : Nat) : List (Nat × Byte) :=
  (s.ownStores p k).flatMap fun g => g.cover l n

/-- The first byte that a read takes from the task's own stores and that is poisoned there (R331). -/
def State.withheldSpoiled (s : State) (p k : Nat) (l : Loc) (n : Nat) : Option Nat :=
  let cs := (s.ownStores p k).flatMap fun g => (g.cover l n).map fun c => (c.1, g.bad)
  (List.range n).find? fun o => (cs.find? fun c => c.1 = o).any Prod.snd

/-- A byte that a read takes from the task's own stores is poisoned there (R331). -/
def State.withheldBad (s : State) (p k : Nat) (l : Loc) (n : Nat) : Bool := (s.withheldSpoiled p k l n).isSome

/-! ### Rollback -/

/-- An interval leaves nothing behind: no in-flight result, withheld store, command, journal line or internal operation. -/
def Part.dropInterval (P : Part) : Part :=
  { P with flight := [], pend := [], sb := [], sbn := 0, journal := [], remaps := [], mxq := [], tq := [], rsq := [], aq := []
           waitAll := false, nb := 0, sealed := false
           yielding := P.yieldD, stopHere := false, issLen := 0, datumAfter := false, loopsNext := none, held := none
           exiting := none }

/-- Journaled lines restored in reverse order (R129 step 2). -/
def unjournal (sp : Store) : List JLine → Store
  | [] => sp
  | j :: js => ((unjournal sp js).putImage j.line j.old).setPoison j.line (j.poisoned || j.bad)

/-- Remapped tiles returned to their old physical tiles (R129 step 3). -/
def unremap (r : Resident) : List Remap → Resident
  | [] => r
  | m :: ms =>
    let r := unremap r ms
    { r with tiles := KMap.set r.tiles m.tile m.old
             tundef := m.undef ++ cutRange (4225 * m.tile) (4225 * m.tile + 4225) r.tundef
             tpoison := (r.tpoison.filter fun e => e.1 != m.tile) ++ m.poison.map fun i => (m.tile, i) }

/-- The balances a debit or a credit leaves: within −2^47 and 2^47 − 1 (R305). -/
def clampBal (n : Int) : Int := max (-2 ^ 47) (min (2 ^ 47 - 1) n)

/-- What the partition's own engine commands reserved is returned: handle and snapshot numbers, and the balance that was debited
(R266, R301). -/
def State.returnReserved (s : State) (p : Nat) : State :=
  (s.part p).sb.foldl (fun s d =>
    match d with
    | .cmd c =>
      match c.kind with
      | .hgive h .. | .htake h .. =>
        s.updCore (coreOf p) fun c => { c with handles := KMap.del c.handles h }
      | .snap (some n) _ => { s with snaps := KMap.del s.snaps n }
      | .grow _ _ _ bi bm => s.updPart p fun P => { P with bgi := clampBal (P.bgi + bi), bgm := clampBal (P.bgm + bm) }
      | .bgadd _ m amt sup =>
        if sup then s
        else s.updPart p fun P => if m then { P with bgm := clampBal (P.bgm + amt) } else { P with bgi := clampBal (P.bgi + amt) }
      | _ => s
    | .store _ => s) s

/-- The address of a poisoned register of the duplicate set in a POISON of space 6, to which R317 gives no form: a free value. -/
def State.dupAddr (s : State) : Nat := (Config.freeBits (s.freeIx 210) 55).toNat

/-- Poison of the partition's own that a restore meets: a journal line that the journal holds poisoned, or a poisoned register of
the duplicate set (R332). -/
def State.ownPoison (s : State) (p : Nat) : Option Nat :=
  let P := s.part p
  match P.ownBad, P.journal.find? JLine.bad with
  | some a, _ => some a
  | none, some j => some (128 * j.line)
  | none, none => if P.dpoison.isEmpty then none else some s.dupAddr

/-- A rollback (R129): the partition returns to its last datum, and its Vane copy with it (R329); a rerun pair begins again (R337).
A stop request that only a discarded `yield` has raised goes with it. -/
def State.rollback (s : State) (p : Nat) : State :=
  let P := s.part p
  let own := s.ownPoison p
  let s := s.returnReserved p
  let s := s.updRes p fun r =>
    { unremap r P.remaps with
      sp := unjournal r.sp P.journal
      took := (r.took.filter fun e => !P.journal.any fun j => j.line = e / 8) ++ P.journal.flatMap JLine.took
      views := (r.views.filter fun e => !e.tent).map fun e => { e with old := e.base }
      rings := P.ringsD, stat := P.statD }
  s.updPart p fun P =>
    { P.dropInterval with
      regs := P.dup, rb := P.rb + 1
      stopAt := if P.preempt || P.relocate.isSome || (P.exh && !P.dup.cm) || P.gl || P.yieldD then P.stopAt else none
      stopAny := P.stopAny && (P.preempt || P.relocate.isSome || (P.exh && !P.dup.cm) || P.gl || P.yieldD)
      vane := false, residue := false, vdiff := [], rpoison := P.dpoison, ownBad := own, trIn := [], trOut := []
      rerun := P.rerun.map fun r => ⟨1, 0, 0, 0, r.cause, false⟩ }

/-! ### Context block -/

/-- The STATE word of R323. -/
def stateWord (why : Nat) (rr sus gl exh cm : Bool) (grace : Nat) : Nat :=
  why * 2 ^ 60 + rr.toNat * 2 ^ 51 + sus.toNat * 2 ^ 50 + gl.toNat * 2 ^ 49 + exh.toNat * 2 ^ 48 +
  cm.toNat * 2 ^ 47 + grace

/-- A loop's record (R380). -/
def Loop.bytes : Option Loop → List Byte
  | none => leBytes 32 0
  | some l =>
    leBytes 8 l.counter.toNat ++
    leBytes 8 (2 ^ 63 + l.ns.isSome.toNat * 2 ^ 62 + bitsAt l.body.toNat 0 56) ++
    leBytes 8 (bitsAt l.target.toNat 0 56) ++
    leBytes 8 ((l.stages - 1) * 2 ^ 61 + (l.blen - 1) * 2 ^ 49 + bitsAt l.pass 0 49)

/-- A loop's NS word (R380). -/
def Loop.nsBytes : Option Loop → List Byte
  | none => leBytes 8 0
  | some l => leBytes 8 (match l.ns with | some n => n | none => 0)

/-- The counter word of an inactive loop's record is zero with the rest (R380): LC0 and LC1 outside loops are kept by
Meridian's own copy. The first 0x400 bytes of the context block from offset 0x28 on (R322). -/
def ctxHead (r : Regs) (bgi bgm : Int) (st : Nat) : List Byte :=
  leBytes 8 st ++ leBytes 8 r.pc.toNat ++ leBytes 8 r.cont.toNat ++
  leBytes 8 (wrapN 64 bgi) ++ leBytes 8 (wrapN 64 bgm) ++
  leBytes 8 (match r.mon with | some m => m.va.toNat + 1 | none => 0) ++
  leBytes 8 r.parkedPc.toNat ++
  leBytes 8 (preds r + r.fa.toNat * 2 ^ 16 + r.fb.toNat * 2 ^ 20 + r.w.toNat * 2 ^ 24) ++
  leBytes 8 r.mxstat.toNat ++
  Loop.nsBytes r.loops[0]? ++ Loop.nsBytes r.loops[1]? ++
  Loop.bytes r.loops[0]? ++ Loop.bytes r.loops[1]? ++ Loop.bytes r.parked[0]? ++ Loop.bytes r.parked[1]? ++
  (List.range 32).flatMap (fun n => leBytes 8 (if n = 0 then 0 else (nth 0 r.s n).toNat)) ++
  Loop.nsBytes r.parked[0]? ++ Loop.nsBytes r.parked[1]? ++ leBytes 496 0
where
  wrapN (w : Nat) (n : Int) : Nat := (n % (2 ^ w : Nat)).toNat
  preds (r : Regs) : Nat := ((List.range 16).map fun n => (r.pred n).toNat * 2 ^ n).sum

/-- The mask and vector images of the context block, from offset 0x400 on (R322). -/
def ctxImages (r : Regs) : List Byte :=
  (List.range 8).flatMap (fun n => leBytes 128 (if n = 0 then BitVec.allOnes 1024 else nth 0 r.m n).toNat) ++
  (List.range 32).flatMap fun n => Vec.bytes (nth [] r.v n)

/-- The address space of the spill pool: first local byte and size in bytes (R286). -/
def State.poolBase (s : State) : Nat := (s.regs.spill.extractLsb' 18 21).toNat * 2 ^ 18

/-- The size of the spill pool in 16 KiB units (R286). -/
def State.poolUnits (s : State) : Nat := (s.regs.spill.extractLsb' 40 24).toNat * 16

/-- A running partition is freed: nothing of its task is left on it but its clocks. -/
def Part.freed (P : Part) : Part :=
  { Part.free with next := P.next, v0 := P.v0, v1 := P.v1, aNext := P.aNext, issT := P.issT, rb := P.rb, bank := P.bank }

/-- The place of a register's image in a context block, and its length (R322). -/
def bankImage : RegBank → Nat × Nat
  | .v n => (0x800 + 4096 * n, 4096)
  | .m n => (0x400 + 128 * n, 128)
  | .ctl (.s n) => (0x100 + 8 * n, 8)
  | .ctl (.p _) => (0x60, 2)
  | .ctl (.lc k) => (0x80 + 32 * k, 8)
  | .ctl .bgi => (0x40, 8)
  | .ctl .bgm => (0x48, 8)
  | .ctl .cont => (0x38, 8)

/-- A context block has been written whole: its lines are poisoned that hold images of the poisoned registers rs, and no other (R331). -/
def State.markImages (s : State) (block : Nat) (rs : List RegBank) : State :=
  let m := s.mem.setPoison (s.own block / 128) false
  { s with mem := rs.foldl (fun m r => (linesOf (s.own (block + (bankImage r).1)) (bankImage r).2).foldl Store.addPoison m) m }

/-- The context of partition p saved with a WHY (R322, R323), and the partition freed. The first 0x28 bytes of the block, a trap's record
and TCTL, are left as they stand when no trap precedes the save (assumption 82). Poison of a register goes with it (R331). -/
def State.save (s : State) (p why : Nat) : State :=
  let P := s.part p
  match P.task with
  | none => s
  | some id =>
    match s.task id with
    | none => s.updPart p Part.freed
    | some t =>
      let rr := P.rerun.isSome
      let head := ctxHead P.regs P.bgi P.bgm (stateWord why rr P.sus P.gl P.exh P.regs.cm P.grace)
      let s := (s.putMem (t.block + 0x28) (head ++ ctxImages P.regs)).markImages t.block P.rpoison
      let s := s.updTask id fun t =>
        { t with st := if why = 4 then .trapped else .saved, why := why, savedAt := s.dseq
                 ctx := some ⟨P.regs, P.exh, P.gl, P.grace, P.rerun.map Rerun.cause, P.sus⟩ }
      { s.updPart p Part.freed with slots := if s.focus = p then [] else s.slots, dseq := s.dseq + 1 }

/-! ### Traps -/

/-- A trap's cause code, FAULT address and detail word (R317, R318). -/
structure Trap where
  cause  : Nat
  fault  : W64
  detail : W64
  deriving DecidableEq, Repr

/-- The trap record and a zero TCTL in a context block (R318, R320). -/
def State.writeRecord (s : State) (block : Nat) (datum : W64) (t : Trap) : State :=
  s.putMem block (leBytes 8 t.cause ++ leBytes 8 datum.toNat ++ leBytes 8 t.fault.toNat ++
    leBytes 8 t.detail.toNat ++ leBytes 8 0)

/-- A host trap notice (R355): written to the ring of HTRAPQ, with TRAP raised. -/
def State.notice (s : State) (id : W64) (block code asid : Nat) : State :=
  let (s, ok) := s.ringWrite s.regs.htrapq
    [id, BitVec.ofNat 64 block, BitVec.ofNat 64 code, BitVec.ofNat 64 asid]
  if ok then s.raise 0 else s

/-- The record of a trap-service launch (R319). -/
def serviceRec (traph : W64) : Rec :=
  { ver := 3, cls := 0, prio := (traph.extractLsb' 56 3).toNat
    routine := ((traph.extractLsb' 0 49) ++ (0#7)).signExtend 64
    sprows := 0, sup := true, noreloc := false, snap := false, topup := false, args := 0, nx := 1, ny := 1
    x0 := 0, y0 := 0, z0 := 0, tsu := 0, place := 0, count := 1, rings := 0, tiles := 0
    bgi := 2 ^ 47 - 1, bgm := 2 ^ 47 - 1, wk0 := 0, wk1 := 0, parts := 0, cstamp := 0 }

/-- The first number from n on whose low 32 bits are the LAUNCH number of no incomplete launch, looking at most k numbers on. -/
def State.freeLid (s : State) : Nat → Nat → Nat
  | 0, n => n
  | k + 1, n => if s.launches.any fun l => l.lid = BitVec.ofNat 32 n then s.freeLid k (n + 1) else n

/-- The number of the next launch, of which LAUNCH holds the low 32 bits: LAUNCH is unique among the incomplete launches (R187). -/
def State.nextLid (s : State) : Nat := s.freeLid s.launches.length (s.lastLid + 1)

/-- A launch of a record with nothing dispatched, under the next LAUNCH number (R187, R293). -/
def State.newLaunch (s : State) (q : Option Nat) (ticket : Nat) (r : Rec) (asid gen : Nat) : Launch :=
  { lid := BitVec.ofNat 32 s.nextLid, q := q, ticket := ticket, record := r, asid := asid, gen := gen, waits := [], promoted := false
    ready := false, readyAt := s.cyc, next := 0, count := r.count, trigd := [], triggered := false, exited := 0
    poolI := 0, poolM := 0, attach := [], serves := none, reserved := [] }

/-- The trap is reported: a service launch for TRAPH.EN, or a host notice (R319). With EN set and a bad window generation the service
launch ends as it is admitted, which nothing reports (assumption 94). -/
def State.reportTrap (s : State) (id : W64) (t : Task) (l : Launch) (cause : Nat) : State :=
  let s := s.updTask id fun t => { t with cause := cause }
  let th := KMap.get 0 s.regs.traph l.asid
  if th.getLsbD 63 && l.serves.isNone then
    let (g, s) := s.curGen l.asid
    let n := s.newLaunch none 0 (serviceRec th) l.asid g.gen
    if g.bad then s
    else { s with launches := s.launches ++ [{ n with ready := true, serves := some id }], lastLid := s.nextLid }
  else s.notice id t.block cause l.asid

/-- The images of registers in a context block become undefined (R332). -/
def State.blurImages (s : State) (block : Nat) (rs : List RegBank) : State :=
  { s with mem := rs.foldl (fun m r => m.undefine (s.own (block + (bankImage r).1)) (bankImage r).2) s.mem }

/-- The operations of partition p's bundle in issue are dropped. -/
def State.dropSlots (s : State) (p : Nat) : State := { s with slots := if s.focus = p then [] else s.slots }

/-- A trap is taken (R316): rollback, trap record, save with WHY 4, suspension and report. In the record DATUM is the
resume address rolled back to. Poison of the partition's own that the rollback meets is the trap that is taken (R332). -/
def State.trapNow (s : State) (p : Nat) (tr : Trap) : State :=
  let s := s.rollback p
  let P := s.part p
  let own := P.ownBad.isSome
  let tr := match P.ownBad with | some a => ⟨9, tr.fault, BitVec.ofNat 64 (6 * 2 ^ 56 + a % 2 ^ 56)⟩ | none => tr
  match s.taskOn p, s.launchOn p with
  | some t, some l =>
    let s := s.writeRecord t.block P.regs.pc tr
    let s := (if own then s.updPart p fun P => { P with rpoison := [] } else s).save p 4
    (if own then (s.blurImages t.block P.dpoison).draw else s).reportTrap t.id t l tr.cause
  | _, _ => { s with slots := [] }

/-- The balances as a bundle in issue finds or leaves them (R305). -/
def Part.balance (P : Part) (use : KMap Nat) : Bal := ⟨P.bgi, P.bgm, P.exh, P.gl, P.grace, use, P.sb.length⟩

/-- No operation of partition p's bundle in issue has taken effect (R180): its commands give back what they reserved, and its balances,
which a rollback leaves, are b again. -/
def State.unissue (s : State) (p : Nat) (b : Bal) : State :=
  let sb := (s.part p).sb
  let s := (s.updPart p fun P => { P with sb := P.sb.drop b.sb }).returnReserved p
  s.updPart p fun P =>
    { P with sb := sb.take b.sb, bgi := b.bgi, bgm := b.bgm, exh := b.exh, gl := b.gl, grace := b.grace }

/-- A trap is raised in partition p's interval (R316): a Vane mismatch of the interval that has not been served goes before it, and
the bundle is dropped until it is. A trap of the bundle in issue undoes also what its other slots did to the balances (R180). -/
def State.trap (s : State) (p : Nat) (tr : Trap) : State :=
  let P := s.part p
  if P.vane then (s.updPart p fun P => { P with issLen := 0, datumAfter := false, exiting := none }).dropSlots p
  else (if P.issLen ≠ 0 && tr.fault = P.issA then s.unissue p P.bal1 else s).trapNow p tr

/-- A trap at the bundle in issue (R318). -/
def State.trapHere (s : State) (cause : Nat) (detail : W64) : State :=
  s.trap s.focus ⟨cause, s.me.issA, detail⟩

/-- A detail word of a reason and an address (R14, R249, R317). -/
def detailWord (reason addr : Nat) : W64 := BitVec.ofNat 64 (reason * 2 ^ 56 + addr % 2 ^ 56)

/-- ADDR with a reason and an address (R14). -/
def State.trapAddr (s : State) (reason addr : Nat) : State := s.trapHere 3 (detailWord reason addr)

/-- ALIGN with log2 of the alignment and an address (R249). -/
def State.trapAlign (s : State) (lg addr : Nat) : State := s.trapHere 4 (detailWord lg addr)

/-- ILLEGAL with a reason, slot and word (R159, R266): the bundle debits nothing and Isobar charges nothing for it (R305, R367). -/
def State.trapIllegal (s : State) (reason slot : Nat) (word : W32) : State :=
  let b := s.me.bal0
  let s := ({ s with isobar := { s.isobar with use := b.use } } : State).unissue s.focus b
  (s.updMe fun P => { P with bal1 := b }).trapHere 1 (BitVec.ofNat 64 (reason * 2 ^ 56 + slot * 2 ^ 53 + word.toNat))

/-! ### Restore -/

/-- The lines of a context block that a restore lands in the partition and that are poisoned, lowest first; its reserved lines land
nowhere (R322, R332). -/
def State.badContext (s : State) (block : Nat) : List Nat :=
  if s.mem.poison.isEmpty then []
  else (linesOf (s.own block) 133120).filter fun l => !meetsRanges [(5, 8)] (l - s.own block / 128) (l - s.own block / 128 + 1) &&
    s.mem.poison.contains l

/-- The registers as a restore reads them: the images, PC and CONT a service task may have changed come from the block,
the rest from Meridian's own copy (R320, R322). -/
def State.restoredRegs (s : State) (block : Nat) (r : Regs) : Regs :=
  let w (o n : Nat) := s.getMem (block + o) n
  { r with
    s := (List.range 32).map fun n => if n = 0 then 0 else BitVec.ofNat 64 (w (0x100 + 8 * n) 8)
    p := BitVec.ofNat 16 (w 0x60 2)
    m := (List.range 8).map fun n => if n = 0 then BitVec.allOnes 1024 else BitVec.ofNat 1024 (w (0x400 + 128 * n) 128)
    v := (List.range 32).map fun n => Vec.ofBytes (s.mem.readN s.fresh (s.own (block + 0x800 + 4096 * n)) 4096)
    pc := BitVec.ofNat 64 (w 0x30 8)
    cont := BitVec.ofNat 64 (w 0x38 8) }

/-- A balance word of the block read as 48-bit signed (R305, R322): its low 48 bits, whatever stands above them (the model's choice,
assumption 103). -/
def State.blockBal (s : State) (block off : Nat) : Int :=
  (BitVec.ofNat 48 (s.getMem (block + off) 8)).toInt

/-- Partition p takes up a saved task from its context block, where WHY becomes 0 (R135, R322, R323). An armed monitor stays armed. A poisoned
line of the block is consumed as it lands: its home reads it again to no other end, and the task takes POISON with the line's pod address,
the block having no virtual one; its lines stay poisoned until they are written whole (R331, R332; assumption 90). -/
def State.restore (s : State) (p : Nat) (t : Task) (c : Ctx) : State :=
  let r := s.restoredRegs t.block c.regs
  let rr : Option Rerun := c.rr.map fun k => ⟨1, 0, 0, 0, k, false⟩
  let s := s.putMem (t.block + 0x2F) [0]
  let bad := s.badContext t.block
  let s := s.updPart p fun P =>
    { P.freed with
      task := some t.id, regs := r, dup := r, exh := c.exh, gl := c.gl, grace := c.grace, sus := c.sus, rerun := rr
      bgi := s.blockBal t.block 0x40, bgm := s.blockBal t.block 0x48
      ringsD := t.res.rings, statD := t.res.stat, lastRestore := true }
  let s : State :=
    { s.updTask t.id fun t => { t with st := .running p, ctx := none, dispatchedAt := s.dseq, core := some (coreOf p) } with
      dseq := s.dseq + 1 }
  match bad with
  | [] => s
  | l :: _ =>
    let s := s.trapNow p ⟨9, r.pc, detailWord 0 (128 * l)⟩
    { s with mem := bad.foldl Store.addPoison s.mem }

end Sys2Proof.Machine
end

