-- ==== Sys2Proof/Machine/Flags.lean ====
section
/-! DEFINITION. Conditions, status bits and counters: the scalar compare conditions (R171), the truth table of `pset`
(R173), the sticky bits of MXSTAT (R241) and the fields of CHKCNT (R242). -/

namespace Sys2Proof.Machine

/-- The eight scalar conditions on w-bit patterns (R171). -/
def scond (c w x y : Nat) : Bool :=
  match c with
  | 0 => x = y
  | 1 => x ≠ y
  | 2 => sintOf w x < sintOf w y
  | 3 => sintOf w y ≤ sintOf w x
  | 4 => sintOf w x ≤ sintOf w y
  | 5 => sintOf w y < sintOf w x
  | 6 => x < y
  | _ => y ≤ x

/-- TT[2*a + b] (R173). -/
def truth (tt : BitVec 4) (a b : Bool) : Bool := tt.getLsbD (2 * a.toNat + b.toNat)

/-- The bits of MXSTAT: SAT, OVF, NC, COR, CKF (R241). -/
def bitSAT : BitVec 5 := 1
def bitOVF : BitVec 5 := 2
def bitNC : BitVec 5 := 4
def bitCOR : BitVec 5 := 8
def bitCKF : BitVec 5 := 16

/-- Sticky bits of partition p's MXSTAT set (R241). -/
def State.sticky (s : State) (p : Nat) (b : BitVec 5) : State :=
  s.updPart p fun P => { P with regs := { P.regs with mxstat := P.regs.mxstat ||| b } }

/-- RERUN of CHKCNT increased, saturating (R242). -/
def Core.addRerun (c : Core) (n : Nat) : Core := { c with rerun := min 0xFFFF (c.rerun + n) }

/-- RECOMP of CHKCNT increased, saturating (R242). -/
def Core.addRecomp (c : Core) (n : Nat) : Core := { c with recomp := min 0xFFFF (c.recomp + n) }

/-- CORR of CHKCNT increased, saturating (R242). -/
def Core.addCorr (c : Core) (n : Nat) : Core := { c with corr := min 0xFFFFFFFF (c.corr + n) }

/-- CHKCNT as it reads (R242). -/
def Core.chkcnt (c : Core) : W64 := BitVec.ofNat 64 (c.rerun * 2 ^ 48 + c.recomp * 2 ^ 32 + c.corr)

end Sys2Proof.Machine
end

