-- ==== Sys2Proof/Machine/Chart.lean ====
section
/-! DEFINITION. What the Chart shows (R38) and the capacity registers (R26 to R29, R44) and the read of a system register (R187,
R189). -/

namespace Sys2Proof.Machine

/-- An entry as chartq returns it (R38). -/
def State.chartWord (s : State) (core i : Nat) : W64 :=
  let e := s.chartAt core i
  BitVec.ofNat 64 (chartClass i * 2 ^ 60 + e.state * 2 ^ 57 + chartPart i * 2 ^ 55 + e.logical * 2 ^ 48 +
    chartPhys i * 2 ^ 41 + e.errs * 2 ^ 16 + (if e.state = 1 then e.cursor else 0))

/-- States 0, 1 and 4 count as good (R39). -/
def ChartEnt.good (e : ChartEnt) : Bool := e.state = 0 || e.state = 1 || e.state = 4

/-- A spare that is left: it serves nothing and is good (R24). -/
def ChartEnt.spare (e : ChartEnt) : Bool := (e.state = 0 || e.state = 4) && e.logical = 0x7F

/-- The indices of a class; for class 0 those of partition p. -/
def classIdx (c p : Nat) : List Nat :=
  if c = 0 then (List.range 9).map (9 * p + ·)
  else (List.range (classSpan c).2).map ((classSpan c).1 + ·)

/-- Good resources of a class. -/
def State.goodOf (s : State) (core c p : Nat) : Nat :=
  ((classIdx c p).filter fun i => (s.chartAt core i).good).length

/-- Spares left of a class. -/
def State.sparesOf (s : State) (core c p : Nat) : Nat :=
  ((classIdx c p).filter fun i => (s.chartAt core i).spare).length

/-- A logical resource of the class has a good physical one. -/
def State.served (s : State) (core c p l : Nat) : Bool :=
  (classIdx c p).any fun i => (s.chartAt core i).good && (s.chartAt core i).logical = l

/-- Logical resources of a class that have a good physical one. -/
def State.servedOf (s : State) (core c p : Nat) : Nat :=
  ((List.range (logicalCount c)).filter fun l => s.served core c p l).length

/-- Folded scratchpad banks f (R26). -/
def State.folded (s : State) (core : Nat) : Nat := 32 - s.servedOf core 1 0

/-- ROWS (R26). -/
def State.capRows (s : State) (core : Nat) : Nat := 1024 - 32 * s.folded core

/-- UNITS of the tile store (R27). -/
def State.capUnits (s : State) (core : Nat) : Nat := 4 * s.servedOf core 2 0

/-- Logical accumulator tiles offered (R28). -/
def State.capTiles (s : State) (core : Nat) : Nat := min 64 (s.goodOf core 3 0 - 12)

/-- The matrix engine is usable (R29). -/
def State.capMx (s : State) (core : Nat) : Bool :=
  !(s.core core).mxOut && s.servedOf core 4 0 = 64 && s.servedOf core 5 0 = 64

/-- Partition p of a core is in service (R25, R339). -/
def State.inService (s : State) (core p : Nat) : Bool :=
  8 ≤ s.goodOf core 0 p && !(s.core core).partsOut.getLsbD p

/-- CAPRF, CAPSP, CAPTS, CAPAM, CAPMX, CAPPART (R44). -/
def State.capReg (s : State) (core n : Nat) : Nat :=
  match n with
  | 0 => ((List.range 4).map fun p => s.goodOf core 0 p * 16 ^ p).sum
  | 1 => s.capRows core * 2 ^ 32 + s.sparesOf core 1 0 * 2 ^ 24 + 4096 * s.capRows core
  | 2 => s.servedOf core 2 0 * 2 ^ 32 + s.sparesOf core 2 0 * 2 ^ 24 + s.capUnits core
  | 3 => s.goodOf core 3 0 * 2 ^ 8 + s.capTiles core
  | 4 => s.sparesOf core 5 0 * 2 ^ 16 + s.sparesOf core 4 0 * 2 ^ 8 + (s.capMx core).toNat
  | _ =>
    let ps := (List.range 4).filter fun p => s.inService core p
    (ps.map (2 ^ ·)).sum * 2 ^ 8 + ps.length

/-- The tile coordinate of a task (R111). -/
def tileCoord (r : Rec) (i : Nat) : Nat :=
  let x := (r.x0 + i % r.nx) % 2 ^ 16
  let y := (r.y0 + i / r.nx % r.ny) % 2 ^ 16
  let z := (r.z0 + i / (r.nx * r.ny)) % 2 ^ 16
  z * 2 ^ 32 + y * 2 ^ 16 + x

/-- MXSTAT as a read finds it: SAT of a vquant whose window is open may be set already (R241). -/
def Part.mxstatNow (P : Part) (choice : Bool) : W64 :=
  let sat := P.flight.any fun f => f.wr == Write.sat && f.iss < P.issT && P.issT < f.due
  (P.regs.mxstat ||| (if sat && choice then 1#5 else 0#5)).setWidth 64

/-- The value of system register n on partition p (R187, R189). -/
def State.sysNow (s : State) (p n : Nat) : W64 :=
  let P := s.part p
  let c := coreOf p
  match n with
  | 0x000 => 3
  | 0x001 | 0x002 | 0x003 | 0x004 => nth 0 s.regs.featacc (n - 1)
  | 0x010 => P.task.getD 0
  | 0x011 =>
    match s.taskOn p, s.launchOn p with
    | some t, some l => BitVec.ofNat 64 (tileCoord l.record t.idx)
    | _, _ => 0
  | 0x012 => (P.task.getD 0) >>> 32
  | 0x013 => BitVec.ofNat 64 (p % 4)
  | 0x014 => BitVec.ofNat 64 c
  | 0x015 => BitVec.ofNat 64 (clusterOf c)
  | 0x016 => BitVec.ofNat 64 (stackOf c)
  | 0x017 => BitVec.ofNat 64 s.regs.podid
  | 0x020 => BitVec.ofNat 64 P.issT
  | 0x021 => (s.core c).chkcnt
  | 0x022 => P.mxstatNow (Config.freeChoice (s.freeIx 200))
  | 0x030 => BitVec.ofInt 64 P.bgi
  | 0x031 => BitVec.ofInt 64 P.bgm
  | 0x032 => P.regs.cont
  | 0x050 => P.regs.lc 0
  | 0x051 => P.regs.lc 1
  | _ => if 0x040 ≤ n && n ≤ 0x045 then BitVec.ofNat 64 (s.capReg c (n - 0x040)) else 0

/-- What register n held before a pending write that issued in the current bundle (`now`), or in an earlier one. -/
def Part.oldSys (P : Part) (n : Nat) (now : Bool) : Option W64 :=
  P.flight.findSome? fun f =>
    match f.wr with
    | .sysOld k x => if k = n && P.issT < f.due && (f.iss == P.issT) == now then some x else none
    | _ => none

/-- sget of register n (R116, R186): in the cycle after a write the old value or the new one. -/
def State.sysRead (s : State) (n : Nat) : W64 :=
  let now := (s.me.oldSys n true).getD (s.sysNow s.focus n)
  match s.me.oldSys n false with
  | some x => if Config.freeChoice (s.freeIx 201) then x else now
  | none => now

/-- The value register n holds before a write, kept until its new value must be read (R186). A read of a balance that finds it does
not take off the reading bundle's own debit (assumption 67). -/
def State.keepOld (s : State) (n : Nat) : State :=
  s.updMe fun P => P.issue (.sysOld n (s.sysNow s.focus n)) 2

end Sys2Proof.Machine
end

