-- ==== Sys2Proof/Machine/Operands.lean ====
section
/-! DEFINITION. Operand forms: scalar operands of 32 and 64 bits and immediates (R145, R168), addresses and their checks
(R14, R21, R37, R249), the two scratchpad views with the undo journal (R22, R23, R126), consumption of poison (R332), and
the issue of global loads and stores (R69, R70, R76). -/

namespace Sys2Proof.Machine

/-! ### Scalars -/

/-- num(x, U) of R168 on the low w bits. -/
def numOf (w : Nat) (u : Bool) (x : W64) : Int :=
  if u then (x.toNat % 2 ^ w : Nat) else sintOf w (x.toNat % 2 ^ w)

/-- ext(r mod 2^w, w, U) of R168. -/
def extOf (w : Nat) (u : Bool) (r : Int) : W64 :=
  if u then BitVec.ofNat 64 (wrapNat w r) else BitVec.ofInt 64 (sintOf w (wrapNat w r))

/-- The operation width that W selects (R168). -/
def opWidth (w : BitVec 1) : Nat := if w = 1 then 32 else 64

/-- A binary SR operation on registers a and b (R168); `op` gets the width and the two numbers. -/
def State.opSR (s : State) (d a b : BitVec 5) (u w : BitVec 1) (L : Nat) (op : Nat → Int → Int → Int) : State :=
  let n := opWidth w
  s.putS d (extOf n (u == 1) (op n (numOf n (u == 1) (s.rdS 0 a)) (numOf n (u == 1) (s.rdS 1 b)))) L

/-- A binary SI operation on register a and an immediate, as .i64 (R168). -/
def State.opSI {n : Nat} (s : State) (d a : BitVec 5) (i : Imm n) (L : Nat) (op : Nat → Int → Int → Int) : State :=
  s.putS d (extOf 64 false (op 64 (numOf 64 false (s.rdS 0 a)) (numOf 64 false i.val))) L

/-! ### Balances -/

/-- A balance has changed: below zero outside continuation mode EXH latches and raises a stop request (R308). With both
balances at zero or above GRACE is 1,024 again (R310). -/
def Part.balanced (P : Part) : Part :=
  if P.bgi < 0 || P.bgm < 0 then
    if P.regs.cm || P.exh then P else { P.raiseStop P.issT with exh := true }
  else if P.regs.cm then { P with grace := 1024 } else P

/-- A debit of partition p's balances (R305), with the latch of R308. -/
def Part.debit (P : Part) (i m : Nat) : Part :=
  ({ P with bgi := clampBal (P.bgi - i), bgm := clampBal (P.bgm - m) } : Part).balanced

/-! ### Poison -/

/-- Consumption of poison in space `sp` at `addr` by partition p, by the bundle at `pc` (R332): the first time the
partition rolls back and marks the access, and when it is consumed again the task takes POISON. -/
def State.consumeAt (s : State) (p : Nat) (pc : W64) (sp addr : Nat) : State :=
  let a := addr % 2 ^ 56
  if (s.part p).reread.contains (sp, a) then s.trap p ⟨9, pc, detailWord sp a⟩
  else
    let s := s.rollback p
    let s := s.updPart p fun P => { P with reread := (sp, a) :: P.reread }
    { s with slots := if s.focus = p then [] else s.slots }

/-- Consumption of poison by the bundle in issue (R332). -/
def State.consume (s : State) (p sp addr : Nat) : State := s.consumeAt p (s.part p).issA sp addr

/-! ### Global addresses -/

/-- The checks of a global access of n bytes (R14, R249): ADDR, then ALIGN to 2^lg. -/
def State.checkGlobal (s : State) (acc : Acc) (va : W64) (n lg : Nat) : Except Trap Xlate :=
  match s.xlate s.focus acc va.toNat n with
  | .error r => .error ⟨3, s.me.issA, detailWord r va.toNat⟩
  | .ok x =>
    if va.toNat % 2 ^ lg ≠ 0 then .error ⟨4, s.me.issA, detailWord lg va.toNat⟩ else .ok x

/-- The address of a format-MO operand: s[a] + off * size, modulo 2^64 (R10, R251). -/
def State.eaMO (s : State) (a : BitVec 5) (o : BitVec 10) (size : Nat) : W64 :=
  s.rdS 0 a + o.signExtend 64 * BitVec.ofNat 64 size

/-! ### The own scratchpad -/

/-- The line a view selects for line L of an offset: the swizzled view exchanges the bank (R22). -/
def viewLine (swz : Bool) (L : Nat) : Nat :=
  if swz then L / 32 * 32 + ((L % 32) ^^^ (L / 32 % 32)) else L

/-- Rows [r, r + n) meet an entry of the core that the task has offered or lent (R37). -/
def Core.lentRow (c : Core) (task : W64) (r n : Nat) : Option Nat :=
  (c.handles.find? fun e =>
    !e.2.resv && (e.2.state = 1 || e.2.state = 2) && e.2.owner == task &&
    e.2.baserow < r + n && r < e.2.baserow + e.2.nrows).map Prod.fst

/-- The checks of an own-scratchpad access of n bytes at an offset (R21, R37, R249): ADDR with reason 8, HANDLE with reason
1, then ALIGN to 2^lg. -/
def State.checkSp (s : State) (off : W64) (n lg : Nat) : Except Trap Nat :=
  let o := off.toNat
  if 2 ^ 22 ≤ o || 4096 * (s.res s.focus).rows < o + n then .error ⟨3, s.me.issA, detailWord 8 o⟩
  else
    match (s.core (coreOf s.focus)).lentRow (s.me.task.getD 0) (o / 4096) ((o + n - 1) / 4096 - o / 4096 + 1) with
    | some h => .error ⟨5, s.me.issA, detailWord 1 h⟩
    | none => if o % 2 ^ lg ≠ 0 then .error ⟨4, s.me.issA, detailWord lg o⟩ else .ok o

/-- The first poisoned line of an own-scratchpad access, as its offset in the view (R331). -/
def Resident.poisonAt (r : Resident) (swz : Bool) (off n : Nat) : Option Nat :=
  ((linesOf off n).find? fun L => r.sp.poison.contains (viewLine swz L)).map (128 * ·)

/-- A line as a view reads it: a line the other view has written and no vjoin of the reading partition has joined may still read as
before that write, whole, with what the reader's own view has written since (R23). The reader's last vjoin is `vj`, and undefined bytes
are those of read `fr` (R8). -/
def State.viewRead (s : State) (r : Resident) (vj fr : Nat) (swz : Bool) (L : Nat) : Line :=
  let cur := r.sp.line fr L
  ((r.views.zipIdx).filter fun e => e.1.line = L && e.1.swz != swz && vj ≤ e.1.tick).foldl
    (fun x e => if Config.freeChoice (s.freeIx (4096 + e.2)) then e.1.old.read fr (128 * L) else x) cur

/-- n bytes of a scratchpad reservation from an offset in a view, for a reader whose last vjoin is `vj` (R22, R23). -/
def State.resRead (s : State) (r : Resident) (vj fr : Nat) (swz : Bool) (off n : Nat) : List Byte :=
  if !swz && r.views.isEmpty then r.sp.readN fr off n
  else
    (piecesFrom off n).flatMap fun (o, k) =>
      lineBytes (s.viewRead r vj fr swz (viewLine swz ((off + o) / 128))) ((off + o) % 128) k

/-- n bytes of partition p's scratchpad from an offset in a view, whose undefined bytes are those of read `fr` (R8, R22, R23). -/
def State.spReadAt (s : State) (p fr : Nat) (swz : Bool) (off n : Nat) : List Byte :=
  s.resRead (s.res p) (s.part p).regs.vj fr swz off n

/-- n bytes of partition p's scratchpad from an offset in a view (R22, R23). -/
def State.spRead (s : State) (p : Nat) (swz : Bool) (off n : Nat) : List Byte := s.spReadAt p s.fresh swz off n

/-- One line of the scratchpad takes bytes from offset `at`, in a view; `tent` for a write of the open interval. What this view may
still read as before a write of the other view takes them too, since a view always sees its own writes (R23). Its elements stand as
stored, with no addition since (R66). -/
def State.putLine (s : State) (r : Resident) (swz tent : Bool) (L at_ : Nat) (bs : List Byte) : Resident :=
  let keep (e : ViewLine) : ViewLine :=
    if e.line = L && e.swz != swz then
      { e with old := e.old.set at_ bs, base := if tent then e.base else e.base.set at_ bs }
    else e
  let now := r.sp.image s.fresh L
  { r with sp := r.sp.writeN (128 * L + at_) bs
           took := r.took.filter fun e => !(16 * e < 128 * L + at_ + bs.length && 128 * L + at_ < 16 * e + 16)
           views := r.views.map keep ++ [⟨L, now, swz, tent, now, s.fresh⟩] }

/-- Bytes written to a scratchpad reservation from an offset in a view (R22). -/
def State.spPut (s : State) (r : Resident) (swz tent : Bool) (off : Nat) (bs : List Byte) : Resident :=
  (piecesFrom off bs.length).foldl
    (fun r (o, k) => s.putLine r swz tent (viewLine swz ((off + o) / 128)) ((off + o) % 128) ((bs.drop o).take k)) r

/-- Lines that the partition's first write in an interval copies into the journal (R126). -/
def State.journalLines (s : State) (p : Nat) (ls : List Nat) : State :=
  let r := s.res p
  s.updPart p fun P =>
    { P with journal := ls.foldl (fun j L =>
        if j.any fun e => e.line = L then j
        else j ++ [⟨L, r.sp.image s.fresh L, r.sp.poison.contains L, r.took.filter fun e => e / 8 = L, false⟩]) P.journal }

/-- A register of the file as the granule that poison marks (R331). -/
def bankOf : Reg → RegBank
  | .s n => .ctl (.s n)
  | .p n => .ctl (.p n)
  | .v n => .v n
  | .m n => .m n

/-- A register of the partition in issue is poisoned (R331). -/
def State.regBad (s : State) (r : Reg) : Bool := s.me.rpoison.contains (bankOf r)

/-- Lines of a view marked poisoned: poisoned data have been written there (R331). -/
def State.spoilLines (s : State) (p : Nat) (swz : Bool) (off n : Nat) : State :=
  s.updRes p fun r => { r with sp := (linesOf off n).foldl (fun sp L => sp.addPoison (viewLine swz L)) r.sp }

/-- A write by partition p to its own scratchpad, journaled (R126), in a view. -/
def State.spWrite (s : State) (p : Nat) (swz : Bool) (off : Nat) (bs : List Byte) : State :=
  let s := s.journalLines p ((linesOf off bs.length).map (viewLine swz))
  s.updRes p fun r => s.spPut r swz true off bs

/-- vjoin (R23, R264): what has been written so far, in whatever reservation, reads the same in both views to partition p. -/
def State.joinViews (s : State) (p : Nat) : State :=
  s.updPart p fun P => { P with regs := { P.regs with vj := s.fresh + 1 } }

/-! ### Global loads and stores -/

/-- Values read at place k of the program order, for the input signature of a rerun; an operation that is computed again reads them
once (R337). -/
def Part.sawInput (P : Part) (k : Nat) (xs : List W64) : Part :=
  if P.rerun.isSome then { P with trIn := KMap.set P.trIn k xs } else P

/-- Values written or commanded at place k of the program order, for the output signature of a rerun (R337). -/
def Part.sawOutput (P : Part) (k : Nat) (xs : List W64) : Part :=
  if P.rerun.isSome then { P with trOut := KMap.set P.trOut k xs } else P

/-- Bytes as 64-bit words. -/
def words64 (bs : List Byte) : List W64 := (wordsOf 8 ((bs.length + 7) / 8) bs).map fun x => BitVec.ofNat 64 x

/-- The place in program order of partition p's operation in issue: by bundle of the interval, then by operation, with room for its parts
(R337). -/
def State.opKey (s : State) (p : Nat) : Nat := 65536 * (8 * (s.part p).nb + (7 - s.slots.length))

/-- Bytes read by partition p's operation in issue, after what it has read already (R337). -/
def State.noteIn (s : State) (p : Nat) (bs : List Byte) : State :=
  s.updPart p fun P => P.sawInput (s.opKey p) (KMap.get [] P.trIn (s.opKey p) ++ words64 bs)

/-- Words written or commanded by partition p's operation in issue, after what it has written already (R337). -/
def State.noteOut (s : State) (p : Nat) (xs : List W64) : State :=
  s.updPart p fun P => P.sawOutput (s.opKey p) (KMap.get [] P.trOut (s.opKey p) ++ xs)

/-- Bytes that an operation of partition p at place k of the program order has read (R337). -/
def State.noteInAt (s : State) (p k : Nat) (bs : List Byte) : State := s.updPart p fun P => P.sawInput k (words64 bs)

/-- Words that an operation of partition p at place k of the program order has written (R337). -/
def State.noteOutAt (s : State) (p k : Nat) (xs : List W64) : State := s.updPart p fun P => P.sawOutput k xs

/-- A withheld entry put at the end of the partition's store buffer (R76). -/
def State.withhold (s : State) (d : Deferred) : State := s.updMe fun P => { P with sb := P.sb ++ [d] }

/-- Store-buffer entries taken by the operation in issue (R130). -/
def State.takeEntries (s : State) (n : Nat) : State := s.updMe fun P => { P with sbn := P.sbn + n }

/-- A global store of the bundle in issue, withheld until its interval commits (R76, R83); the part in each line is a
piece (R73, R87). Data from a poisoned register stay poisoned (R331). -/
def State.storeGlobal (s : State) (x : Xlate) (va : W64) (bs : List Byte) (cls scope : Nat) (rel : Bool)
    (hint : BitVec 2) (bad : Bool) : State :=
  let s := s.noteOut s.focus (va :: words64 bs)
  (piecesFrom x.loc.addr bs.length).foldl (fun s (o, k) =>
    s.withhold (.store
      { loc := x.loc.add o, data := (bs.drop o).take k, cls := cls, scope := scope, rel := rel
        pol := x.ent.pol ||| hint, va := va + BitVec.ofNat 64 o, part := s.focus, task := s.me.task.getD 0
        asid := s.asidOn s.focus, op := s.fresh, seq := 0, before := [], inval := false, bad := bad })) s

/-- The pieces of an access of n bytes (R73): a part of one line, or of one 8-byte word of host memory. -/
def Loc.pieces (l : Loc) (n : Nat) : List (Nat × Nat) :=
  match l with
  | .hbm a => piecesFrom a n
  | .host a =>
    if n = 0 then []
    else (List.range ((a + n - 1) / 8 - a / 8 + 1)).map fun i =>
      (max a (8 * (a / 8 + i)) - a, min (a + n) (8 * (a / 8 + i) + 8) - max a (8 * (a / 8 + i)))

/-- A global read of the bundle in issue, interlocked (R120), after the stores the interval withholds so far (R70). A piece of a vector
read lands from element `elem` on. -/
def State.loadGlobal (s : State) (x : Xlate) (va : W64) (dst : Reg) (size : Nat) (sext : Bool) (cls scope : Nat)
    (hint : BitVec 2) (acq : Bool) (elem : Option Nat) : State :=
  let ps := (x.loc.pieces size).map fun (o, n) =>
    { dst := dst, loc := x.loc.add o, size := n, sext := sext, cls := cls, scope := scope
      pol := x.ent.pol ||| hint, acq := acq, sb := s.me.sb.length, op := s.fresh, rmw := none, elem := elem.map (· + o / 4)
      va := va + BitVec.ofNat 64 o, key := s.opKey s.focus + 4 * elem.getD 0 + o : Pend }
  s.updMe fun P => { P with pend := P.pend ++ ps }

/-- A loaded value of n bytes in a scalar register (R251). -/
def loaded (sext : Bool) (bs : List Byte) : W64 := extOf (8 * bs.length) (!sext) (leNat bs)

/-- Elements from e on replaced. -/
def Vec.patch (v : Vec) (e : Nat) (xs : List W32) : Vec := v.take e ++ xs ++ v.drop (e + xs.length)

/-- Elements of vector register d replaced, in the register and in every result still on its way to it: all of them are
earlier in program order, since a bundle that touches a pending register stalls (R119, R120). -/
def Part.patchV (P : Part) (d e : Nat) (xs : List W32) : Part :=
  { P with
    regs := { P.regs with v := setNth P.regs.v d (Vec.patch (nth [] P.regs.v d) e xs) }
    rpoison := if xs.length = 1024 then P.rpoison.filter fun r => r != .v d else P.rpoison
    flight := P.flight.map fun f =>
      match f.wr with
      | .v k y => if k = d then { f with wr := .v k (Vec.patch y e xs) } else f
      | _ => f }

/-- The k-th pending read of partition p performs with the bytes given, and its result lands (R69, R120). -/
def State.landPend (s : State) (p k : Nat) (x : Pend) (bs : List Byte) : State :=
  s.updPart p fun P =>
    let P := ({ P with pend := P.pend.eraseIdx k } : Part).sawInput x.key (words64 bs)
    match x.dst, x.elem with
    | .s d, _ => if d = 0 then P else P.issue (.s d (loaded x.sext bs)) 0
    | .v d, some e => P.patchV d e ((wordsOf 4 (bs.length / 4) bs).map fun w => BitVec.ofNat 32 w)
    | _, _ => P

/-- The pieces of a pending read that take a byte from its home: the task's own withheld stores do not supply the whole piece (R70, R73). -/
def State.homePieces (s : State) (p : Nat) (x : Pend) : List (Nat × Nat) :=
  let fwd := s.withheld p x.sb x.loc x.size
  (piecesFrom x.loc.addr x.size).filter fun q => (List.range q.2).any fun i => !fwd.any fun f => f.1 = q.1 + i

/-- The offset of the first byte of a pending read that is poisoned, or whose home is out of reach or refuses it, where the read takes it
from (R331, R332, R362). -/
def State.badByte (s : State) (p : Nat) (x : Pend) : Option Nat :=
  let home := if s.poisonedAt x.loc x.size then (s.homePieces p x).find? fun q => s.poisonedAt (x.loc.add q.1) q.2 else none
  match home.map Prod.fst, s.withheldSpoiled p x.sb x.loc x.size with
  | some a, some b => some (min a b)
  | some a, none => some a
  | none, b => b

/-- The virtual address of the first bad line of a pending read (R332). -/
def State.pendPoison (s : State) (p : Nat) (x : Pend) : Nat :=
  (x.va.toNat + ((s.badByte p x).getD 0)) / 128 * 128

/-- The space code of a place for POISON (R21). -/
def Loc.space : Loc → Nat
  | .hbm _ => 0
  | .host _ => 4

/-- An acquire of scope 2 or wider invalidates the core's L1 (R79). -/
def State.acquired (s : State) (p scope : Nat) : State :=
  if 2 ≤ scope then s.updCore (coreOf p) Core.cinv else s

/-- The elements of a gather or scatter that are not skipped, with their addresses, in ascending order (R254). -/
def gatherElems (base : W64) (ix : Vec) : List (Nat × W64) :=
  (ix.zipIdx).filterMap fun (x, e) => if x = 0x80000000 then none else some (e, base + x.signExtend 64)

/-- The destination package and the ordering lane of an access to another package (R86). -/
def State.laneOf (s : State) (l : Loc) : Option (Nat × Nat) :=
  match l with
  | .hbm a => if s.isOwn a then none else some (a / 2 ^ 42, Config.laneHash (a / 2 ^ 42) (a / 128) % 16)
  | .host _ => none

/-- The Galtum Link port that carries an access to a place in another package (R86, R360). -/
def State.portFor (s : State) (l : Loc) : Option Nat := (s.laneOf l).map fun x => s.route x.1 x.2

/-- The lane of a place takes a request: it is not paused, its port is not retraining and its replay buffer has room (R359, R360). -/
def State.laneOpen (s : State) (l : Loc) : Bool :=
  match s.laneOf l with
  | none => true
  | some (pkg, lane) =>
    let x := KMap.get Port.down s.ports (s.route pkg lane)
    !x.up || (!x.training && x.replay < 1024 && !x.paused.getLsbD lane)

/-- A request to a place can be sent, behind those that wait for its lane (R359, R360). -/
def State.wayOpen (s : State) (l : Loc) : Bool :=
  s.laneOpen l && !s.outbox.any fun e => s.laneOf e.1 = s.laneOf l

/-- A request goes out on the port of its lane as one flit; the lane stays on that port (R16, R360). -/
def State.emit (s : State) (l : Loc) (r : RemoteReq) : State :=
  match s.laneOf l with
  | none => s
  | some (pkg, lane) =>
    let n := s.route pkg lane
    { s.putFlits n 1 with lmsgs := .req n pkg r :: s.lmsgs, routes := KMap.set s.routes (laneKey pkg lane) n }

/-- The request of an access to another package is sent to its home, or waits for its lane (R16, R359, R360); `r` names it by its address
there. -/
def State.sent (s : State) (l : Loc) (r : Nat → RemoteReq) : State :=
  match l with
  | .hbm a =>
    if s.isOwn a then s
    else if s.wayOpen l then s.emit l (r (a % 2 ^ 42))
    else { s with outbox := s.outbox ++ [(l, r (a % 2 ^ 42))] }
  | .host _ => s

/-- What has waited for a lane or for room in a replay buffer goes out as far as it can, in its order (R359, R360). -/
def State.flush (s : State) : State :=
  let s := s.outbox.foldl (fun s x => if s.wayOpen x.1 then s.emit x.1 x.2 else { s with outbox := s.outbox ++ [x] }) { s with outbox := [] }
  s.peerq.foldl State.peerSend { s with peerq := [] }

/-- The request of an atomic (R16, R82). -/
def Rmw.req (f : Rmw) (n a : Nat) : RemoteReq :=
  match f with
  | .atom op y => .atom a n op (BitVec.ofNat 64 y)
  | .cas e y => .cas a n (BitVec.ofNat 64 e) (BitVec.ofNat 64 y)

/-- The new value of atom on w-bit operands (R151, R256). -/
def atomNew (w : Nat) (o : BitVec 3) (old y : Nat) : Nat :=
  match o.toNat with
  | 0 => (old + y) % 2 ^ w
  | 1 => old &&& y
  | 2 => old ||| y
  | 3 => old ^^^ y
  | 4 => if sintOf w old ≤ sintOf w y then old else y
  | 5 => if sintOf w old ≤ sintOf w y then y else old
  | _ => y

/-- What an atomic writes over a w-bit operand, if anything (R256, R257). -/
def Rmw.new (r : Rmw) (w old : Nat) : Option Nat :=
  match r with
  | .atom op y => some (atomNew w op old y)
  | .cas e y => if old = e then some y else none

/-- The AT messages of BHP carry add, xchg and cas alone (R348). Whether the SV9 performs the other operations of `atom` on host memory
all the same, as R256 and R351 say, or the host turns them away as UNSUP, is a part's own (assumption 85). -/
def Rmw.carried (f : Rmw) : Bool :=
  match f with
  | .atom op _ => op = 0 || op = 6 || Config.hostAtomics
  | .cas .. => true

/-- The atomic of the bundle in issue of partition p performs on the operand of n bytes at its home, indivisibly (R82, R256, R257). A
write its snapshot arena refuses does not perform and raises SHADOWFULL (R109). `k` is its place in program order. -/
def State.atomAt (s : State) (p k : Nat) (l : Loc) (va : W64) (n : Nat) (pol : BitVec 2) (t : Nat) (f : Rmw) : State :=
  if s.poisonedAt l n || (l.isHost && !f.carried) then s.consume p l.space (va.toNat / 128 * 128)
  else if s.farAnswer l fun x => x = .arena then s.trap p ⟨8, (s.part p).issA, BitVec.ofNat 64 (va.toNat / 128 * 128)⟩
  else
    let s := (s.sent l (f.req n)).told l n
    let bs := s.readHome l n
    let old := leNat bs
    let s' := match f.new (8 * n) old with
      | none => some (s.touch l n false pol)
      | some y => (s.touch l n true pol).writeHome l (leBytes n y)
    match s' with
    | none => s.trap p ⟨8, (s.part p).issA, BitVec.ofNat 64 (va.toNat / 128 * 128)⟩
    | some s =>
      let s := s.updCore (coreOf p) fun c => c.cinvLine l
      (s.noteInAt p k bs).updPart p fun P => if t = 0 then P else P.issue (.s t (extOf (8 * n) false old)) 0

/-- An acquire of partition p has read what its own stores that have not performed hold: where such a store is a release, commands that
follow in the acquire's class wait for it (R81, R373). -/
def State.acqOwn (s : State) (p : Nat) (x : Pend) : State :=
  let ws := (s.ownStores p x.sb).filter fun g =>
    !(g.cover x.loc x.size).isEmpty && (g.rel || s.released.any fun y => y.before.any fun f => f.1.getLsbD g.cls)
  if ws.isEmpty then s
  else
    let left := (s.ownStores p (s.part p).sb.length).map GStore.op
    s.updPart p fun P =>
      { P with regs := { P.regs with acq := (ws.map fun g => (x.cls, g.op)) ++ P.regs.acq.filter fun e => left.contains e.2 } }

/-- The k-th pending read of partition p performs at its source (R70), and so does an atomic that waits for its home (R82), which
seals its interval (R125); a poisoned one is consumed, at its home or in the store buffer (R331, R332). -/
def State.performPend (s : State) (p k : Nat) : State :=
  match (s.part p).pend[k]? with
  | none => s
  | some x =>
    match x.rmw, x.dst with
    | some f, .s d =>
      let rb := (s.part p).rb
      let s := (s.updPart p fun P => { P with pend := P.pend.eraseIdx k }).atomAt p x.key x.loc x.va x.size x.pol d f
      if (s.part p).rb = rb then s.updPart p fun P => { P with sealed := true } else s
    | _, _ =>
      if (s.badByte p x).isSome then s.consume p x.loc.space (s.pendPoison p x)
      else
        let fwd := s.withheld p x.sb x.loc x.size
        let (bs, s) :=
          if (s.homePieces p x).isEmpty then (fwdBytes fwd (List.replicate x.size 0), s)
          else
            let s := (s.sent x.loc fun a => .read a x.size).told x.loc x.size
            let l1ok := (!x.acq || x.scope < 2) && s.ans.isNone
            s.readGlobal (coreOf p) x.loc x.size x.pol l1ok fwd
        let s := s.landPend p k x bs
        if x.acq then (s.acqOwn p x).acquired p x.scope else s

/-- Two reads of one partition that keep program order: one class, or one location (R72, R77); two plain reads of one class at
homes outside the package only in one line (R86). The pieces of one access keep none (R87; assumption
57). -/
def State.readsOrdered (s : State) (x y : Pend) : Bool :=
  let near := s.localHome x.loc || s.localHome y.loc || x.acq || y.acq || x.rmw.isSome || y.rmw.isSome
  let same := match x.loc, y.loc with | .hbm _, .hbm _ => true | .host _, .host _ => true | _, _ => false
  x.op ≠ y.op &&
  ((x.cls = y.cls && (near || (same && x.loc.line = y.loc.line))) ||
    (same && x.loc.addr < y.loc.addr + y.size && y.loc.addr < x.loc.addr + x.size))

/-- A released store of the task that a fence puts before later accesses of the class (R78). -/
def State.fenceHolds (s : State) (task : Option W64) (cls : Nat) : Bool :=
  s.released.any fun g => some g.task == task && g.before.any fun f => f.1.getLsbD cls

/-- The k-th pending read may perform: no earlier one is ordered before it, no fence holds it, and its way is open (R72, R77,
R78, R359); an atomic waits for a check that has failed to be served (R125). -/
def State.pendReady (s : State) (p k : Nat) : Bool :=
  let P := s.part p
  match P.pend[k]? with
  | none => false
  | some x =>
    !((P.pend.take k).any fun y => s.readsOrdered y x) && !s.fenceHolds P.task x.cls && s.wayOpen x.loc && !(x.rmw.isSome && P.vane)

end Sys2Proof.Machine
end

