-- ==== Sys2Proof/Machine/Tasks.lean ====
section
/-! DEFINITION. Where tasks stand: the spill pool (R324, R379), handles of a task (R36), victims and relocation (R45, R46,
R375, R376), and quarantine (R338). -/

namespace Sys2Proof.Machine

/-- Set bits of a mask. -/
def popcount {w : Nat} (x : BitVec w) : Nat := ((List.range w).filter fun i => x.getLsbD i).length

/-! ### Islands -/

/-- The control, matrix and tile-store island of a core (R365). -/
def coreIsland (c k : Nat) : Nat := 3 * c + k

/-- The island of a Galtum Link port (R365). -/
def portIsland (n : Nat) : Nat := 1216 + n

/-- The memory controller island of the stack that holds a local address (R15, R365). -/
def memIsland (a : Nat) : Nat := 1200 + 2 * (a % 2 ^ 39 / 2 ^ 36)

/-! ### The spill pool -/

/-- The first unit at or after u that is not in use, looking at most n units on. -/
def freeUnit (used : List Nat) : Nat → Nat → Nat
  | 0, u => u
  | n + 1, u => if used.contains u then freeUnit used n (u + 1) else u

/-- The lowest k units that are not in use. -/
def freeUnits (used : List Nat) : Nat → List Nat
  | 0 => []
  | k + 1 =>
    let u := freeUnit used used.length 0
    u :: freeUnits (u :: used) k

/-- The local address of a pool unit. -/
def State.unitAddr (s : State) (u : Nat) : Nat := s.poolBase + 16384 * u

/-- k units of the pool taken, when as many are free (R379); their bytes are Meridian's own from then on. -/
def State.poolTake (s : State) (k : Nat) : Option (List Nat × State) :=
  if s.poolUnits < s.poolUsed.length + k then none
  else
    let us := freeUnits s.poolUsed k
    let mem := us.foldl (fun m u => m.undefine (s.own (s.unitAddr u)) 16384) s.mem
    some (us, { s with poolUsed := us ++ s.poolUsed, mem := mem })

/-- Units returned to the pool. -/
def State.poolFree (s : State) (us : List Nat) : State :=
  { s with poolUsed := s.poolUsed.filter fun u => !us.contains u }

/-- The units of a context block that starts at a unit (R322). -/
def blockRun (u : Nat) : List Nat := (List.range 9).map (u + ·)

/-- A context block of nine units in one run, the lowest that is free (R324). -/
def State.blockTake (s : State) : Option (Nat × State) :=
  let starts := (0 :: s.poolUsed.map (· + 1)).filter fun u =>
    u + 9 ≤ s.poolUnits && (blockRun u).all fun v => !s.poolUsed.contains v
  match starts with
  | [] => none
  | u :: us =>
    let b := us.foldl min u
    some (s.unitAddr b, { s with poolUsed := blockRun b ++ s.poolUsed })

/-- The units of the context block at an address. -/
def State.blockUnits (s : State) (block : Nat) : List Nat := blockRun ((block - s.poolBase) / 16384)

/-- The units an image set of a record's tasks takes (R379). -/
def Rec.imageUnits (r : Rec) : Nat :=
  (4096 * r.sprows + 8192 * r.tsu + 20480 * popcount r.tiles + 262144 + 16383) / 16384

/-- The record of a task's launch. -/
def State.recOf (s : State) (t : Task) : Rec :=
  match s.launch t.lid with
  | some l => l.record
  | none => serviceRec 0

/-- The image set of a task fits the free part of the pool (R379). -/
def State.imagesFit (s : State) (t : Task) : Bool := s.poolUsed.length + (s.recOf t).imageUnits ≤ s.poolUnits

/-- The image set of a task written to the pool, when it fits (R379). -/
def State.writeImages (s : State) (t : Task) : State :=
  match s.poolTake (s.recOf t).imageUnits with
  | none => s
  | some (us, s) => s.updTask t.id fun t => { t with images := us }

/-- The image set of a task freed (R379). -/
def State.dropImages (s : State) (t : Task) : State :=
  (s.poolFree t.images).updTask t.id fun t => { t with images := [] }

/-! ### Handles of a task -/

/-- A core of the same cluster by its number within the cluster (R35). -/
def peerCore (c k : Nat) : Nat := c / 8 * 8 + k

/-- The binding of a lent entry h of core c, while it stands (R36); the home entry of a bound one stays as it is. -/
def State.bindingOf (s : State) (c h : Nat) (e : Handle) : List (Nat × Nat) :=
  let d := peerCore c e.peer
  match KMap.find (s.core d).handles e.peerh with
  | some b => if e.state = 2 && b.state = 3 && peerCore d b.peer = c && b.peerh = h then [(d, e.peerh)] else []
  | none => []

/-- The handle entries of a task, and the bindings of those it has lent (R36). -/
def State.handlesOf (s : State) (id : W64) : List (Nat × Nat) :=
  s.cores.flatMap fun (c, x) => (x.handles.filter fun e => e.2.owner == id).flatMap fun (h, e) => (c, h) :: s.bindingOf c h e

/-- A handle entry freed. -/
def State.dropHandle (s : State) (e : Nat × Nat) : State :=
  s.updCore e.1 fun c => { c with handles := KMap.del c.handles e.2 }

/-- Every handle entry of a task freed, a lent one at both ends (R36, R303). -/
def State.freeHandles (s : State) (id : W64) : State := (s.handlesOf id).foldl State.dropHandle s

/-- The task has an entry in state 1, 2 or 3 (R46, R325). -/
def State.hasHandles (s : State) (id : W64) : Bool :=
  s.cores.any fun e => e.2.handles.any fun h => h.2.owner == id && !h.2.resv

/-! ### Fit and victims -/

/-- Tasks whose resident state stands on a core. -/
def State.residents (s : State) (c : Nat) : List Task := s.tasks.filter fun t => t.core == some c

/-- Rows, units, tiles and rings that the reservations of some tasks take. -/
def State.reserved (s : State) (ts : List Task) : Nat × Nat × Nat × Nat :=
  ts.foldl (fun (a, b, d, e) t =>
    let r := s.recOf t
    (a + r.sprows, b + r.tsu, d + popcount r.tiles, e + popcount r.rings)) (0, 0, 0, 0)

/-- The reservations of some tasks exceed a core's capacity (R45). -/
def State.overfull (s : State) (c : Nat) (ts : List Task) : Bool :=
  let (a, b, d, _) := s.reserved ts
  s.capRows c < a || s.capUnits c < b || s.capTiles c < d

/-- A task's `exit` has committed its interval (R376). -/
def State.isExiting (s : State) (t : Task) : Bool :=
  match t.st with
  | .running p => (s.part p).exiting.isSome && !(s.part p).datumAfter
  | .ending => true
  | _ => false

/-- The task stops fitting whatever else is resident: its partition has left service (R25), or it holds a ring or a tile
and the matrix engine is unusable (R29). -/
def State.misfit (s : State) (c : Nat) (t : Task) : Bool :=
  let r := s.recOf t
  (match t.st with
    | .running p => !s.inService c (p % 4)
    | _ => false) ||
  ((r.rings != 0 || r.tiles != 0) && !s.capMx c)

/-- t is chosen before u (R45): its partition has left service, then the lower priority, then the later dispatch. -/
def State.victimFirst (s : State) (c : Nat) (t u : Task) : Bool :=
  let out (x : Task) : Nat := match x.st with | .running p => (s.inService c (p % 4)).toNat | _ => 1
  let key (x : Task) : Nat × Nat := (out x, (s.recOf x).prio)
  if key t = key u then u.dispatchedAt < t.dispatchedAt
  else (key t).1 < (key u).1 || ((key t).1 = (key u).1 && (key t).2 < (key u).2)

/-- The first of a list under an order. -/
def pick {α : Type} (before : α → α → Bool) : List α → Option α
  | [] => none
  | x :: xs =>
    match pick before xs with
    | none => some x
    | some y => some (if before y x then y else x)

/-- The next victim of a core: a task that stops fitting by itself, or while the reservations exceed the capacity the first
in the order of R45. A task whose `exit` has committed is no victim, and the rest need not make room for it (R376). -/
def State.nextVictim (s : State) (c : Nat) : Option Task :=
  let ts := (s.residents c).filter fun t => !s.isExiting t && t.images.isEmpty
  match pick (s.victimFirst c) (ts.filter (s.misfit c)) with
  | some t => some t
  | none => if s.overfull c ts then pick (s.victimFirst c) ts else none

/-- Why a victim is not relocated, as the reason of OVERCAP (R46, R317). -/
def State.keptBy (s : State) (t : Task) : Option Nat :=
  if (s.recOf t).noreloc then some 1
  else if s.hasHandles t.id then some 2
  else if s.imagesFit t then none
  else some 3

/-- The resident state of a task is lost with its resources (R46). What a task resumed after OVERCAP would find is not stated: in the
model its scratchpad reads undefined, its rings and stationary buffers are empty, and its accumulator tiles read as they did
(assumption 55). -/
def Resident.lost (r : Resident) : Resident :=
  { r with sp := { Store.zero with undef := [(0, 4096 * r.rows)] }, views := [], took := [], rings := [], stat := Stat.empty }

/-- A victim that is not relocated: its resources are freed (R46). -/
def State.freeResources (s : State) (id : W64) : State :=
  (s.freeHandles id).updTask id fun t => { t with core := none, res := t.res.lost }

/-- OVERCAP taken by a victim (R46): as a trap when it runs, and by its saved context otherwise, whose record it overwrites when a
trap already holds the task; the resume address is the one its block holds, as a service task may have left it (R318, R320). -/
def State.overcap (s : State) (t : Task) (reason reg : Nat) : State :=
  let detail : W64 := BitVec.ofNat 64 (reason * 2 ^ 56 + reg)
  match t.st with
  | .running p => s.trapNow p ⟨11, (s.part p).dup.pc, detail⟩
  | .ending => s
  | .saved | .trapped =>
    match s.launch t.lid, t.ctx with
    | some l, some c =>
      let pc : W64 := BitVec.ofNat 64 (s.getMem (t.block + 0x30) 8)
      let s := s.writeRecord t.block pc ⟨11, pc, detail⟩
      let s := s.putMem (t.block + 0x28)
        (leBytes 8 (stateWord 4 c.rr.isSome c.sus c.gl c.exh c.regs.cm c.grace))
      (s.updTask t.id fun t => { t with st := .trapped, why := 4 }).reportTrap t.id t l 11
    | _, _ => s

/-- Partition p rolls back to leave its datum, as f says; poison of its own that the rollback meets is a trap first (R332). -/
def State.leave (s : State) (p : Nat) (f : State → State) : State :=
  let s := s.rollback p
  if (s.part p).ownBad.isSome then s.trapNow p ⟨9, (s.part p).dup.pc, 0⟩ else f s

/-- A running task is rolled back and saved with WHY 5 and the record of R375. -/
def State.moveOff (s : State) (p : Nat) (t : Task) (reg : Nat) : State :=
  s.leave p fun s =>
    let pc := (s.part p).regs.pc
    (s.writeRecord t.block pc ⟨11, pc, BitVec.ofNat 64 (4 * 2 ^ 56 + reg)⟩).save p 5

/-- A victim removed from its core (R45, R46): its images go to the pool and it waits for a core where it fits, or it takes
OVERCAP. -/
def State.removeVictim (s : State) (t : Task) (reg : Nat) : State :=
  match s.keptBy t with
  | some r => (s.overcap t r reg).freeResources t.id
  | none =>
    let s := match t.st with | .running p => s.moveOff p t reg | _ => s
    (s.writeImages t).updTask t.id fun t => { t with core := none }

/-- Victims removed until the rest fits, at most n of them (R45). -/
def State.removeVictims (s : State) (c reg : Nat) : Nat → State
  | 0 => s
  | n + 1 =>
    match s.nextVictim c with
    | none => s
    | some t => (s.removeVictim t reg).removeVictims c reg n

/-! ### Quarantine -/

/-- One task of a quarantined core is stopped (R338): relocated, kept on the core for the self-test with its images in the
pool, or without room for them taken off by OVERCAP with reason 3. -/
def State.quarantineTask (s : State) (t : Task) : State :=
  let keep := (s.recOf t).noreloc || s.hasHandles t.id
  if !s.imagesFit t then (s.overcap t 3 7).freeResources t.id
  else
    let s := match t.st with
      | .running p => if keep then s.leave p fun s => s.save p 1 else s.moveOff p t 7
      | _ => s
    let s := s.writeImages t
    if keep then s else s.updTask t.id fun t => { t with core := none }

/-- What a way of L1 or of the memory-side cache holds is given up: an L1 way drops its lines (R30), and a way of a slice writes its own
back (R31). The other classes hold nothing of that kind. -/
def State.dropLines (s : State) (c idx : Nat) : State :=
  if chartClass idx = 6 then s.updCore c fun x => { x with l1 := x.l1.filter fun e => e.way ≠ chartPhys idx }
  else if chartClass idx = 7 then s.dropWay (clusterOf c) (chartPhys idx)
  else s

/-- A core is quarantined (R338): the implicated entries in use enter state 4, dispatch stops, and every task that is not
exiting is stopped. Nothing uses those entries until its self-test decides (R39, R339). -/
def State.quarantine (s : State) (c : Nat) (implicated : List Nat) : State :=
  let s := implicated.foldl (fun s i =>
    if (s.chartAt c i).state = 0 then (s.setChart c i fun e => { e with state := 4 }).dropLines c i else s) s
  let s := s.updCore c fun c => { c with quar := true }
  let ts := (s.residents c).filter fun t => !s.isExiting t && t.images.isEmpty
  let s := ts.foldl State.quarantineTask s
  s.log 14 3 (coreIsland c 0) c 0 ((implicated.head?).getD 0x1FF) 0 0

end Sys2Proof.Machine
end

