-- ==== Sys2Proof/Machine/Reliab.lean ====
section
/-! DEFINITION. From a failed check to a rerun pair, quarantine or UNCORR (R336 to R338, R341), and the counts of errors
(R340, R343). -/

namespace Sys2Proof.Machine

/-- The physical column that serves a logical one (R341). -/
def State.columnOf (s : State) (c j : Nat) : List Nat :=
  (classIdx 5 0).filter fun i => (s.chartAt c i).good && (s.chartAt c i).logical = j

/-- Every physical row and column of the array (R341). -/
def arrayIdx : List Nat := classIdx 4 0 ++ classIdx 5 0

/-- The entries a failing pattern of rows and columns implicates (R341). -/
def State.implicated (s : State) (c : Nat) (fc : List Nat) : List Nat :=
  match fc with
  | [j] => if j < 64 then s.columnOf c j else arrayIdx
  | _ => arrayIdx

/-- The last word of a log record of a matrix kind (R345). -/
def patternWord (fr fc : List Nat) : Nat :=
  fr.length * 2 ^ 56 + fc.length * 2 ^ 48 + fr.headD 0 * 2 ^ 40 + fc.headD 0 * 2 ^ 32

/-- ERRS of a Chart entry increased by one (R38, R341), with its cycle when it rises. -/
def State.addErr (s : State) (c i : Nat) : State :=
  s.setChart c i fun e =>
    if 0xFFFF ≤ e.errs then e else { e with errs := e.errs + 1, recent := (s.cyc :: e.recent).take 64 }

/-- The record of a failure that has led to an outcome (R345). -/
def State.logCause (s : State) (k : Cause) (outcome : Nat) : State :=
  s.logAt k.cyc k.kind outcome k.island k.core k.part k.idx 0 k.last

/-- The failure that put a task into rerun mode, while no pair of it has passed: kept by its partition while it runs and in its
context while it is saved (R337). -/
def State.causeOf (s : State) (t : Task) : Option Cause :=
  match t.st with
  | .running p => (s.part p).rerun.map Rerun.cause
  | _ => t.ctx.bind Ctx.rr

/-- A task ends before its rerun pair has: what started the pair is recorded with the trap that ended the task (R344, R345;
assumption 88). -/
def State.logLeft (s : State) (t : Task) : State :=
  match s.causeOf t with
  | some k => s.logCause k 5
  | none => s

/-- A fault that correction and recompute did not clear (R336): rollback and a rerun pair; a failure of the pair
quarantines the core and marks the task suspect; a suspect's matrix failure is UNCORR, given as `unc`. What started the pair is
recorded with what ends it (R238, R344). -/
def State.pairFailed (s : State) (p : Nat) (implicated : List Nat) (cause : Cause) (unc : Option Trap) : State :=
  let P := s.part p
  match P.rerun with
  | none =>
    ((s.rollback p).updPart p fun P => { P with rerun := some ⟨1, 0, 0, 0, cause, false⟩ }).dropSlots p
  | some r =>
    let uncorr : Option Trap := if P.sus then unc else none
    let done (s : State) (outcome : Nat) : State :=
      let s := if r.cause = cause then s else s.logCause r.cause outcome
      s.logCause cause outcome
    match uncorr with
    | some tr => (done (s.updPart p fun P => { P with rerun := none, sus := false }) 5).trapNow p tr
    | none =>
      let s := (s.rollback p).updPart p fun P => { P with sus := true }
      ((done s 3).quarantine (coreOf p) implicated).dropSlots p

/-- A matrix check of partition p that still fails (R238, R239, R334): source, ring, tile, failing rows and columns, and the
address of the issuing bundle. -/
def State.checkFailed (s : State) (p src q t : Nat) (fr fc : List Nat) (pc : W64) : State :=
  let c := coreOf p
  let isl := coreIsland c (if src = 3 then 2 else 1)
  let s := (s.updCore c fun x => x.addRerun 1).countErr isl 0 1 0
  let imp := if src = 3 then [] else if src = 2 then arrayIdx else s.implicated c fc
  let cause : Cause := ⟨if src = 3 then 11 else 10, isl, c, p % 4, imp.headD 0x1FF, s.cyc, patternWord fr fc⟩
  s.pairFailed p imp cause
    (some ⟨10, pc, BitVec.ofNat 64 (src * 2 ^ 56 + q * 2 ^ 48 + t * 2 ^ 40)⟩)

/-- A Vane mismatch (kind 6) or a residue mismatch (kind 7) of partition p (R328, R330, R341). -/
def State.mismatch (s : State) (p kind : Nat) : State :=
  let isl := coreIsland (coreOf p) 0
  let imp := classIdx 0 (p % 4)
  (s.countErr isl 0 1 0).pairFailed p imp ⟨kind, isl, coreOf p, p % 4, imp.headD 0x1FF, s.cyc, 0⟩ none

/-- The result of an element operation of partition p is written: a fault in its logic shows in the residue (R330). -/
def State.residueCheck (s : State) (p : Nat) : State := if (s.part p).residue then s.mismatch p 7 else s

/-! ### The Vane copy -/

/-- The loops with the counter of loop k changed by a difference. -/
def addLoop (ls : List Loop) (k : Nat) (x : W64) : List Loop :=
  ls.mapIdx fun i l => if i = k then { l with n := (l.n + x.toNat) % 2 ^ 64 } else l

/-- A partition with the value that the Vane copy holds of one control register (R329). -/
def Part.withVane (P : Part) (d : CtlReg × W64) : Part :=
  match d with
  | (.s n, x) => { P with regs := { P.regs with s := setNth P.regs.s n (nth 0 P.regs.s n + x) } }
  | (.p n, _) => { P with regs := { P.regs with p := P.regs.p ^^^ BitVec.twoPow 16 n } }
  | (.lc k, x) =>
    if k < P.regs.loops.length then { P with regs := { P.regs with loops := addLoop P.regs.loops k x } }
    else { P with regs := P.regs.setLc k (P.regs.lc k + x) }
  | (.bgi, x) => { P with bgi := P.bgi + x.toInt }
  | (.bgm, x) => { P with bgm := P.bgm + x.toInt }
  | (.cont, x) => { P with regs := { P.regs with cont := P.regs.cont + x } }

/-- The partition as its Vane copy holds it (R328, R329). -/
def Part.vaneCopy (P : Part) : Part := P.vdiff.foldl Part.withVane P

/-- The value of a control register that the Vane copy holds too (R329). -/
def Part.ctl (P : Part) : CtlReg → W64
  | .s n => nth 0 P.regs.s n
  | .p n => BitVec.ofNat 64 (P.regs.p.getLsbD n).toNat
  | .lc k => P.regs.lc k
  | .bgi => BitVec.ofInt 64 P.bgi
  | .bgm => BitVec.ofInt 64 P.bgm
  | .cont => P.regs.cont

/-- A register of the control state that a strike can reach: s0 and p0 hold nothing (R114). -/
def ctlReal : CtlReg → Bool
  | .s n => 0 < n && n < 32
  | .p n => 0 < n && n < 8
  | .lc k => k < 2
  | .bgi | .bgm | .cont => true

/-- The change that the inversion of a bit makes to a value of a register: a balance has 48 bits and a sign. -/
def ctlFlip (r : CtlReg) (x : W64) (bit : Nat) : W64 :=
  match r with
  | .p _ => 1
  | .bgi | .bgm =>
    let y : BitVec 48 := x.setWidth 48
    (y ^^^ BitVec.twoPow 48 (bit % 48)).signExtend 64 - y.signExtend 64
  | _ => (x ^^^ BitVec.twoPow 64 (bit % 64)) - x

/-- The Vane copy's difference in a register changed by x; a predicate differs or does not. -/
def Part.addDiff (P : Part) (r : CtlReg) (x : W64) : Part :=
  let old := match P.vdiff.find? fun d => d.1 = r with | some d => d.2 | none => 0
  let y := match r with | .p _ => old ^^^ 1 | _ => old + x
  { P with vdiff := (if y = 0 then [] else [(r, y)]) ++ P.vdiff.filter fun d => d.1 ≠ r }

/-- A bit of a control register inverts (R329), in the partition when `own`, or in its Vane copy. -/
def Part.flipCtl (P : Part) (r : CtlReg) (bit : Nat) (own : Bool) : Part :=
  if !ctlReal r then P
  else if own then
    let x := ctlFlip r (P.ctl r) bit
    (P.withVane (r, x)).addDiff r (-x)
  else P.addDiff r (ctlFlip r (P.vaneCopy.ctl r) bit)

/-- CRC-64 with the ECMA-182 polynomial, one byte on: from 0, most significant bit first, no final inversion (R337; assumption 9). -/
def crcByte (c : W64) (b : Byte) : W64 :=
  (List.range 8).foldl (fun c _ => if c.getLsbD 63 then (c <<< 1) ^^^ 0x42F0E1EBA9EA3693 else c <<< 1)
    (c ^^^ (b.setWidth 64 <<< 56))

/-- The signature of a sequence of values (R337): the CRC over their little-endian bytes (assumption 9). -/
def signature (xs : List W64) : W64 := xs.foldl (fun c x => (leBytes 8 x.toNat).foldl crcByte c) 0

/-- A recompute or reread is counted and logged (R238, R242, R345). -/
def State.recomputed (s : State) (p k : Nat) (fr fc : List Nat) : State :=
  let c := coreOf p
  let kind := if k = 2 then 11 else 9
  (s.updCore c fun x => x.addRecomp 1).log kind 1 (coreIsland c k) c (p % 4) 0x1FF 0 (patternWord fr fc)

end Sys2Proof.Machine
end

