-- ==== Sys2Proof/Machine/Tiles.lean ====
section
/-! DEFINITION. Checked tiles: images in memory (R58 to R61), checksums and their verification (R55, R57, R206), conversion,
quantising and transposing of tiles (R193, R196, R231), and accumulator tiles (R63). -/

namespace Sys2Proof.Machine

/-- The format is integer: i8 or n8 (R52). -/
def isIntFmt (f : BitVec 4) : Bool := f = 9 || f = 10

/-- The format is MX (R54). -/
def isMxFmt (f : BitVec 4) : Bool := f = 6 || f = 7 || f = 8

/-- A format of R58. -/
def imageFmt (f : BitVec 4) : Bool := f.toNat ≤ 4 || isMxFmt f || isIntFmt f

/-- Element width W of a tile format in bits. -/
def elemBits (f : BitVec 4) : Nat := (fmtOf f).width

/-- Row bytes of R58. -/
def rowBytes (f : BitVec 4) : Nat := 8 * elemBits f

/-- Where the data region starts (R58). -/
def dataStart (f : BitVec 4) : Nat := if isMxFmt f then 128 else 0

/-- Where the tail starts (R58). -/
def tailStart (f : BitVec 4) : Nat := dataStart f + 64 * rowBytes f

/-- Total bytes of an image (R58). -/
def imageSize (f : BitVec 4) : Nat := tailStart f + 640

/-- The block of element (i, j): row-blocked, or column-blocked when cb (R60). -/
def blockOf (cb : Bool) (i j : Nat) : Nat := if cb then 2 * j + i / 32 else 2 * i + j / 32

/-- Element encoding (i, j). -/
def TileData.enc (t : TileData) (i j : Nat) : Nat := (nth 0 t.el (64 * i + j)).toNat

/-- The scale of element (i, j). -/
def TileData.scale (t : TileData) (i j : Nat) : Byte := nth 0 t.sc (blockOf t.cb i j)

/-- D[i][j] of R55. -/
def TileData.value (t : TileData) (i j : Nat) : FV := elemValue t.fmt (t.scale i j) (t.enc i j)

/-- The values of a tile, row after row. -/
def TileData.values (t : TileData) : List FV :=
  (List.range 4096).map fun e => t.value (e / 64) (e % 64)

/-- Row i of a list of 64 x 64 values. -/
def rowOf (vs : List FV) (i : Nat) : List FV := (vs.drop (64 * i)).take 64

/-- Column j of a list of 64 x 64 values. -/
def colOf (vs : List FV) (j : Nat) : List FV := (List.range 64).map fun i => nth .nan vs (64 * i + j)

/-- A tile with the checksums of R55 over its values. -/
def TileData.summed (t : TileData) : TileData :=
  let vs := t.values
  { t with csc := (List.range 64).map fun i => rnd32 (rowOf vs i)
           csr := (List.range 64).map fun j => rnd32 (colOf vs j)
           csz := rnd32 vs }

/-- The w-bit fields of a run of bytes, as many as n (R53, R59). -/
def fieldsOf (w n : Nat) (bs : List Byte) : List W32 :=
  if w = 4 then (bs.take (n / 2)).flatMap fun b => [BitVec.ofNat 32 (b.toNat % 16), BitVec.ofNat 32 (b.toNat / 16)]
  else (wordsOf (w / 8) n bs).map fun x => BitVec.ofNat 32 x

/-- The bytes of w-bit fields (R53, R59). -/
def fieldBytes (w : Nat) : List W32 → List Byte
  | [] => []
  | x :: xs =>
    if w = 4 then
      match xs with
      | [] => [BitVec.ofNat 8 (x.toNat % 16)]
      | y :: ys => BitVec.ofNat 8 (x.toNat % 16 + 16 * (y.toNat % 16)) :: fieldBytes w ys
    else leBytes (w / 8) x.toNat ++ fieldBytes w xs

/-- Runs of n fp32 words. -/
def f32sOf (n : Nat) (bs : List Byte) : List W32 := (wordsOf 4 n bs).map fun x => BitVec.ofNat 32 x

/-- A tile read from its image (R58 to R61). -/
def TileData.ofImage (f : BitVec 4) (cb : Bool) (bs : List Byte) (poison : Bool) : TileData :=
  { fmt := f, cb := cb
    el := fieldsOf (elemBits f) 4096 (bs.drop (dataStart f))
    sc := if isMxFmt f then bs.take 128 else []
    csc := f32sOf 64 (bs.drop (tailStart f))
    csr := f32sOf 64 (bs.drop (tailStart f + 0x100))
    csz := leWord 32 ((bs.drop (tailStart f + 0x200)).take 4)
    poison := poison }

/-- The image of a tile (R58 to R61); reserved bytes are zero. -/
def TileData.image (t : TileData) : List Byte :=
  (if isMxFmt t.fmt then t.sc else []) ++ fieldBytes (elemBits t.fmt) t.el ++
  t.csc.flatMap (fun x => leBytes 4 x.toNat) ++ t.csr.flatMap (fun x => leBytes 4 x.toNat) ++
  leBytes 4 t.csz.toNat ++ leBytes 124 0

/-- One comparison of R206; none for a line that includes a NaN or an infinity, which is not compared (R237, R372). -/
def lineTest (tol : Option Nat) (cs : List FV) (chk : FV) : Option Bool :=
  if (chk :: cs).all FV.isFin then some (passTest tol (cs.map FV.dy) chk.dy) else none

/-- The tests of R372 in order: data rows, data columns, and csc against csz. -/
def TileData.tests (t : TileData) : List (Option Bool) :=
  let vs := t.values
  let tol := tolerance t.fmt
  (List.range 64).map (fun i => lineTest tol (rowOf vs i) (f32 (nth 0 t.csc i))) ++
  (List.range 64).map (fun j => lineTest tol (colOf vs j) (f32 (nth 0 t.csr j))) ++
  [lineTest tol (t.csc.map f32) (f32 t.csz)]

/-- A verification: no test fails (R57, R372). -/
def testsPass (l : List (Option Bool)) : Bool := l.all fun x => x != some false

/-- A test was skipped (R372). -/
def testsSkip (l : List (Option Bool)) : Bool := l.any fun x => x == none

/-- The transpose of a tile that is not MX: data and checksum vectors exchanged (R56, R232). -/
def TileData.flip (t : TileData) : TileData :=
  { t with el := (List.range 4096).map fun e => nth 0 t.el (64 * (e % 64) + e / 64)
           csc := t.csr, csr := t.csc }

/-- The places of block b, in ascending order (R60). -/
def blockCells (cb : Bool) (b : Nat) : List (Nat × Nat) :=
  (List.range 32).map fun k => if cb then (32 * (b % 2) + k, b / 2) else (b / 2, 32 * (b % 2) + k)

/-- The floating element format of a tile format code. -/
def elemFloat (f : BitVec 4) : FloatFmt :=
  match fmtOf f with
  | .fl x => x
  | .int _ => .fp32

/-- One element of the requantising transpose: its encoding, and whether it is inexact (R231). -/
def requantElem (f : FloatFmt) (x : Nat) (xs xn : Nat) : Nat × Bool :=
  if xn = 0xFF then (0, !(fpvalue f x).isZero)
  else
    let v := (fpvalue f x).scale ((xs : Int) - xn)
    let y := (roundTo f .rn false v).enc
    let w := fpvalue f y
    (y, match v, w with
      | .fin .., .fin .. => v.dy.lt w.dy || w.dy.lt v.dy
      | _, _ => false)

/-- The requantising transpose of an MX tile in the same blocking (R231), and whether it was inexact. -/
def TileData.requant (t : TileData) : TileData × Bool :=
  let f := elemFloat t.fmt
  let xn (b : Nat) : Nat := ((blockCells t.cb b).map fun (i, j) => (t.scale j i).toNat).foldl max 0
  let sc := (List.range 128).map xn
  let r := (List.range 4096).map fun e =>
    requantElem f (t.enc (e % 64) (e / 64)) (t.scale (e % 64) (e / 64)).toNat (nth 0 sc (blockOf t.cb (e / 64) (e % 64)))
  let t' : TileData :=
    { t with el := r.map fun x => BitVec.ofNat 32 x.1, sc := sc.map fun x => BitVec.ofNat 8 x }
  (t'.summed, r.any Prod.snd)

/-- A tile read transposed (R232, R233): an MX tile is requantised. -/
def TileData.transposed (t : TileData) : TileData × Bool :=
  if isMxFmt t.fmt then t.requant else (t.flip, false)

/-- A tile converted element by element to a format that is not MX, rn, non-saturating, with new checksums (R193, R334). -/
def TileData.convertTo (t : TileData) (fd : BitVec 4) : TileData :=
  let vs := t.values
  let enc (v : FV) : W32 := BitVec.ofNat 32 (roundTo (elemFloat fd) .rn false v).enc
  ({ t with fmt := fd, el := vs.map enc, sc := [] } : TileData).summed

/-- The quantised blocks of 64 x 64 values, in a blocking (R196). -/
def quantBlocks (f : FloatFmt) (cb : Bool) (vs : List FV) : List MxBlock :=
  (List.range 128).map fun b => quantBlock f ((blockCells cb b).map fun (i, j) => nth .nan vs (64 * i + j))

/-- The place of element (i, j) within its block. -/
def inBlock (cb : Bool) (i j : Nat) : Nat := if cb then i % 32 else j % 32

/-- A tile of values quantised to an MX format in a blocking, and whether SAT is raised (R196). -/
def quantTile (fd : BitVec 4) (cb : Bool) (vs : List FV) : TileData × Bool :=
  let bs := quantBlocks (elemFloat fd) cb vs
  let el := (List.range 4096).map fun e =>
    let b := nth ⟨0, [], false⟩ bs (blockOf cb (e / 64) (e % 64))
    BitVec.ofNat 32 (nth 0 b.el (inBlock cb (e / 64) (e % 64)))
  let t : TileData :=
    { fmt := fd, cb := cb, el := el, sc := bs.map MxBlock.sc, csc := [], csr := [], csz := 0, poison := false }
  (t.summed, bs.any MxBlock.sat)

/-- The conversions of R232 and R270 between tile formats, in blocking cb, and whether SAT is raised. -/
def TileData.recode (t : TileData) (fd : BitVec 4) (cb : Bool) : TileData × Bool :=
  if fd = t.fmt then (t, false)
  else if isMxFmt fd then
    let (r, sat) := quantTile fd cb t.values
    ({ r with poison := t.poison }, sat)
  else (t.convertTo fd, false)

/-- Element (r, c) of an accumulator tile (R63). -/
def accEl (a : AccTile) (r c : Nat) : W32 := nth 0 a (65 * r + c)

/-- An accumulator tile from its elements. -/
def accBuild (f : Nat → Nat → W32) : AccTile := (List.range 4225).map fun e => f (e / 65) (e % 65)

/-- A tile of +0. -/
def accZero : AccTile := List.replicate 4225 0

/-- An accumulator tile as an fp32 tile (R63). -/
def accToTile (a : AccTile) : TileData :=
  { fmt := 0, cb := false, el := (List.range 4096).map fun e => accEl a (e / 64) (e % 64), sc := []
    csc := (List.range 64).map fun i => accEl a i 64, csr := (List.range 64).map fun j => accEl a 64 j
    csz := accEl a 64 64, poison := false }

/-- An fp32 tile as an accumulator tile (R63). -/
def tileToAcc (t : TileData) : AccTile :=
  accBuild fun i j =>
    if i < 64 && j < 64 then nth 0 t.el (64 * i + j)
    else if i < 64 then nth 0 t.csc i
    else if j < 64 then nth 0 t.csr j
    else t.csz

/-- acks: row 64, column 64 and the corner by R55 over the data (R245). -/
def accSummed (a : AccTile) : AccTile := tileToAcc (accToTile a).summed

/-- Slot capacity in bytes by size code (R229). -/
def slotBytes (sz : Nat) : Nat := 2048 * 2 ^ sz

/-- Bytes of a slot's data in a format (R230). -/
def slotNeed (f : BitVec 4) : Nat := 64 * rowBytes f

/-! ### Undefined contents -/

/-- An undefined word e of the accumulator tiles or the ring slots of a task, as the read `fr` finds it (R8). -/
def freeWord (fr e : Nat) : W32 := leWord 32 ((List.range 4).map fun b => Config.freeCell fr (2 ^ 56 + 4 * e + b))

/-- Accumulator tile t of a task, as the read `fr` finds it: an undefined element is a free value of its own (R8, R270). -/
def Resident.accTile (r : Resident) (fr t : Nat) : AccTile :=
  let a := KMap.get accZero r.tiles t
  if r.tundef.isEmpty then a
  else (a.zipIdx).map fun (x, e) => if inRanges r.tundef (4225 * t + e) then freeWord fr (4225 * t + e) else x

/-- The elements of a tile that `wr` picks have been written and are defined (R8). -/
def Resident.wroteAcc (r : Resident) (t : Nat) (wr : Nat → Nat → Bool) : Resident :=
  if r.tundef.isEmpty then r
  else
    let keep := (List.range 4225).filter fun e => inRanges r.tundef (4225 * t + e) && !wr (e / 65) (e % 65)
    { r with tundef := keep.map (fun e => (4225 * t + e, 4225 * t + e + 1)) ++ cutRange (4225 * t) (4225 * t + 4225) r.tundef }

/-- What the side store records of an undefined slot (R271). -/
def blankTile (f : BitVec 4) (cb poison : Bool) : TileData :=
  { fmt := f, cb := cb, el := [], sc := [], csc := [], csr := [], csz := 0, poison := poison }

/-- What the read `fr` finds in the undefined slot `at_`, by its ring and index: any data its format can hold (R8, R271). -/
def undefTile (fr at_ : Nat) (f : BitVec 4) (cb poison : Bool) : TileData :=
  let x (k w : Nat) : Nat := (freeWord fr (2 ^ 32 + 8192 * at_ + k)).toNat % 2 ^ w
  { fmt := f, cb := cb, el := (List.range 4096).map fun e => BitVec.ofNat 32 (x e (elemBits f))
    sc := (List.range 128).map fun k => BitVec.ofNat 8 (x (4096 + k) 8)
    csc := (List.range 64).map fun k => BitVec.ofNat 32 (x (4224 + k) 32)
    csr := (List.range 64).map fun k => BitVec.ofNat 32 (x (4288 + k) 32)
    csz := BitVec.ofNat 32 (x 4352 32), poison := poison }

end Sys2Proof.Machine
end

