-- ==== Sys2Proof/Machine/Accum.lean ====
section
/-! DEFINITION. The A slot: accumulator tiles moved, added, scaled, converted, summed and stepped (R243 to R247), with the
remap of the first write in an interval (R127). -/

namespace Sys2Proof.Machine

/-- The name of tile t lies in the task's tile mask (R228). -/
def State.tileNamed (s : State) (p t : Nat) : Bool := (s.res p).tmask.getLsbD t

/-- Tile t of the task on partition p as a read finds it; a tile not yet written is zero (R8, R295). -/
def State.acc (s : State) (p t : Nat) : AccTile := (s.res p).accTile s.fresh t

/-- The first write to a tile in an interval keeps the old physical tile for a rollback (R127). -/
def State.openRemap (s : State) (p t : Nat) : State :=
  if (s.part p).remaps.any fun m => m.tile = t then s
  else
    let bad := ((s.res p).tpoison.filter fun e => e.1 = t).map Prod.snd
    let r := s.res p
    let lo := 4225 * t
    let undef := (r.tundef.filter fun e => e.1 < lo + 4225 && lo < e.2).map fun e => (max e.1 lo, min e.2 (lo + 4225))
    s.updPart p fun P => { P with remaps := P.remaps ++ [⟨t, KMap.get accZero r.tiles t, undef, bad⟩] }

/-- A tile's contents replaced by the operation at place k of the program order (R337), which writes the elements that `wr` picks by row
and column; the poison of rows wholly written is cleared (R331). -/
def State.setAcc (s : State) (p k t : Nat) (a : AccTile) (wr : Nat → Nat → Bool) (whole : Nat → Bool) : State :=
  (s.noteOutAt p k (a.map fun x => x.setWidth 64)).updRes p fun r =>
    { r.wroteAcc t wr with
      tiles := KMap.set r.tiles t a
      tpoison := r.tpoison.filter fun e => !(e.1 = t && whole e.2) }

/-- A tile's contents changed element by element. -/
def accMap (a : AccTile) (f : Nat → Nat → W32 → W32) : AccTile :=
  (a.zipIdx).map fun (x, e) => f (e / 65) (e % 65) x

/-- The first poisoned row of a tile among those a test picks, as the address of R21. -/
def State.accPoison (s : State) (p t : Nat) (rows : Nat → Bool) : Option Nat :=
  ((s.res p).tpoison.find? fun e => e.1 = t && rows e.2).map fun e => t * 2 ^ 16 + e.2 * 2 ^ 9

/-- The rows an A-slot operation reads as operands (R332). -/
def AKind.reads : AKind → Nat → Bool
  | .ald _ r _, i | .aadd _ r _, i | .aadam _ r .., i => r ≤ i && i < r + 16
  | .acvt _ r _, i => r ≤ i && i < r + 32
  | .ascl _, _ => true
  | .acks, i => i < 64
  | .ast .., _ | .azero, _ => false

/-- The operation writes its tile (R127). -/
def AKind.writes : AKind → Bool
  | .ald .. | .acvt .. => false
  | .aadam _ _ z .. => z
  | _ => true

/-- The vector registers an operation writes (R120). -/
def AKind.dests : AKind → List Nat
  | .ald v .. | .acvt v .. => [v]
  | .aadam v .. => [v, v + 1, v + 2]
  | _ => []

/-- Rows r to r + 15: column 64 with `cs`, columns 0 to 63 otherwise (R244). -/
def inRows (r : Nat) (cs : Bool) (i j : Nat) : Bool := r ≤ i && i < r + 16 && (cs == (j == 64))

/-- Rows r to r + 15 of a tile with v added or moved in: column 64 from lane 0 with `cs`, columns 0 to 63 otherwise
(R244). -/
def accRows (a : AccTile) (x : Vec) (r : Nat) (cs : Bool) (op : W32 → W32 → W32) : AccTile :=
  accMap a fun i j y =>
    if inRows r cs i j then op y (x.el (64 * (i - r) + (if cs then 0 else j))) else y

/-- rne32(x + y) on fp32 patterns (R191). -/
def f32add (x y : W32) : W32 := rne32 (FV.add (f32 x) (f32 y))

/-- One element of the optimiser step of R247 on g, w, m, s and the parameters: new w, m, s. -/
def adamStep (par : Nat → FV) (g w m s : FV) : FV × FV × FV :=
  let g := fmulV g (par 7)
  let m2 := fmaV (par 0) m (fmulV (par 1) g)
  let s2 := fmaV (par 2) s (fmulV (par 3) (fmulV g g))
  let q := rsqV (faddV s2 (par 4))
  let u := fmaV (par 5) w (fmulV m2 q)
  (fmaV (par 6).neg u w, m2, s2)

/-- An A-slot operation performs (R243 to R247); a fault in its logic shows in the residue of its results (R330). -/
def State.aPerform (s : State) (p : Nat) (o : AOp) : State :=
  let t := o.tile
  if (s.part p).residue then s.residueCheck p
  else match s.accPoison p t o.kind.reads with
  | some ad => s.consumeAt p o.pc 3 ad
  | none =>
    let a := s.acc p t
    let none_ : Nat → Bool := fun _ => false
    let all : Nat → Nat → Bool := fun _ _ => true
    let s := s.noteInAt p o.key (if (List.range 65).any o.kind.reads then a.flatMap fun x => leBytes 4 x.toNat else [])
    match o.kind with
    | .ald v r cs =>
      s.updPart p fun P => P.patchV v 0 (Vec.build fun e =>
        if cs then (if e % 64 = 0 then accEl a (r + e / 64) 64 else 0) else accEl a (r + e / 64) (e % 64))
    | .ast x r cs => s.setAcc p o.key t (accRows a x r cs fun _ y => y) (inRows r cs) none_
    | .aadd x r cs => s.setAcc p o.key t (accRows a x r cs f32add) (inRows r cs) none_
    | .azero => s.setAcc p o.key t accZero all fun _ => true
    | .ascl x => s.setAcc p o.key t (a.map fun y => rne32 ((f32 y).mul (f32 x))) all fun _ => true
    | .acvt v r m =>
      s.updPart p fun P => P.patchV v 0 (Vec.build fun e =>
        let i := e / 64
        let k := e / 32 % 2
        let j := e % 32
        let cv (c : Nat) : Nat := (roundTo .bf16 (RMode.of m) false (f32 (accEl a (r + 2 * i + k) c))).enc
        BitVec.ofNat 32 (cv (2 * j) + 2 ^ 16 * cv (2 * j + 1)))
    | .acks => s.setAcc p o.key t (accSummed a) (fun i j => i == 64 || j == 64) fun i => i == 64
    | .aadam v r z w m sv par =>
      let pv (k : Nat) : FV := f32 (par.el k)
      let out := (List.range 1024).map fun e =>
        adamStep pv (f32 (accEl a (r + e / 64) (e % 64))) (f32 (w.el e)) (f32 (m.el e)) (f32 (sv.el e))
      let s := s.updPart p fun P =>
        ((P.patchV v 0 (out.map fun x => rne32 x.1)).patchV (v + 1) 0 (out.map fun x => rne32 x.2.1)).patchV (v + 2) 0
          (out.map fun x => rne32 x.2.2)
      if z then
        s.setAcc p o.key t (accMap a fun i _ y => if r ≤ i && i < r + 16 then 0 else y) (fun i _ => r ≤ i && i < r + 16)
          fun i => r ≤ i && i < r + 16
      else s

/-- A matrix command or A-slot operation that has issued before number `seq` and not completed names tile t (R243, R248). -/
def Part.tileBusy (P : Part) (t seq : Nat) : Bool :=
  (P.mxq.any fun c => c.seq < seq && c.t = t && c.kind != .mxw && c.kind != .mxdrv) ||
  (P.aq.any fun o => o.seq < seq && o.tile = t)

/-- An A-slot operation issues (R228, R243): a tile outside the mask raises ADDR with reason 8, a write opens a remap, and
the operation performs at once unless an earlier operation on its tile has not completed. -/
def State.aIssue (s : State) (t : BitVec 6) (k : AKind) : State :=
  let p := s.focus
  if !s.tileNamed p t.toNat then s.trapAddr 8 (t.toNat * 2 ^ 16)
  else
    let o : AOp := ⟨k, t.toNat, s.me.seq, s.opKey p, s.me.issA⟩
    let s := if k.writes then s.openRemap p t.toNat else s
    let s := s.updMe fun P => { P with seq := P.seq + 1 }
    if s.me.tileBusy o.tile o.seq then s.updMe fun P => { P with aq := P.aq ++ [o] } else s.aPerform p o

/-- R244. v[v] := 16 rows of tile t from row r; fn 1 takes column 64. -/
def execAld (v : BitVec 5) (t : BitVec 6) (r : BitVec 7) (f : BitVec 2) (g : BitVec 5) (s : State) : Out :=
  guarded g s fun s => s.aIssue t (.ald v.toNat r.toNat (f == 1))

/-- R244. 16 rows of tile t from row r := v[v]; fn 1 writes column 64. -/
def execAst (v : BitVec 5) (t : BitVec 6) (r : BitVec 7) (f : BitVec 2) (g : BitVec 5) (s : State) : Out :=
  guarded g s fun s => s.aIssue t (.ast (s.rdV 0 v.toNat) r.toNat (f == 1))

/-- R244. v[v] added into 16 rows of tile t from row r; fn 1 adds into column 64. -/
def execAadd (v : BitVec 5) (t : BitVec 6) (r : BitVec 7) (f : BitVec 2) (g : BitVec 5) (s : State) : Out :=
  guarded g s fun s => s.aIssue t (.aadd (s.rdV 0 v.toNat) r.toNat (f == 1))

/-- R245. Every element of tile t := +0. -/
def execAzero (t : BitVec 6) (g : BitVec 5) (s : State) : Out :=
  guarded g s fun s => s.aIssue t .azero

/-- R245. Every element of tile t times the fp32 value in s[v]. -/
def execAscl (v : BitVec 5) (t : BitVec 6) (g : BitVec 5) (s : State) : Out :=
  guarded g s fun s => s.aIssue t (.ascl ((s.rdS 0 v).setWidth 32))

/-- R246. v[v] := 32 rows of tile t from row r as packed bf16, in the rounding mode of fn. -/
def execAcvt (v : BitVec 5) (t : BitVec 6) (r : BitVec 7) (f : BitVec 2) (g : BitVec 5) (s : State) : Out :=
  guarded g s fun s => s.aIssue t (.acvt v.toNat r.toNat f)

/-- R245. Row 64, column 64 and the corner of tile t := its checksums. -/
def execAcks (t : BitVec 6) (g : BitVec 5) (s : State) : Out :=
  guarded g s fun s => s.aIssue t .acks

/-- R247. One optimiser step on 16 rows of tile t from row r; z zeroes the rows consumed. -/
def execAadam (v : BitVec 5) (t : BitVec 6) (r : BitVec 7) (z : BitVec 1) (g : BitVec 5) (s : State) : Out :=
  guarded g s fun s =>
    s.aIssue t (.aadam v.toNat r.toNat (z == 1) (s.rdV 0 v.toNat) (s.rdV 1 (v.toNat + 1)) (s.rdV 2 (v.toNat + 2))
      (s.rdV 3 (v.toNat + 3)))

end Sys2Proof.Machine
end

