-- ==== Sys2Proof/Machine/Fetch.lean ====
section
/-! DEFINITION. Instruction fetch: the checks of R14 and R141 on a bundle's bytes and the instruction cache (R33, R88). -/

namespace Sys2Proof.Machine

/-- A line as the instruction cache of a core holds it: a cached line may serve the fetch with its old contents, or have
been dropped and be read again (R33, R88). -/
def State.fetchLine (s : State) (core L : Nat) : Line :=
  let now := s.mem.line s.fresh L
  match (s.core core).ic.find? fun e => e.line = L with
  | some e => if e.data = now || Config.freeChoice (s.freeIx (8192 + L % 1024)) then e.data else now
  | none => now

/-- n bytes fetched by a core from a pod address. -/
def State.fetchBytes (s : State) (core a n : Nat) : List Byte :=
  (piecesFrom a n).flatMap fun (o, k) => lineBytes (s.fetchLine core ((a + o) / 128)) ((a + o) % 128) k

/-- The lines of a fetch under a policy put into the instruction cache of 8 ways and 128 sets; a line it does not hold passes the
memory-side cache (R24, R32, R33). -/
def State.cacheFetch (s : State) (core a n : Nat) (pol : BitVec 2) : State :=
  (linesOf a n).foldl (fun s L =>
    let l : Loc := .hbm (128 * L)
    let x := s.fetchLine core L
    let s := if (s.core core).ic.any fun e => e.holds l then s else s.touch l 128 false pol
    s.updCore core fun c => { c with ic := cachePut 128 (List.range 8) c.ic l x }) s

/-- A bundle as fetched: its header and the words that follow. -/
structure Fetched where
  hdr : BitVec 16
  words : List W32
  loc : Nat
  pol : BitVec 2

/-- The bundle at a virtual address as partition p fetches it, or the reason of R14 that refuses it (R139, R141). Code lies
in HBM4 of the package (R13 condition 6). -/
def State.fetch (s : State) (p : Nat) (va : Nat) : Except Nat Fetched :=
  match s.xlate p .fetch va 2 with
  | .error r => .error r
  | .ok x =>
    let h : BitVec 16 := leWord 16 (s.fetchBytes (coreOf p) x.loc.addr 2)
    match s.xlate p .fetch va (bundleLen h) with
    | .error r => .error r
    | .ok _ =>
      let ws := wordsOf 4 (hdrWords h) (s.fetchBytes (coreOf p) (x.loc.addr + 2) (4 * hdrWords h))
      .ok ⟨h, ws.map fun w => BitVec.ofNat 32 w, x.loc.addr, x.ent.pol⟩

/-- The header that counts n bundles before the end of a loop's body, at a virtual address; one that cannot be fetched is a free value
(R8, R181; assumption 84). -/
def State.headerAt (s : State) (p n va : Nat) : BitVec 16 :=
  match s.xlate p .fetch va 2 with
  | .error _ => Config.freeBits (s.freeIx (20480 + n)) 16
  | .ok x => leWord 16 (s.fetchBytes (coreOf p) x.loc.addr 2)

/-- The address after n bundles from an address (R181). -/
def State.skipBundles (s : State) (p : Nat) : Nat → Nat → Nat
  | 0, va => va
  | n + 1, va => s.skipBundles p n ((va + bundleLen (s.headerAt p n va)) % 2 ^ 64)

/-- A poisoned line among a bundle's bytes, as a virtual address (R331, R332). -/
def State.fetchPoison (s : State) (va : Nat) (f : Fetched) : Option Nat :=
  (s.mem.firstPoison f.loc (bundleLen f.hdr)).map fun L => va / 128 * 128 + 128 * (L - f.loc / 128)

end Sys2Proof.Machine
end

