-- ==== Sys2Proof/Machine/Control.lean ====
section
/-! DEFINITION. Control transfers (R178, R179), program traps (R180), loops (R181 to R185), `yield` and `cont` (R311, R312)
and `trig` (R302). -/

namespace Sys2Proof.Machine

/-- Every active loop ends (R179): its counter is set (R184), and the loops are gone from the next bundle on, since the
other slots read their guards as they stood (R116). -/
def Part.leaveLoops (P : Part) : Part :=
  { P with regs := { P.regs.endLoops with loops := P.regs.loops }, loopsNext := some [] }

/-- A taken transfer: every active loop ends at once and the next bundle is the target (R115, R178, R179). -/
def State.transfer (s : State) (target : W64) : State :=
  s.updMe fun P => { P.leaveLoops with regs := { P.leaveLoops.regs with pc := target } }

/-- A + 2*off (R147, R178). -/
def State.branchTarget (s : State) (o : BitVec 20) : W64 := s.me.issA + (o.signExtend 64 <<< 1)

/-- The address after the bundle in issue: A + len (R178). -/
def State.afterBundle (s : State) : W64 := s.me.issA + BitVec.ofNat 64 s.me.issLen

/-- A transfer to a register target: an odd one raises ALIGN (R141, R178). -/
def State.transferReg (s : State) (target : W64) (link : State → State) : State :=
  if target.getLsbD 0 then s.trapAlign 1 target.toNat else (link s).transfer target

/-- R178. Branch to A + 2*off. -/
def execBr (o : BitVec 20) (g : BitVec 5) (s : State) : Out :=
  guarded g s fun s => s.transfer (s.branchTarget o)

/-- R178. Call A + 2*off; s31 := A + len with bound 1. -/
def execCall (o : BitVec 20) (g : BitVec 5) (s : State) : Out :=
  guarded g s fun s => (s.putS 31 s.afterBundle 1).transfer (s.branchTarget o)

/-- R178. Transfer to s[a]; s[d] := A + len when d is not 0. -/
def execBri (d a : BitVec 5) (g : BitVec 5) (s : State) : Out :=
  guarded g s fun s => s.transferReg (s.rdS 0 a) fun s => s.putS d s.afterBundle 1

/-- R178. Return to s31. -/
def execRet (g : BitVec 5) (s : State) : Out :=
  guarded g s fun s => s.transferReg (s.rdS 0 31) id

/-- R180. SWTRAP with a 20-bit code. -/
def execTrap (c : BitVec 20) (g : BitVec 5) (s : State) : Out :=
  guarded g s fun s => s.trapHere 13 (c.setWidth 64)

/-- R180. BRK with a 20-bit code. -/
def execBrk (c : BitVec 20) (g : BitVec 5) (s : State) : Out :=
  guarded g s fun s => s.trapHere 12 (c.setWidth 64)

/-- The loop that a loop bundle begins (R181). -/
def newLoop (body endA : W64) (b st n : Nat) : Loop :=
  { body := body, endA := endA, target := endA, blen := b, stages := st, n := n, pass := 0, ns := none, stopNs := none }

/-- R181. Start a loop of min(s[a], 2^48 - 1) iterations over the B bundles that follow. With two loops active it raises
ILLEGAL with reason 9 (R132, R159). -/
def execLoop (a : BitVec 5) (b : BitVec 12) (st : BitVec 3) (g : BitVec 5) (s : State) : Out :=
  guarded g s fun s =>
    let n := min (s.rdS 0 a).toNat (2 ^ 48 - 1)
    let e := BitVec.ofNat 64 (s.skipBundles s.focus (b.toNat + 1) s.afterBundle.toNat)
    let lv := s.me.regs.loops.length
    if 2 ≤ lv then
      s.trapIllegal 9 1 (0x64#7 ++ a ++ b ++ st ++ g : BitVec 32)
    else if n = 0 then
      s.updMe fun P => { P.wrote (.lc lv) with regs := { (P.regs.setLc lv 0) with pc := e } }
    else
      s.updMe fun P =>
        { P.wrote (.lc lv) with
                 regs := P.regs.setLc lv (BitVec.ofNat 64 n)
                 loopsNext := some (P.regs.loops ++ [newLoop s.afterBundle e (b.toNat + 1) (st.toNat + 1) n]) }

/-- R183, R185. The innermost loop starts no further iteration and continues at the target after its drain; a later loopx
changes only the target. With no loop active it acts as br. -/
def execLoopx (o : BitVec 20) (g : BitVec 5) (s : State) : Out :=
  guarded g s fun s =>
    match s.me.regs.loops.getLast? with
    | none => s.transfer (s.branchTarget o)
    | some l =>
      let l' := { l with target := s.branchTarget o, ns := some (l.ns.getD l.started) }
      s.updMe fun P => { P with regs := { P.regs with loops := P.regs.loops.dropLast ++ [l'] } }

/-- R302. Mark the task as triggered at the commit of its interval: withheld like an engine command. -/
def execTrig (g : BitVec 5) (s : State) : Out :=
  guarded g s fun s =>
    (s.withhold (.cmd
      { kind := .trig, part := s.focus, task := s.me.task.getD 0, asid := s.asidOn s.focus, cls := 0, scope := 5, seq := 0
        vj := 0, after := [], pages := [], pinned := true, slots := [], did := [], prog := [], status := 0, done := false })).takeEntries 1

/-- R311. Stop voluntarily, or end continuation mode: a datum stands after the bundle. -/
def execYield (g : BitVec 5) (s : State) : Out :=
  guarded g s fun s => s.updMe fun P =>
    let P := if P.regs.cm then P.leaveLoops else P
    { P.raiseStop P.issT with yielding := true, datumAfter := true }

/-- R312. CONT := A + 2*off, or 0 with off = 0. -/
def execCont (o : BitVec 20) (g : BitVec 5) (s : State) : Out :=
  guarded g s fun s =>
    let x := if o = 0 then 0 else s.branchTarget o
    (s.keepOld 0x032).updMe fun P => { P.wrote .cont with regs := { P.regs with cont := x } }

end Sys2Proof.Machine
end

