-- ==== Sys2Proof/Machine/Memory.lean ====
section
/-! DEFINITION. The memory family (spec/12): scalar and vector loads and stores (R251 to R253), gathers and scatters (R254,
R255), atomics (R256, R257), fences (R258), the monitored wait (R259 to R261), prefetch and invalidation (R262, R263), view
join and instruction fence (R264, R265). -/

namespace Sys2Proof.Machine

/-! ### Shared accesses -/

/-- A checked global load of 1, 2, 4 or 8 bytes into s[t] (R251). -/
def State.opLoad (s : State) (t : BitVec 5) (va : W64) (lg : Nat) (sext : Bool) (cls scope : Nat) (hint : BitVec 2) :
    State :=
  match s.checkGlobal .load va (2 ^ lg) lg with
  | .error tr => s.trap s.focus tr
  | .ok x => s.loadGlobal x va (.s t.toNat) (2 ^ lg) sext cls scope hint false none

/-- A checked global store of the low bytes of s[t] (R251). -/
def State.opStore (s : State) (t : BitVec 5) (va : W64) (lg : Nat) (cls scope : Nat) (rel : Bool) (hint : BitVec 2) :
    State :=
  match s.checkGlobal .store va (2 ^ lg) lg with
  | .error tr => s.trap s.focus tr
  | .ok x => (s.storeGlobal x va (leBytes (2 ^ lg) (s.rdS 2 t).toNat) cls scope rel hint (s.regBad (.s t.toNat))).takeEntries 1

/-- A checked global load of the 4,096-byte image of v[t] (R252). -/
def State.opLoadV (s : State) (t : BitVec 5) (va : W64) (cls scope : Nat) (hint : BitVec 2) : State :=
  match s.checkGlobal .load va 4096 7 with
  | .error tr => s.trap s.focus tr
  | .ok x => s.loadGlobal x va (.v t.toNat) 4096 false cls scope hint false (some 0)

/-- A checked global store of the image of v[t] (R252). -/
def State.opStoreV (s : State) (t : BitVec 5) (va : W64) (cls scope : Nat) (hint : BitVec 2) : State :=
  match s.checkGlobal .store va 4096 7 with
  | .error tr => s.trap s.focus tr
  | .ok x => (s.storeGlobal x va (s.rdV 2 t.toNat).bytes cls scope false hint (s.regBad (.v t.toNat))).takeEntries 32

/-- A checked read of the own scratchpad in the linear view; a poisoned line is consumed (R249, R332). -/
def State.spLoad (s : State) (off : W64) (n lg : Nat) (land : State → List Byte → State) : State :=
  match s.checkSp off n lg with
  | .error tr => s.trap s.focus tr
  | .ok o =>
    match (s.res s.focus).poisonAt false o n with
    | some b => s.consume s.focus 1 b
    | none => land (s.noteIn s.focus (s.spRead s.focus false o n)) (s.spRead s.focus false o n)

/-- A checked scratchpad load into s[t], with bound 8 (R118, R251). -/
def State.opLoadSp (s : State) (t : BitVec 5) (off : W64) (lg : Nat) (sext : Bool) : State :=
  s.spLoad off (2 ^ lg) lg fun s bs => s.putS t (loaded sext bs) 8

/-- A checked scratchpad load into v[t], with bound 16 (R118, R252). -/
def State.opLoadVSp (s : State) (t : BitVec 5) (off : W64) : State :=
  s.spLoad off 4096 7 fun s bs => s.putV t.toNat (Vec.ofBytes bs) 16

/-- A checked scratchpad store, journaled, in the linear view (R126, R251); poisoned data leave their lines poisoned (R331). -/
def State.spStore (s : State) (off : W64) (n lg : Nat) (bs : List Byte) (bad : Bool) : State :=
  match s.checkSp off n lg with
  | .error tr => s.trap s.focus tr
  | .ok o =>
    let s := (s.noteOut s.focus (off :: words64 bs)).spWrite s.focus false o bs
    if bad then s.spoilLines s.focus false o n else s

/-- A checked scratchpad store of the low bytes of s[t] (R251). -/
def State.opStoreSp (s : State) (t : BitVec 5) (off : W64) (lg : Nat) : State :=
  s.spStore off (2 ^ lg) lg (leBytes (2 ^ lg) (s.rdS 2 t).toNat) (s.regBad (.s t.toNat))

/-- A checked scratchpad store of the image of v[t] (R252). -/
def State.opStoreVSp (s : State) (t : BitVec 5) (off : W64) : State :=
  s.spStore off 4096 7 (s.rdV 2 t.toNat).bytes (s.regBad (.v t.toNat))

/-- An acquire load (R79, R253): the earlier reads that program order puts before it have performed, since the bundle waits for them.
At a home of this package it performs at once; a home outside answers later, and later accesses wait for it. -/
def State.opAcquire (s : State) (t : BitVec 5) (va : W64) (lg : Nat) (sext : Bool) (cls scope : Nat) (hint : BitVec 2) :
    State :=
  match s.checkGlobal .load va (2 ^ lg) lg with
  | .error tr => s.trap s.focus tr
  | .ok x =>
    let s := s.loadGlobal x va (.s t.toNat) (2 ^ lg) sext cls scope hint true none
    if s.localHome x.loc then s.performPend s.focus (s.me.pend.length - 1) else s

/-! ### Scalar loads and stores -/

/-- R251. Global load of 1 byte, sign-extended, short form. -/
def execLdB (t a : BitVec 5) (o : BitVec 10) (g : BitVec 5) (s : State) : Out :=
  guarded g s fun s => s.opLoad t (s.eaMO a o 1) 0 true 0 1 0

/-- R251. Global load of 1 byte, zero-extended, short form. -/
def execLdBu (t a : BitVec 5) (o : BitVec 10) (g : BitVec 5) (s : State) : Out :=
  guarded g s fun s => s.opLoad t (s.eaMO a o 1) 0 false 0 1 0

/-- R251. Global load of 2 bytes, sign-extended, short form. -/
def execLdH (t a : BitVec 5) (o : BitVec 10) (g : BitVec 5) (s : State) : Out :=
  guarded g s fun s => s.opLoad t (s.eaMO a o 2) 1 true 0 1 0

/-- R251. Global load of 2 bytes, zero-extended, short form. -/
def execLdHu (t a : BitVec 5) (o : BitVec 10) (g : BitVec 5) (s : State) : Out :=
  guarded g s fun s => s.opLoad t (s.eaMO a o 2) 1 false 0 1 0

/-- R251. Global load of 4 bytes, sign-extended, short form. -/
def execLdW (t a : BitVec 5) (o : BitVec 10) (g : BitVec 5) (s : State) : Out :=
  guarded g s fun s => s.opLoad t (s.eaMO a o 4) 2 true 0 1 0

/-- R251. Global load of 4 bytes, zero-extended, short form. -/
def execLdWu (t a : BitVec 5) (o : BitVec 10) (g : BitVec 5) (s : State) : Out :=
  guarded g s fun s => s.opLoad t (s.eaMO a o 4) 2 false 0 1 0

/-- R251. Global load of 8 bytes, sign-extended, short form. -/
def execLdD (t a : BitVec 5) (o : BitVec 10) (g : BitVec 5) (s : State) : Out :=
  guarded g s fun s => s.opLoad t (s.eaMO a o 8) 3 true 0 1 0

/-- R252. Global vector load, short form. -/
def execLdv (t a : BitVec 5) (o : BitVec 10) (g : BitVec 5) (s : State) : Out :=
  guarded g s fun s => s.opLoadV t (s.eaMO a o 128) 0 1 0

/-- R251. Global store of 1 byte, short form. -/
def execStB (t a : BitVec 5) (o : BitVec 10) (g : BitVec 5) (s : State) : Out :=
  guarded g s fun s => s.opStore t (s.eaMO a o 1) 0 0 1 false 0

/-- R251. Global store of 2 bytes, short form. -/
def execStH (t a : BitVec 5) (o : BitVec 10) (g : BitVec 5) (s : State) : Out :=
  guarded g s fun s => s.opStore t (s.eaMO a o 2) 1 0 1 false 0

/-- R251. Global store of 4 bytes, short form. -/
def execStW (t a : BitVec 5) (o : BitVec 10) (g : BitVec 5) (s : State) : Out :=
  guarded g s fun s => s.opStore t (s.eaMO a o 4) 2 0 1 false 0

/-- R251. Global store of 8 bytes, short form. -/
def execStD (t a : BitVec 5) (o : BitVec 10) (g : BitVec 5) (s : State) : Out :=
  guarded g s fun s => s.opStore t (s.eaMO a o 8) 3 0 1 false 0

/-- R252. Global vector store, short form. -/
def execStv (t a : BitVec 5) (o : BitVec 10) (g : BitVec 5) (s : State) : Out :=
  guarded g s fun s => s.opStoreV t (s.eaMO a o 128) 0 1 0

/-- R251. Global load of 1 byte, sign-extended, qualified form. -/
def execLdBMq (t a : BitVec 5) (c : BitVec 4) (sc : BitVec 3) (h : BitVec 2) (g : BitVec 5) (s : State) : Out :=
  guarded g s fun s => s.opLoad t (s.rdS 0 a) 0 true c.toNat sc.toNat h

/-- R251. Global load of 1 byte, zero-extended, qualified form. -/
def execLdBuMq (t a : BitVec 5) (c : BitVec 4) (sc : BitVec 3) (h : BitVec 2) (g : BitVec 5) (s : State) : Out :=
  guarded g s fun s => s.opLoad t (s.rdS 0 a) 0 false c.toNat sc.toNat h

/-- R251. Global load of 2 bytes, sign-extended, qualified form. -/
def execLdHMq (t a : BitVec 5) (c : BitVec 4) (sc : BitVec 3) (h : BitVec 2) (g : BitVec 5) (s : State) : Out :=
  guarded g s fun s => s.opLoad t (s.rdS 0 a) 1 true c.toNat sc.toNat h

/-- R251. Global load of 2 bytes, zero-extended, qualified form. -/
def execLdHuMq (t a : BitVec 5) (c : BitVec 4) (sc : BitVec 3) (h : BitVec 2) (g : BitVec 5) (s : State) : Out :=
  guarded g s fun s => s.opLoad t (s.rdS 0 a) 1 false c.toNat sc.toNat h

/-- R251. Global load of 4 bytes, sign-extended, qualified form. -/
def execLdWMq (t a : BitVec 5) (c : BitVec 4) (sc : BitVec 3) (h : BitVec 2) (g : BitVec 5) (s : State) : Out :=
  guarded g s fun s => s.opLoad t (s.rdS 0 a) 2 true c.toNat sc.toNat h

/-- R251. Global load of 4 bytes, zero-extended, qualified form. -/
def execLdWuMq (t a : BitVec 5) (c : BitVec 4) (sc : BitVec 3) (h : BitVec 2) (g : BitVec 5) (s : State) : Out :=
  guarded g s fun s => s.opLoad t (s.rdS 0 a) 2 false c.toNat sc.toNat h

/-- R251. Global load of 8 bytes, sign-extended, qualified form. -/
def execLdDMq (t a : BitVec 5) (c : BitVec 4) (sc : BitVec 3) (h : BitVec 2) (g : BitVec 5) (s : State) : Out :=
  guarded g s fun s => s.opLoad t (s.rdS 0 a) 3 true c.toNat sc.toNat h

/-- R252. Global vector load, qualified form. -/
def execLdvMq (t a : BitVec 5) (c : BitVec 4) (sc : BitVec 3) (h : BitVec 2) (g : BitVec 5) (s : State) : Out :=
  guarded g s fun s => s.opLoadV t (s.rdS 0 a) c.toNat sc.toNat h

/-- R251. Global store of 1 byte, qualified form. -/
def execStBMq (t a : BitVec 5) (c : BitVec 4) (sc : BitVec 3) (h : BitVec 2) (g : BitVec 5) (s : State) : Out :=
  guarded g s fun s => s.opStore t (s.rdS 0 a) 0 c.toNat sc.toNat false h

/-- R251. Global store of 2 bytes, qualified form. -/
def execStHMq (t a : BitVec 5) (c : BitVec 4) (sc : BitVec 3) (h : BitVec 2) (g : BitVec 5) (s : State) : Out :=
  guarded g s fun s => s.opStore t (s.rdS 0 a) 1 c.toNat sc.toNat false h

/-- R251. Global store of 4 bytes, qualified form. -/
def execStWMq (t a : BitVec 5) (c : BitVec 4) (sc : BitVec 3) (h : BitVec 2) (g : BitVec 5) (s : State) : Out :=
  guarded g s fun s => s.opStore t (s.rdS 0 a) 2 c.toNat sc.toNat false h

/-- R251. Global store of 8 bytes, qualified form. -/
def execStDMq (t a : BitVec 5) (c : BitVec 4) (sc : BitVec 3) (h : BitVec 2) (g : BitVec 5) (s : State) : Out :=
  guarded g s fun s => s.opStore t (s.rdS 0 a) 3 c.toNat sc.toNat false h

/-- R252. Global vector store, qualified form. -/
def execStvMq (t a : BitVec 5) (c : BitVec 4) (sc : BitVec 3) (h : BitVec 2) (g : BitVec 5) (s : State) : Out :=
  guarded g s fun s => s.opStoreV t (s.rdS 0 a) c.toNat sc.toNat h

/-! ### Acquire loads and release stores -/

/-- R253. Acquire load of 1 byte, sign-extended. -/
def execLdAcqB (t a : BitVec 5) (c : BitVec 4) (sc : BitVec 3) (h : BitVec 2) (g : BitVec 5) (s : State) : Out :=
  guarded g s fun s => s.opAcquire t (s.rdS 0 a) 0 true c.toNat sc.toNat h

/-- R253. Acquire load of 1 byte, zero-extended. -/
def execLdAcqBu (t a : BitVec 5) (c : BitVec 4) (sc : BitVec 3) (h : BitVec 2) (g : BitVec 5) (s : State) : Out :=
  guarded g s fun s => s.opAcquire t (s.rdS 0 a) 0 false c.toNat sc.toNat h

/-- R253. Acquire load of 2 bytes, sign-extended. -/
def execLdAcqH (t a : BitVec 5) (c : BitVec 4) (sc : BitVec 3) (h : BitVec 2) (g : BitVec 5) (s : State) : Out :=
  guarded g s fun s => s.opAcquire t (s.rdS 0 a) 1 true c.toNat sc.toNat h

/-- R253. Acquire load of 2 bytes, zero-extended. -/
def execLdAcqHu (t a : BitVec 5) (c : BitVec 4) (sc : BitVec 3) (h : BitVec 2) (g : BitVec 5) (s : State) : Out :=
  guarded g s fun s => s.opAcquire t (s.rdS 0 a) 1 false c.toNat sc.toNat h

/-- R253. Acquire load of 4 bytes, sign-extended. -/
def execLdAcqW (t a : BitVec 5) (c : BitVec 4) (sc : BitVec 3) (h : BitVec 2) (g : BitVec 5) (s : State) : Out :=
  guarded g s fun s => s.opAcquire t (s.rdS 0 a) 2 true c.toNat sc.toNat h

/-- R253. Acquire load of 4 bytes, zero-extended. -/
def execLdAcqWu (t a : BitVec 5) (c : BitVec 4) (sc : BitVec 3) (h : BitVec 2) (g : BitVec 5) (s : State) : Out :=
  guarded g s fun s => s.opAcquire t (s.rdS 0 a) 2 false c.toNat sc.toNat h

/-- R253. Acquire load of 8 bytes, sign-extended. -/
def execLdAcqD (t a : BitVec 5) (c : BitVec 4) (sc : BitVec 3) (h : BitVec 2) (g : BitVec 5) (s : State) : Out :=
  guarded g s fun s => s.opAcquire t (s.rdS 0 a) 3 true c.toNat sc.toNat h

/-- R253. Release store of 1 byte. -/
def execStRelB (t a : BitVec 5) (c : BitVec 4) (sc : BitVec 3) (h : BitVec 2) (g : BitVec 5) (s : State) : Out :=
  guarded g s fun s => s.opStore t (s.rdS 0 a) 0 c.toNat sc.toNat true h

/-- R253. Release store of 2 bytes. -/
def execStRelH (t a : BitVec 5) (c : BitVec 4) (sc : BitVec 3) (h : BitVec 2) (g : BitVec 5) (s : State) : Out :=
  guarded g s fun s => s.opStore t (s.rdS 0 a) 1 c.toNat sc.toNat true h

/-- R253. Release store of 4 bytes. -/
def execStRelW (t a : BitVec 5) (c : BitVec 4) (sc : BitVec 3) (h : BitVec 2) (g : BitVec 5) (s : State) : Out :=
  guarded g s fun s => s.opStore t (s.rdS 0 a) 2 c.toNat sc.toNat true h

/-- R253. Release store of 8 bytes. -/
def execStRelD (t a : BitVec 5) (c : BitVec 4) (sc : BitVec 3) (h : BitVec 2) (g : BitVec 5) (s : State) : Out :=
  guarded g s fun s => s.opStore t (s.rdS 0 a) 3 c.toNat sc.toNat true h

/-! ### Scratchpad loads and stores -/

/-- R251. Scratchpad load of 1 byte, sign-extended, short form. -/
def execLdSpB (t a : BitVec 5) (o : BitVec 10) (g : BitVec 5) (s : State) : Out :=
  guarded g s fun s => s.opLoadSp t (s.eaMO a o 1) 0 true

/-- R251. Scratchpad load of 1 byte, zero-extended, short form. -/
def execLdSpBu (t a : BitVec 5) (o : BitVec 10) (g : BitVec 5) (s : State) : Out :=
  guarded g s fun s => s.opLoadSp t (s.eaMO a o 1) 0 false

/-- R251. Scratchpad load of 2 bytes, sign-extended, short form. -/
def execLdSpH (t a : BitVec 5) (o : BitVec 10) (g : BitVec 5) (s : State) : Out :=
  guarded g s fun s => s.opLoadSp t (s.eaMO a o 2) 1 true

/-- R251. Scratchpad load of 2 bytes, zero-extended, short form. -/
def execLdSpHu (t a : BitVec 5) (o : BitVec 10) (g : BitVec 5) (s : State) : Out :=
  guarded g s fun s => s.opLoadSp t (s.eaMO a o 2) 1 false

/-- R251. Scratchpad load of 4 bytes, sign-extended, short form. -/
def execLdSpW (t a : BitVec 5) (o : BitVec 10) (g : BitVec 5) (s : State) : Out :=
  guarded g s fun s => s.opLoadSp t (s.eaMO a o 4) 2 true

/-- R251. Scratchpad load of 4 bytes, zero-extended, short form. -/
def execLdSpWu (t a : BitVec 5) (o : BitVec 10) (g : BitVec 5) (s : State) : Out :=
  guarded g s fun s => s.opLoadSp t (s.eaMO a o 4) 2 false

/-- R251. Scratchpad load of 8 bytes, sign-extended, short form. -/
def execLdSpD (t a : BitVec 5) (o : BitVec 10) (g : BitVec 5) (s : State) : Out :=
  guarded g s fun s => s.opLoadSp t (s.eaMO a o 8) 3 true

/-- R252. Scratchpad vector load, short form. -/
def execLdvSp (t a : BitVec 5) (o : BitVec 10) (g : BitVec 5) (s : State) : Out :=
  guarded g s fun s => s.opLoadVSp t (s.eaMO a o 128)

/-- R251. Scratchpad store of 1 byte, short form. -/
def execStSpB (t a : BitVec 5) (o : BitVec 10) (g : BitVec 5) (s : State) : Out :=
  guarded g s fun s => s.opStoreSp t (s.eaMO a o 1) 0

/-- R251. Scratchpad store of 2 bytes, short form. -/
def execStSpH (t a : BitVec 5) (o : BitVec 10) (g : BitVec 5) (s : State) : Out :=
  guarded g s fun s => s.opStoreSp t (s.eaMO a o 2) 1

/-- R251. Scratchpad store of 4 bytes, short form. -/
def execStSpW (t a : BitVec 5) (o : BitVec 10) (g : BitVec 5) (s : State) : Out :=
  guarded g s fun s => s.opStoreSp t (s.eaMO a o 4) 2

/-- R251. Scratchpad store of 8 bytes, short form. -/
def execStSpD (t a : BitVec 5) (o : BitVec 10) (g : BitVec 5) (s : State) : Out :=
  guarded g s fun s => s.opStoreSp t (s.eaMO a o 8) 3

/-- R252. Scratchpad vector store, short form. -/
def execStvSp (t a : BitVec 5) (o : BitVec 10) (g : BitVec 5) (s : State) : Out :=
  guarded g s fun s => s.opStoreVSp t (s.eaMO a o 128)

/-- R251. Scratchpad load of 1 byte, sign-extended, qualified form. -/
def execLdSpBMq (t a : BitVec 5) (_c : BitVec 4) (_sc : BitVec 3) (g : BitVec 5) (s : State) : Out :=
  guarded g s fun s => s.opLoadSp t (s.rdS 0 a) 0 true

/-- R251. Scratchpad load of 1 byte, zero-extended, qualified form. -/
def execLdSpBuMq (t a : BitVec 5) (_c : BitVec 4) (_sc : BitVec 3) (g : BitVec 5) (s : State) : Out :=
  guarded g s fun s => s.opLoadSp t (s.rdS 0 a) 0 false

/-- R251. Scratchpad load of 2 bytes, sign-extended, qualified form. -/
def execLdSpHMq (t a : BitVec 5) (_c : BitVec 4) (_sc : BitVec 3) (g : BitVec 5) (s : State) : Out :=
  guarded g s fun s => s.opLoadSp t (s.rdS 0 a) 1 true

/-- R251. Scratchpad load of 2 bytes, zero-extended, qualified form. -/
def execLdSpHuMq (t a : BitVec 5) (_c : BitVec 4) (_sc : BitVec 3) (g : BitVec 5) (s : State) : Out :=
  guarded g s fun s => s.opLoadSp t (s.rdS 0 a) 1 false

/-- R251. Scratchpad load of 4 bytes, sign-extended, qualified form. -/
def execLdSpWMq (t a : BitVec 5) (_c : BitVec 4) (_sc : BitVec 3) (g : BitVec 5) (s : State) : Out :=
  guarded g s fun s => s.opLoadSp t (s.rdS 0 a) 2 true

/-- R251. Scratchpad load of 4 bytes, zero-extended, qualified form. -/
def execLdSpWuMq (t a : BitVec 5) (_c : BitVec 4) (_sc : BitVec 3) (g : BitVec 5) (s : State) : Out :=
  guarded g s fun s => s.opLoadSp t (s.rdS 0 a) 2 false

/-- R251. Scratchpad load of 8 bytes, sign-extended, qualified form. -/
def execLdSpDMq (t a : BitVec 5) (_c : BitVec 4) (_sc : BitVec 3) (g : BitVec 5) (s : State) : Out :=
  guarded g s fun s => s.opLoadSp t (s.rdS 0 a) 3 true

/-- R252. Scratchpad vector load, qualified form. -/
def execLdvSpMq (t a : BitVec 5) (_c : BitVec 4) (_sc : BitVec 3) (g : BitVec 5) (s : State) : Out :=
  guarded g s fun s => s.opLoadVSp t (s.rdS 0 a)

/-- R251. Scratchpad store of 1 byte, qualified form. -/
def execStSpBMq (t a : BitVec 5) (_c : BitVec 4) (_sc : BitVec 3) (g : BitVec 5) (s : State) : Out :=
  guarded g s fun s => s.opStoreSp t (s.rdS 0 a) 0

/-- R251. Scratchpad store of 2 bytes, qualified form. -/
def execStSpHMq (t a : BitVec 5) (_c : BitVec 4) (_sc : BitVec 3) (g : BitVec 5) (s : State) : Out :=
  guarded g s fun s => s.opStoreSp t (s.rdS 0 a) 1

/-- R251. Scratchpad store of 4 bytes, qualified form. -/
def execStSpWMq (t a : BitVec 5) (_c : BitVec 4) (_sc : BitVec 3) (g : BitVec 5) (s : State) : Out :=
  guarded g s fun s => s.opStoreSp t (s.rdS 0 a) 2

/-- R251. Scratchpad store of 8 bytes, qualified form. -/
def execStSpDMq (t a : BitVec 5) (_c : BitVec 4) (_sc : BitVec 3) (g : BitVec 5) (s : State) : Out :=
  guarded g s fun s => s.opStoreSp t (s.rdS 0 a) 3

/-- R252. Scratchpad vector store, qualified form. -/
def execStvSpMq (t a : BitVec 5) (_c : BitVec 4) (_sc : BitVec 3) (g : BitVec 5) (s : State) : Out :=
  guarded g s fun s => s.opStoreVSp t (s.rdS 0 a)

/-! ### Gathers and scatters -/

/-- The first failure among the elements' checks, or what each check gives (R254). -/
def checkEach {α : Type} (f : W64 → Except Trap α) : List (Nat × W64) → Except Trap (List (Nat × W64 × α))
  | [] => .ok []
  | (e, va) :: es =>
    match f va with
    | .error t => .error t
    | .ok x =>
      match checkEach f es with
      | .error t => .error t
      | .ok xs => .ok ((e, va, x) :: xs)

/-- The element of a scatter lies in the aligned 4,096-byte block that holds the base, or ALIGN (R255). -/
def State.inBlockOf {α : Type} (s : State) (base va : W64) (r : Except Trap α) : Except Trap α :=
  match r with
  | .error t => .error t
  | .ok x =>
    if va.toNat / 4096 = base.toNat / 4096 then .ok x else .error ⟨4, s.me.issA, detailWord 12 va.toNat⟩

/-- R254. Gather from global memory. -/
def execLdx (t a b : BitVec 5) (c : BitVec 4) (g : BitVec 5) (s : State) : Out :=
  guarded g s fun s =>
    match checkEach (fun va => s.checkGlobal .load va 4 2) (gatherElems (s.rdS 0 a) (s.rdV 1 b.toNat)) with
    | .error tr => s.trap s.focus tr
    | .ok es => es.foldl (fun s e =>
        s.loadGlobal e.2.2 e.2.1 (.v t.toNat) 4 false c.toNat 1 0 false (some e.1)) s

/-- R254, R255. Scatter to global memory, one store-buffer entry for each line (R130). -/
def execStx (t a b : BitVec 5) (c : BitVec 4) (g : BitVec 5) (s : State) : Out :=
  guarded g s fun s =>
    let base := s.rdS 0 a
    match checkEach (fun va => s.inBlockOf base va (s.checkGlobal .store va 4 2))
        (gatherElems base (s.rdV 1 b.toNat)) with
    | .error tr => s.trap s.focus tr
    | .ok es =>
      let v := s.rdV 2 t.toNat
      let s := es.foldl (fun s e =>
        s.storeGlobal e.2.2 e.2.1 (leBytes 4 (v.el e.1).toNat) c.toNat 1 false 0 (s.regBad (.v t.toNat))) s
      s.takeEntries (es.map fun e => e.2.1.toNat / 128).eraseDups.length

/-- R254. Gather from the own scratchpad, with bound 16; a poisoned line is consumed (R332). Each element is a read of its own (R8). -/
def execLdxSp (t a b : BitVec 5) (_c : BitVec 4) (g : BitVec 5) (s : State) : Out :=
  guarded g s fun s =>
    match checkEach (fun off => s.checkSp off 4 2) (gatherElems (s.rdS 0 a) (s.rdV 1 b.toNat)) with
    | .error tr => s.trap s.focus tr
    | .ok es =>
      match es.findSome? fun e => (s.res s.focus).poisonAt false e.2.2 4 with
      | some o => s.consume s.focus 1 o
      | none =>
        let got := es.map fun e => (e.1, s.spReadAt s.focus (2 ^ 64 * (s.fresh + 1) + e.1) false e.2.2 4)
        let v := got.foldl (fun v e => setNth v e.1 (leWord 32 e.2)) (s.rdV 2 t.toNat)
        (s.noteIn s.focus (got.flatMap Prod.snd)).putV t.toNat v 16

/-- R254, R255. Scatter to the own scratchpad. -/
def execStxSp (t a b : BitVec 5) (_c : BitVec 4) (g : BitVec 5) (s : State) : Out :=
  guarded g s fun s =>
    let base := s.rdS 0 a
    match checkEach (fun off => s.inBlockOf base off (s.checkSp off 4 2)) (gatherElems base (s.rdV 1 b.toNat)) with
    | .error tr => s.trap s.focus tr
    | .ok es =>
      let v := s.rdV 2 t.toNat
      es.foldl (fun s e =>
        let bs := leBytes 4 (v.el e.1).toNat
        let s := (s.noteOut s.focus (e.2.1 :: words64 bs)).spWrite s.focus false e.2.2 bs
        if s.regBad (.v t.toNat) then s.spoilLines s.focus false e.2.2 4 else s) s

/-! ### Atomics -/

/-- An atomic on an operand of 2^lg bytes (R82, R256, R257). At a home of this package it performs as the bundle issues; for a home
outside, the request is sent, and it performs as that home answers. -/
def State.opAtomic (s : State) (t : BitVec 5) (va : W64) (lg : Nat) (cls scope : Nat) (f : Rmw) : State :=
  match s.checkGlobal .atom va (2 ^ lg) lg with
  | .error tr => s.trap s.focus tr
  | .ok x =>
    if s.localHome x.loc then s.atomAt s.focus (s.opKey s.focus) x.loc va (2 ^ lg) x.ent.pol t.toNat f
    else
      s.updMe fun P =>
        let x : Pend :=
          { dst := .s t.toNat, loc := x.loc, size := 2 ^ lg, sext := true, cls := cls, scope := scope, pol := x.ent.pol, acq := false
            sb := P.sb.length, op := s.fresh, rmw := some f, elem := none, va := va, key := s.opKey s.focus }
        { P with sealed := false, pend := P.pend ++ [x] }

/-- R256. Atomic operation o on 32 bits at s[a] with s[t]; s[t] := the old value. -/
def execAtomW (t a : BitVec 5) (c : BitVec 4) (sc : BitVec 3) (o : BitVec 3) (g : BitVec 5) (s : State) : Out :=
  guarded g s fun s => s.opAtomic t (s.rdS 0 a) 2 c.toNat sc.toNat (.atom o ((s.rdS 2 t).toNat % 2 ^ 32))

/-- R257. Compare-and-swap on 32 bits at s[a]: expect s[t], new s[t+1]; s[t] := the old value. -/
def execCasW (t a : BitVec 5) (c : BitVec 4) (sc : BitVec 3) (g : BitVec 5) (s : State) : Out :=
  guarded g s fun s =>
    s.opAtomic t (s.rdS 0 a) 2 c.toNat sc.toNat
      (.cas ((s.rdS 2 t).toNat % 2 ^ 32) ((s.rdS 3 (t + 1)).toNat % 2 ^ 32))

/-- R256. Atomic operation o on 64 bits at s[a] with s[t]; s[t] := the old value. -/
def execAtomD (t a : BitVec 5) (c : BitVec 4) (sc : BitVec 3) (o : BitVec 3) (g : BitVec 5) (s : State) : Out :=
  guarded g s fun s => s.opAtomic t (s.rdS 0 a) 3 c.toNat sc.toNat (.atom o ((s.rdS 2 t).toNat % 2 ^ 64))

/-- R257. Compare-and-swap on 64 bits at s[a]: expect s[t], new s[t+1]; s[t] := the old value. -/
def execCasD (t a : BitVec 5) (c : BitVec 4) (sc : BitVec 3) (g : BitVec 5) (s : State) : Out :=
  guarded g s fun s =>
    s.opAtomic t (s.rdS 0 a) 3 c.toNat sc.toNat
      (.cas ((s.rdS 2 t).toNat % 2 ^ 64) ((s.rdS 3 (t + 1)).toNat % 2 ^ 64))

/-! ### Fence and wait -/

/-- R258, R78. Order earlier accesses in the masked classes before later ones. The datum it may force stands before the
bundle, which has waited for earlier masked reads; earlier masked stores of the task that have not performed hold later masked
accesses; with scope 2 or wider the core's L1 is invalidated now and once more as those stores perform. -/
def execFence (m : BitVec 16) (sc : BitVec 3) (g : BitVec 5) (s : State) : Out :=
  guarded g s fun s =>
    if m = 0 || sc = 0 then s
    else
      let wide := 2 ≤ sc.toNat
      let mark (x : GStore) : GStore :=
        if some x.task == s.me.task && m.getLsbD x.cls
        then { x with before := (m, s.rseq) :: x.before, inval := x.inval || wide } else x
      let s := { s with released := s.released.map mark }
      s.acquired s.focus sc.toNat

/-- cond(x) of R259. -/
def mwaitMet (x : W64) (target : BitVec 56) : Bool := x.getLsbD 63 || target.toNat ≤ bitsAt x.toNat 0 56

/-- The value an mwait reads at the home, never from L1 (R259); none when it is poisoned or out of reach (R260, R332). -/
def State.mwaitRead (s : State) (m : Monitor) : Option W64 :=
  if s.poisonedAt m.loc 8 then none else some (leWord 64 (s.readHome m.loc 8))

/-- An mwait's read is on its way: its request is sent, or waits for its lane, an answer in hand brings the word, and it passes the
memory-side cache (R32, R259, R260, R359). -/
def State.mwaitSee (s : State) (m : Monitor) : State :=
  let t := ({ s with ans := none } : State).sent m.loc .monitor
  (({ t with ans := s.ans } : State).told m.loc 8).touch m.loc 8 false m.pol

/-- An mwait of partition p returns value x and a status, as an acquire; L1 keeps no older copy of the line (R72, R259, R261). -/
def State.mwaitReturn (s : State) (p : Nat) (m : Monitor) (x : W64) (status : Nat) : State :=
  let s := s.updPart p fun P =>
    let put (P : Part) (d : Nat) (v : W64) : Part := if d = 0 then P else P.issue (.s d v) 0
    put (put { P with regs := { P.regs with mon := none } } m.t x) (m.t + 1) (BitVec.ofNat 64 status)
  let s := s.updCore (coreOf p) fun c => c.cinvLine m.loc
  (s.noteIn p (leBytes 8 x.toNat)).acquired p m.scope

/-- R259, R260. Wait until the word at s[a] reaches s[b]: a home of this package is read at once, and the monitor is armed when it has
not; a home outside is asked, and answers later. -/
def execMwait (t a b : BitVec 5) (sc : BitVec 3) (g : BitVec 5) (s : State) : Out :=
  guarded g s fun s =>
    let va := s.rdS 0 a
    match s.checkGlobal .load va 8 3 with
    | .error tr => s.trap s.focus tr
    | .ok x =>
      let m : Monitor := ⟨x.loc, va, (s.rdS 1 b).setWidth 56, t.toNat, sc.toNat, x.ent.pol⟩
      let arm (s : State) : State := s.updMe fun P => { P with regs := { P.regs with mon := some m } }
      if !s.localHome x.loc && s.reachable x.loc then arm (s.sent x.loc .monitor)
      else
        match s.mwaitRead m with
        | none => s.consume s.focus x.loc.space (va.toNat / 128 * 128)
        | some y => if mwaitMet y m.target then (s.mwaitSee m).mwaitReturn s.focus m y 0 else arm (s.mwaitSee m)

/-! ### Prefetch, invalidation, view join, instruction fence -/

/-- A prefetch of the line at a place into the L1 of core c (R262): a home of this package answers at once, and one outside is asked for
the line once. -/
def State.prefetch (s : State) (c : Nat) (l : Loc) : State :=
  if s.localHome l then s.l1Put c l (leWord 1024 (s.readHome l 128))
  else if (s.core c).pf.any (sameLine l ·) then s
  else (s.sent l fun a => .read a 128).updCore c fun k => { k with pf := k.pf ++ [l] }

/-- R262. Prefetch t + 1 lines from the line that holds s[a], into the caches that the policy names; a line that fails a check is
skipped. -/
def execPrf (t a : BitVec 5) (h : BitVec 2) (g : BitVec 5) (s : State) : Out :=
  guarded g s fun s =>
    let base := (s.rdS 0 a).toNat / 128 * 128
    (List.range (t.toNat + 1)).foldl (fun s k =>
      match s.xlate s.focus .load ((base + 128 * k) % 2 ^ 64) 128 with
      | .error _ => s
      | .ok x =>
        if s.poisonedAt x.loc 128 then s
        else
          let s := s.touch x.loc 128 false (x.ent.pol ||| h)
          if (x.ent.pol ||| h).getLsbD 0 then s else s.prefetch (coreOf s.focus) x.loc) s

/-- R263. Invalidate the whole L1 of the core. -/
def execCinv (g : BitVec 5) (s : State) : Out :=
  guarded g s fun s => s.updCore (coreOf s.focus) Core.cinv

/-- R263. Invalidate the L1 line that holds s[a]; nothing when the address does not translate. -/
def execCinvL (a : BitVec 5) (g : BitVec 5) (s : State) : Out :=
  guarded g s fun s =>
    match s.xlate s.focus ⟨false, false, false, false⟩ (s.rdS 0 a).toNat 1 with
    | .error _ => s
    | .ok x => s.updCore (coreOf s.focus) fun c => c.cinvLine x.loc

/-- R264. Join the two scratchpad views; the bundle has waited for earlier tile operations. -/
def execVjoin (g : BitVec 5) (s : State) : Out :=
  guarded g s fun s => s.joinViews s.focus

/-- R265, R88. Instruction fence: the datum and the wait for released stores stand before the bundle; the core's instruction
cache is invalidated. -/
def execIfence (g : BitVec 5) (s : State) : Out :=
  guarded g s fun s => s.updCore (coreOf s.focus) fun c => { c with ic := [] }

end Sys2Proof.Machine
end

