-- ==== Sys2Proof/Machine/Matrix.lean ====
section
/-! DEFINITION. Operand rings, the matrix engine and the drain-edge check (R223 to R242), with the events by which matrix
commands, `tld` and `tst` complete. -/

namespace Sys2Proof.Machine

/-! ### Rings -/

/-- A ring bound and not configured (R228). -/
def Ring.none : Ring := ⟨0, 0, 0, 0, 0, 0, 0, 0, false, []⟩

/-- Ring q of the task on partition p. -/
def State.ring (s : State) (p q : Nat) : Ring := KMap.get Ring.none (s.res p).rings q

/-- Ring q of the task on partition p changed. -/
def State.updRing (s : State) (p q : Nat) (f : Ring → Ring) : State :=
  s.updRes p fun r => { r with rings := KMap.set r.rings q (f (KMap.get Ring.none r.rings q)) }

/-- The head slot, when the ring holds a slot not popped and its data have arrived (R223, R271). -/
def Ring.head? (r : Ring) : Option TileData :=
  if r.slots.length ≤ r.popped then .none
  else
    match KMap.find r.slots r.head with
    | some x => if x.ready then some x.data else .none
    | .none => .none

/-- What a read finds in the head slot of a ring of the task on partition p (R8, R223). -/
def State.headTile (s : State) (p q : Nat) : Option TileData :=
  let r := s.ring p q
  match r.head? with
  | .none => .none
  | some t => some (if (KMap.find r.slots r.head).any RingSlot.undef then undefTile s.fresh (256 * q + r.head) t.fmt t.cb t.poison else t)

/-- The slot index after i. -/
def Ring.after (r : Ring) (i : Nat) : Nat := (i + 1) % max 1 r.nslots

/-- The head slot popped: it stays unfillable until commit (R128). -/
def Ring.pop (r : Ring) : Ring := { r with head := r.after r.head, count := r.count - 1, popped := r.popped + 1 }

/-- The tail slot filled (R232). -/
def Ring.fill (r : Ring) (t : TileData) : Ring :=
  { r with slots := KMap.set r.slots r.tail ⟨t, true, false⟩, tail := r.after r.tail, count := r.count + 1 }

/-- The slots popped in the open interval become fillable (R124 step 6, R128). -/
def Ring.settle (r : Ring) : Ring :=
  let gone := (List.range r.popped).map fun k => (r.head + r.nslots - 1 - k) % max 1 r.nslots
  { r with popped := 0, slots := r.slots.filter fun e => !gone.contains e.1 }

/-- The status word of a ring (R230). -/
def Ring.status (r : Ring) : W64 :=
  let h : Nat := match r.head? with | some t => t.fmt.toNat | .none => 15
  BitVec.ofNat 64 (r.head * 2 ^ 56 + r.tail * 2 ^ 48 + r.count * 2 ^ 39 + r.nslots * 2 ^ 30 + r.base * 2 ^ 24 +
    r.nunits * 2 ^ 17 + r.sz * 2 ^ 15 + h * 2 + r.inx.toNat)

/-- RING with a reason and ring (R234). -/
def ringTrap (pc : W64) (reason q : Nat) : Trap := ⟨6, pc, BitVec.ofNat 64 (reason * 2 ^ 56 + q * 2 ^ 48)⟩

/-- RING at the bundle in issue. -/
def State.trapRing (s : State) (reason q : Nat) : State := s.trap s.focus (ringTrap s.me.issA reason q)

/-- The ring is in the task's mask (reason 1 of R234). -/
def State.ringNamed (s : State) (p q : Nat) : Bool := (s.res p).rmask.getLsbD q

/-! ### Products -/

/-- The value of a drain output. -/
def DVal.val : DVal → FV
  | .f x => f32 x
  | .z n e => FV.ofDy ⟨n, e⟩

/-- A drain output rounded as it leaves the drain buffer (R198). -/
def DVal.out (d : DVal) : W32 := rne32 d.val

/-- The inverse of one bit of a drain output. -/
def DVal.flip (b : Nat) : DVal → DVal
  | .f x => .f (x ^^^ BitVec.twoPow 32 b)
  | .z n e => .z (if n.natAbs.testBit b then n - (2 ^ b : Nat) else n + (2 ^ b : Nat)) e

/-- Output (i, j) of the drain buffer. -/
def dAt (d : List DVal) (i j : Nat) : DVal := nth (.f 0) d (65 * i + j)

/-- One output of a product (R197): the rounded dot product, or the exact integer of a checksum output, and whether it
overflowed. The terms of integer operands are integers, among which there is no −0. -/
def dotOut (ints exact : Bool) (a b : List FV) : DVal × Bool :=
  let v := dotExact a b
  let v := if ints && v.isZero then .fin false 0 0 else v
  match exact, v with
  | true, .fin .. => (.z v.dy.n v.dy.e, false)
  | _, _ =>
    let r := roundTo .fp32 .rn false v
    (.f (BitVec.ofNat 32 r.enc), r.ovf)

/-- The 65 x 65 outputs of A streamed against B (R56, R197, R225), and whether one overflowed. -/
def product (a b : TileData) : List DVal × Bool :=
  let av := a.values
  let bv := b.values
  let rows := (List.range 64).map (rowOf av) ++ [a.csr.map f32]
  let cols := (List.range 64).map (colOf bv) ++ [b.csc.map f32]
  let ints := isIntFmt a.fmt
  let o := (rows.zipIdx).flatMap fun (r, i) => (cols.zipIdx).map fun (c, j) => dotOut ints (ints && (i = 64 || j = 64)) r c
  (o.map Prod.fst, o.any Prod.snd)

/-- The flips that strike one computation, one for each place, and those left for the next (R327). -/
def strike : List (Nat × Nat × Nat) → List (Nat × Nat × Nat) × List (Nat × Nat × Nat)
  | [] => ([], [])
  | f :: fs =>
    let (a, b) := strike fs
    if a.any fun g => g.1 = f.1 && g.2.1 = f.2.1 then
      (f :: a.filter (fun g => !(g.1 = f.1 && g.2.1 = f.2.1)), a.filter (fun g => g.1 = f.1 && g.2.1 = f.2.1) ++ b)
    else (f :: a, b)

/-- The drain outputs with bits inverted. -/
def flipped (d : List DVal) (fs : List (Nat × Nat × Nat)) : List DVal :=
  (d.zipIdx).map fun (x, e) =>
    match fs.find? fun f => 65 * f.1 + f.2.1 = e with
    | some f => x.flip f.2.2
    | none => x

/-! ### The drain-edge check -/

/-- What a check of 65 x 65 values finds: failing rows and columns, and whether a line was skipped (R237). -/
structure Verdict where
  fr : List Nat
  fc : List Nat
  nc : Bool

/-- Row i against column 64 (R237). -/
def rowTest (tol : Option Nat) (at_ : Nat → Nat → FV) (i : Nat) : Option Bool :=
  lineTest tol ((List.range 64).map fun j => at_ i j) (at_ i 64)

/-- Column j against row 64 (R237). -/
def colTest (tol : Option Nat) (at_ : Nat → Nat → FV) (j : Nat) : Option Bool :=
  lineTest tol ((List.range 64).map fun i => at_ i j) (at_ 64 j)

/-- The drain-edge check (R237). -/
def drainCheck (tol : Option Nat) (at_ : Nat → Nat → FV) : Verdict :=
  let r := (List.range 65).map fun i => (i, rowTest tol at_ i)
  let c := (List.range 65).map fun j => (j, colTest tol at_ j)
  let bad (l : List (Nat × Option Bool)) : List Nat := (l.filter fun x => x.2 == some false).map Prod.fst
  ⟨bad r, bad c, (r ++ c).any fun x => x.2 == none⟩

/-- The larger tolerance of FA and FB (R237). -/
def pairTol (fa fb : BitVec 4) : Option Nat :=
  match tolerance fa, tolerance fb with
  | some a, some b => some (min a b)
  | _, _ => none

/-- Output (i, j) solved from row i and rounded once; a checksum output of integer operands stays exact (R238). -/
def solved (ints : Bool) (d : List DVal) (i j : Nat) : DVal :=
  let v (k : Nat) : Dy := (dAt d i k).val.dy
  let others := Dy.sum (((List.range 64).filter fun k => k != j).map v)
  let x := if j < 64 then (v 64).sub others else others
  if ints && (i = 64 || j = 64) then .z x.n x.e else .f (rne32 (FV.ofDy x))

/-- The correction of R238 for one failing row and column; none when a line still fails. -/
def corrected (tol : Option Nat) (ints : Bool) (d : List DVal) (i j : Nat) : Option (List DVal) :=
  let d' := d.set (65 * i + j) (solved ints d i j)
  let at_ (a b : Nat) : FV := (dAt d' a b).val
  if rowTest tol at_ i == some true && colTest tol at_ j == some true then some d' else none

/-! ### Matrix commands -/

/-- The front command of a partition (R223). -/
def Part.front (P : Part) : Option MxCmd := P.mxq.head?

/-- The front command changed. -/
def State.updFront (s : State) (p : Nat) (f : MxCmd → MxCmd) : State :=
  s.updPart p fun P => { P with mxq := match P.mxq with | [] => [] | c :: cs => f c :: cs }

/-- The front command completes. -/
def State.dropFront (s : State) (p : Nat) : State := s.updPart p fun P => { P with mxq := P.mxq.drop 1 }

/-- A command that reads a ring. -/
def MxKind.onRing : MxKind → Bool
  | .mxchk => false
  | _ => true

/-- A command that computes a product. -/
def MxKind.isProduct : MxKind → Bool
  | .mxmac | .mxmul | .mxdrv => true
  | _ => false

/-- A command that names an accumulator tile. -/
def MxKind.onTile : MxKind → Bool
  | .mxmac | .mxmul | .mxchk => true
  | _ => false

/-- An earlier operation than number `seq` that consumes from ring q has not completed (R248). -/
def Part.consumerBefore (P : Part) (q seq : Nat) : Bool :=
  (P.mxq.any fun c => c.seq < seq && c.q = q && c.kind.onRing) || (P.tq.any fun o => o.seq < seq && o.q = q && o.store)

/-- A status read of ring q that issued before number `seq` has not landed (R230, R248). -/
def Part.statusBefore (P : Part) (q seq : Nat) : Bool := P.rsq.any fun o => o.seq < seq && o.q = q

/-- An earlier operation than number `seq` on ring q has not completed. -/
def Part.ringBefore (P : Part) (q seq : Nat) : Bool :=
  P.consumerBefore q seq || (P.tq.any fun o => o.seq < seq && o.q = q) || P.statusBefore q seq

/-- The partition's current stationary buffer (R224). -/
def Stat.current (x : Stat) : Option TileData :=
  match x.cur with
  | none => none
  | some b => if b then x.b1 else x.b0

/-- The drain buffer of a core holds a product whose command has not retired (R225). -/
def State.draining (s : State) (c : Nat) : Option Drain :=
  match (s.core c).drain with
  | none => none
  | some d =>
    match (s.part d.part).front with
    | some x => if x.started && x.kind.isProduct && coreOf d.part = c then some d else none
    | none => none

/-- The front command of a partition can start (R223): its ring has a head slot, earlier operations on its ring and tile
have completed, and for a product the drain buffer is free. -/
def State.canStart (s : State) (p : Nat) : Bool :=
  match (s.part p).front with
  | none => false
  | some c =>
    let P := s.part p
    !c.started && (!c.kind.onRing || (((s.ring p c.q).head?).isSome && !P.consumerBefore c.q c.seq && !P.statusBefore c.q c.seq)) &&
    (!c.kind.onTile || !(P.aq.any fun o => o.seq < c.seq && o.tile = c.t)) &&
    (!c.kind.isProduct || (s.draining (coreOf p)).isNone)

/-- Bad operands found as the engine starts a command, the lowest reason of R234. -/
def startReason (c : MxCmd) (a : TileData) (b : Option TileData) : Option Nat :=
  if c.kind = .mxw then (if a.fmt ≠ c.fb || (isMxFmt a.fmt && !a.cb) then some 3 else none)
  else if a.fmt ≠ c.fa || (isMxFmt a.fmt && a.cb) then some 3
  else
    match b with
    | none => some 7
    | some b => if b.fmt ≠ c.fb || (isMxFmt b.fmt && !b.cb) then some 3 else none

/-- The address of a ring slot in space 5 (R21). -/
def slotAddr (q i : Nat) : Nat := q * 256 + i

/-- The tile that an mxmac adds to is poisoned (R332). -/
def State.sumPoison (s : State) (p : Nat) (c : MxCmd) : Option Nat :=
  if c.kind = .mxmac then s.accPoison p c.t fun _ => true else none

/-- Poison in the operands of a product: the slot, the stationary buffer, and the tile that an mxmac adds to, as space and address (R332). -/
def State.productPoison (s : State) (p : Nat) (c : MxCmd) (a b : TileData) : Option (Nat × Nat) :=
  if a.poison then some (5, slotAddr c.q (s.ring p c.q).head)
  else if b.poison then some (6, (((s.res p).stat.cur).getD false).toNat)
  else (s.sumPoison p c).map fun ad => (3, ad)

/-- The product of the front command computed into the drain buffer, struck by the flips that wait (R225, R327). Poison among its
operands is consumed, at a recompute as at the start (R238, R332). -/
def State.compute (s : State) (p : Nat) (c : MxCmd) (a b : TileData) : State :=
  match s.productPoison p c a b with
  | some (sp, ad) => s.consumeAt p c.pc sp ad
  | none =>
    let k := coreOf p
    let (d, ovf) := product a b
    let (now, later) := strike (s.core k).flips
    let s := s.noteInAt p c.key (a.image ++ b.image)
    let s := s.updFront p fun _ => { c with started := true }
    s.updCore k fun x =>
      { x with drain := some ⟨p, flipped d now, ovf⟩, flips := later
               array := some (p, ((s.res p).stat.cur).getD false) }

/-- The engine starts the front command of partition p (R223 to R225, R232, R234, R332). -/
def State.startFront (s : State) (p : Nat) : State :=
  match (s.part p).front with
  | none => s
  | some c =>
    if !c.kind.onRing then s.updFront p fun c => { c with started := true }
    else
      let r := s.ring p c.q
      match s.headTile p c.q with
      | none => s
      | some a =>
        let st := (s.res p).stat
        match startReason c a st.current with
        | some n => s.trap p (ringTrap c.pc n c.q)
        | none =>
          if a.poison then s.consumeAt p c.pc 5 (slotAddr c.q r.head)
          else if c.kind = .mxw then s.updFront p fun c => { c with started := true }
          else
            match st.current with
            | none => s
            | some b => s.compute p c a b

/-- A drained product goes to its destination and the command retires (R198, R236); poison in the tile it adds to is consumed (R332). -/
def State.retire (s : State) (p : Nat) (c : MxCmd) (d : List DVal) (bits : BitVec 5) : State :=
  match s.sumPoison p c with
  | some ad => s.consumeAt p c.pc 3 ad
  | none =>
    let s : State :=
      match c.kind with
      | .mxdrv =>
        s.updPart p fun P => (List.range 4).foldl (fun P k =>
          P.patchV (c.t + k) 0 (Vec.build fun e => (dAt d (16 * k + e / 64) (e % 64)).out)) P
      | .mxmul => s.setAcc p c.key c.t (d.map DVal.out) (fun _ _ => true) fun _ => true
      | _ =>
        let r : List Rounded :=
          List.zipWith (fun (x : W32) (y : DVal) => roundTo .fp32 .rn false (FV.add (f32 x) y.val)) (s.acc p c.t) d
        let s := s.noteInAt p (c.key + 1) ((s.acc p c.t).flatMap fun x => leBytes 4 x.toNat)
        (s.setAcc p c.key c.t (r.map fun x => BitVec.ofNat 32 x.enc) (fun _ _ => true) fun _ => false).sticky p
          (if r.any Rounded.ovf then bitOVF else 0)
    let s := if c.pop then s.updRing p c.q Ring.pop else s
    (s.sticky p bits).dropFront p

/-- The drain buffer of the product of partition p is checked (R237, R238): it passes, is corrected, is recomputed at most
twice, or fails. -/
def State.checkDrain (s : State) (p : Nat) (c : MxCmd) (dr : Drain) : State :=
  let k := coreOf p
  let tol := pairTol c.fa c.fb
  let v := drainCheck tol fun i j => (dAt dr.d i j).val
  let bits := (if dr.ovf then bitOVF else 0) ||| (if v.nc then bitNC else 0)
  let isl := coreIsland k 1
  let free (s : State) : State := s.updCore k fun x => { x with drain := none }
  let fixed : Option (List DVal × Nat) :=
    match v.fr, v.fc with
    | [i], [j] => (corrected tol (isIntFmt c.fa) dr.d i j).map fun d => (d, j)
    | _, _ => none
  if v.fr.isEmpty && v.fc.isEmpty then (free s).retire p c dr.d bits
  else
    match fixed with
    | some (d, j) =>
      let idx := if v.fr.headD 64 < 64 && j < 64 then (s.columnOf k j).headD 0x1FF else 0x1FF
      let s := (s.updCore k fun x => x.addCorr 1).countErr isl 0 0 1
      let s := if idx = 0x1FF then s else s.addErr k idx
      let s := s.log 8 0 isl k (p % 4) idx 0 (patternWord v.fr v.fc)
      (free s).retire p c d (bits ||| bitCOR)
    | none =>
      if c.tries < 2 then
        match s.headTile p c.q, ((s.res p).stat).current with
        | some a, some b =>
          match s.productPoison p c a b with
          | some (sp, ad) => (free s).consumeAt p c.pc sp ad
          | none => ((free s).recomputed p 1 v.fr v.fc).compute p { c with tries := c.tries + 1 } a b
        | _, _ => s
      else (free s).checkFailed p 1 c.q (if c.kind.onTile then c.t else 0) v.fr v.fc c.pc

/-- The load of an mxw completes (R224, R235): the buffer that is not current is filled and becomes current. -/
def State.finishMxw (s : State) (p : Nat) (c : MxCmd) : State :=
  match s.headTile p c.q with
  | none => s
  | some a =>
    let s := s.noteInAt p c.key a.image
    let s := s.updRes p fun r =>
      let nb := match r.stat.cur with | none => false | some b => !b
      { r with stat := { b0 := if nb then r.stat.b0 else some a, b1 := if nb then some a else r.stat.b1
                         cur := some nb, loaded := true } }
    (if c.pop then s.updRing p c.q Ring.pop else s).dropFront p

/-- An mxchk tests its tile (R239). -/
def State.finishMxchk (s : State) (p : Nat) (c : MxCmd) : State :=
  match s.accPoison p c.t fun _ => true with
  | some ad => s.consumeAt p c.pc 3 ad
  | none =>
    let a := s.acc p c.t
    let s := s.noteInAt p c.key (a.flatMap fun x => leBytes 4 x.toNat)
    let v := drainCheck (some c.e) fun i j => f32 (accEl a i j)
    let nc := if v.nc then bitNC else 0
    if v.fr.isEmpty && v.fc.isEmpty then (s.sticky p nc).dropFront p
    else if c.rep then (s.sticky p (nc ||| bitCKF)).dropFront p
    else s.checkFailed p 2 0 c.t v.fr v.fc c.pc

/-! ### tld and tst -/

/-- Bytes of the image a tld or tst touches (R58). -/
def TileOp.size (o : TileOp) : Nat := imageSize o.f

/-- Two image accesses in the swizzled view meet in a line, and one of them writes (R248). -/
def TileOp.clash (x y : TileOp) : Bool :=
  (x.store || y.store) && x.off / 128 * 128 < y.off + y.size && y.off / 128 * 128 < x.off + x.size

/-- The k-th tld or tst of partition p can start: operations on one ring and on one line take effect in program order (R223, R248). -/
def State.tileReady (s : State) (p k : Nat) : Bool :=
  let P := s.part p
  match P.tq[k]? with
  | none => false
  | some o =>
    !((P.tq.take k).any fun x => x.clash o) &&
    (if o.store then ((s.ring p o.q).head?).isSome && !P.consumerBefore o.q o.seq && !P.statusBefore o.q o.seq
     else !P.ringBefore o.q o.seq)

/-- The k-th tile operation completes. -/
def State.dropTile (s : State) (p k : Nat) : State := s.updPart p fun P => { P with tq := P.tq.eraseIdx k }

/-- A tile as its slot takes it (R231, R232): transposed, converted; with INX and SAT. -/
def TileOp.convert (o : TileOp) (t : TileData) : TileData × Bool × Bool :=
  let (t, inx) := if o.tr then t.transposed else (t, false)
  let (t, sat) := t.recode o.fd o.cb
  ({ t with cb := o.cb }, inx, sat)

/-- A tld reads, verifies, converts and fills its slot (R232, R334, R372). -/
def State.finishTld (s : State) (p k : Nat) (o : TileOp) : State :=
  match (s.res p).poisonAt true o.off o.size with
  | some b => s.consumeAt p o.pc 1 b
  | none =>
    let bs := s.spRead p true o.off o.size
    let s := s.noteInAt p o.key bs
    let t := TileData.ofImage o.f o.cb bs false
    let v := t.tests
    if !testsPass v then
      if o.tries < 2 then
        (s.recomputed p 2 [] []).updPart p fun P => { P with tq := P.tq.set k { o with tries := o.tries + 1 } }
      else s.checkFailed p 3 o.q 0 [] [] o.pc
    else
      if (o.tr || o.fd ≠ o.f) && (s.part p).residue then s.mismatch p 7
      else
      let (t, inx, sat) := o.convert t
      let s := s.updRing p o.q fun r => { r.fill t with inx := r.inx || inx }
      let s := s.noteOutAt p o.key (words64 t.image)
      (s.sticky p ((if testsSkip v then bitNC else 0) ||| (if sat then bitSAT else 0))).dropTile p k

/-- A tst writes the image of the head slot (R233); a poisoned slot leaves its lines poisoned (R331). -/
def State.finishTst (s : State) (p k : Nat) (o : TileOp) : State :=
  match s.headTile p o.q with
  | none => s
  | some t =>
    if t.fmt ≠ o.f then s.trap p (ringTrap o.pc 3 o.q)
    else if o.tr && (s.part p).residue then s.mismatch p 7
    else
      let (x, inx) := if o.tr then t.transposed else (t, false)
      let bs := x.image
      let s := (s.noteInAt p o.key t.image).noteOutAt p o.key (words64 bs)
      let s := s.spWrite p true o.off bs
      let s := if t.poison then s.spoilLines p true o.off bs.length else s
      let s := s.updRing p o.q fun r => let r := if o.pop then r.pop else r; { r with inx := r.inx || inx }
      s.dropTile p k

/-- The k-th tile operation of partition p performs when it can start. -/
def State.tileStep (s : State) (p k : Nat) : State :=
  match (s.part p).tq[k]? with
  | none => s
  | some o => if !s.tileReady p k then s else if o.store then s.finishTst p k o else s.finishTld p k o

/-! ### Progress of a partition's internal operations -/

/-- The k-th pending ringst of partition p lands (R230). -/
def State.landRing (s : State) (p k : Nat) : State :=
  match (s.part p).rsq[k]? with
  | none => s
  | some o =>
    if (s.part p).ringBefore o.q o.seq then s
    else
      let w := (s.ring p o.q).status
      let s := if o.clr then s.updRing p o.q fun r => { r with inx := false } else s
      (s.noteInAt p o.key (leBytes 8 w.toNat)).updPart p fun P =>
        let P := { P with rsq := P.rsq.eraseIdx k }
        if o.t = 0 then P else P.issue (.s o.t w) 0

/-- The k-th waiting A-slot operation of partition p performs (R243). -/
def State.accStep (s : State) (p k : Nat) : State :=
  match (s.part p).aq[k]? with
  | none => s
  | some o =>
    if (s.part p).tileBusy o.tile o.seq then s
    else (s.updPart p fun P => { P with aq := P.aq.eraseIdx k }).aPerform p o

/-- One internal step of partition p: its front command, a tile operation, a ringst or an A-slot operation, whichever has
issued first among those that can go on; none when nothing can. -/
inductive Inner where
  | start | drain (other : Nat) | load | chk | tile (k : Nat) | ring (k : Nat) | acc (k : Nat)
  deriving DecidableEq, Repr

/-- What the front command of partition p can do next, with its number. -/
def State.frontNext (s : State) (p : Nat) : List (Nat × Inner) :=
  match (s.part p).front with
  | none => []
  | some c =>
    if c.started then
      match c.kind with
      | .mxw => [(c.seq, .load)]
      | .mxchk => [(c.seq, .chk)]
      | _ => [(c.seq, .drain p)]
    else if s.canStart p then [(c.seq, .start)]
    else if c.kind.isProduct then
      match s.draining (coreOf p) with
      | some d => [(c.seq, .drain d.part)]
      | none => []
    else []

/-- What partition p's internal operations can do next, each with its number. -/
def State.inner (s : State) (p : Nat) : List (Nat × Inner) :=
  let P := s.part p
  s.frontNext p ++
  (P.tq.zipIdx).filterMap (fun (o, k) => if s.tileReady p k then some (o.seq, Inner.tile k) else none) ++
  (P.rsq.zipIdx).filterMap (fun (o, k) => if P.ringBefore o.q o.seq then none else some (o.seq, Inner.ring k)) ++
  (P.aq.zipIdx).filterMap (fun (o, k) => if P.tileBusy o.tile o.seq then none else some (o.seq, Inner.acc k))

/-- The drain buffer of core c is checked. -/
def State.drainStep (s : State) (c : Nat) : State :=
  match s.draining c with
  | none => s
  | some d =>
    match (s.part d.part).front with
    | some x => s.checkDrain d.part x d
    | none => s

/-- The first partition of a core from the one after the last served whose front command can start (R223). -/
def State.nextFront (s : State) (c : Nat) : Option Nat :=
  ((List.range 4).map fun k => 4 * c + ((s.core c).rr + 1 + k) % 4).find? s.canStart

/-- The engine of a core takes the next front command that is ready, in round-robin order, one a turn (R137, R223). -/
def State.takeTurn (s : State) (c : Nat) : State :=
  match s.nextFront c with
  | none => s
  | some p => (s.updCore c fun x => { x with rr := p % 4 }).startFront p

/-- An internal step is taken. A front command that is ready starts when its turn has come. -/
def State.innerStep (s : State) (p : Nat) (i : Inner) : State :=
  match i with
  | .start => s.takeTurn (coreOf p)
  | .drain q => s.drainStep (coreOf q)
  | .load => match (s.part p).front with | some c => s.finishMxw p c | none => s
  | .chk => match (s.part p).front with | some c => s.finishMxchk p c | none => s
  | .tile k => s.tileStep p k
  | .ring k => s.landRing p k
  | .acc k => s.accStep p k

/-- Internal operations of partition p go on in program order while `f` holds of the partition, for at most n steps. -/
def State.settleWhile (s : State) (p : Nat) (f : Part → Bool) : Nat → State
  | 0 => s
  | n + 1 =>
    if !f (s.part p) then s
    else
      match pick (fun (a b : Nat × Inner) => a.1 < b.1) (s.inner p) with
      | none => s
      | some (_, i) => ((s.innerStep p i).draw).settleWhile p f n

/-- The partition has internal operations that have not completed (R124, R240). -/
def Part.busy (P : Part) : Bool := !P.mxq.isEmpty || !P.tq.isEmpty || !P.rsq.isEmpty || !P.aq.isEmpty

/-- Internal operations of partition p go on as far as they can. -/
def State.settle (s : State) (p : Nat) : State := s.settleWhile p Part.busy 128

/-! ### Issue -/

/-- R227. The format latch takes FA, FB and W, in force four bundles on or after a datum. -/
def execMxfmt (a b : BitVec 4) (w : BitVec 1) (g : BitVec 5) (s : State) : Out :=
  guarded g s fun s => s.updMe fun P => { P with regs := { P.regs with fmtq := P.regs.fmtq ++ [(a, b, w == 1, 0)] } }

/-- A matrix command issues into the partition's front and shadow set (R223). -/
def State.mxIssue (s : State) (kind : MxKind) (t q : Nat) (pop rep : Bool) (e : Nat) : State :=
  s.updMe fun P =>
    { P with seq := P.seq + 1
             mxq := P.mxq ++ [⟨kind, P.seq, s.opKey s.focus, t, q, pop, P.regs.fa, P.regs.fb, rep, e, P.issA, false, 0⟩] }

/-- The ring checks of a command that consumes: reasons 1 and 2 of R234. -/
def State.onRing (s : State) (q : Nat) (f : State → State) : State :=
  if !s.ringNamed s.focus q then s.trapRing 1 q
  else if (s.ring s.focus q).nslots = 0 then s.trapRing 2 q
  else f s

/-- The tile check of a command (R228). -/
def State.onTile (s : State) (t : Nat) (f : State → State) : State :=
  if !s.tileNamed s.focus t then s.trapAddr 8 (t * 2 ^ 16) else f s

/-- R235. Load the head slot of ring q into a stationary buffer. -/
def execMxw (q : BitVec 4) (p : BitVec 1) (g : BitVec 5) (s : State) : Out :=
  guarded g s fun s => s.onRing q.toNat fun s => s.mxIssue .mxw 0 q.toNat (p == 1) false 0

/-- R236. Stream ring q against the stationary buffer and accumulate into tile t. The ring is checked before the tile
(assumption 52). -/
def execMxmac (t : BitVec 6) (q : BitVec 4) (p : BitVec 1) (g : BitVec 5) (s : State) : Out :=
  guarded g s fun s => s.onRing q.toNat fun s => s.onTile t.toNat fun s =>
    (s.openRemap s.focus t.toNat).mxIssue .mxmac t.toNat q.toNat (p == 1) false 0

/-- R236. Stream ring q against the stationary buffer and write tile t. The ring is checked before the tile (assumption 52). -/
def execMxmul (t : BitVec 6) (q : BitVec 4) (p : BitVec 1) (g : BitVec 5) (s : State) : Out :=
  guarded g s fun s => s.onRing q.toNat fun s => s.onTile t.toNat fun s =>
    (s.openRemap s.focus t.toNat).mxIssue .mxmul t.toNat q.toNat (p == 1) false 0

/-- R236. Stream ring q against the stationary buffer and drain to v[v] to v[v+3]. -/
def execMxdrv (v : BitVec 5) (q : BitVec 4) (p : BitVec 1) (g : BitVec 5) (s : State) : Out :=
  guarded g s fun s => s.onRing q.toNat fun s => s.mxIssue .mxdrv v.toNat q.toNat (p == 1) false 0

/-- R239. Check tile t against its own checksums with tolerance 2^-e. -/
def execMxchk (t : BitVec 6) (r : BitVec 1) (e : BitVec 5) (g : BitVec 5) (s : State) : Out :=
  guarded g s fun s => s.onTile t.toNat fun s => s.mxIssue .mxchk t.toNat 0 false (r == 1) e.toNat

/-- R240. The next bundle stalls until every earlier internal operation has completed. -/
def execMxwait (g : BitVec 5) (s : State) : Out :=
  guarded g s fun s => s.updMe fun P => { P with waitAll := true }

/-- The units [a, a + n) meet those of another configured ring of the task (R229). -/
def State.unitsTaken (s : State) (p q a n : Nat) : Bool :=
  (s.res p).rings.any fun e => e.1 != q && e.2.nslots != 0 && a < e.2.base + e.2.nunits && e.2.base < a + n

/-- R229. Configure ring q on n + 1 units from unit t with slots of size code z; the bundle has waited for earlier ring
operations. -/
def execRingcfg (t : BitVec 6) (q : BitVec 4) (n : BitVec 6) (z : BitVec 2) (g : BitVec 5) (s : State) : Out :=
  guarded g s fun s =>
    let k := q.toNat
    let units := n.toNat + 1
    if !s.ringNamed s.focus k then s.trapRing 1 k
    else if !(s.ring s.focus k).slots.isEmpty || (s.res s.focus).units < t.toNat + units ||
        s.unitsTaken s.focus k t.toNat units then s.trapRing 6 k
    else
      s.updRing s.focus k fun _ =>
        { base := t.toNat, nunits := units, sz := z.toNat, nslots := min 256 (units * 8192 / slotBytes z.toNat)
          head := 0, tail := 0, count := 0, popped := 0, inx := false, slots := [] }

/-- R230. s[t] := the status of ring q; c clears INX after the read. -/
def execRingst (t : BitVec 5) (q : BitVec 4) (c : BitVec 1) (g : BitVec 5) (s : State) : Out :=
  guarded g s fun s =>
    if !s.ringNamed s.focus q.toNat then s.trapRing 1 q.toNat
    else
      let s := s.updMe fun P =>
        { P with seq := P.seq + 1, rsq := P.rsq ++ [⟨t.toNat, q.toNat, c == 1, P.seq, s.opKey s.focus⟩] }
      s.landRing s.focus (s.me.rsq.length - 1)

/-- The slots of ring q that hold nothing and are not taken by a tld that has not completed (R128, R232). -/
def State.emptySlots (s : State) (p q : Nat) : Nat :=
  let r := s.ring p q
  r.nslots - r.slots.length - ((s.part p).tq.filter fun o => !o.store && o.q = q).length

/-- R232. Fill the tail slot of ring q from the tile image at s[a]: ring mask, address, then the other ring reasons. -/
def execTld (q : BitVec 4) (a : BitVec 5) (x : BitVec 1) (f : BitVec 4) (b : BitVec 1) (d : BitVec 4) (g : BitVec 5)
    (s : State) : Out :=
  guarded g s fun s =>
    let k := q.toNat
    if !s.ringNamed s.focus k then s.trapRing 1 k
    else
      match s.checkSp (s.rdS 0 a) (imageSize f) 7 with
      | .error tr => s.trap s.focus tr
      | .ok off =>
        let r := s.ring s.focus k
        if r.nslots = 0 then s.trapRing 2 k
        else if slotBytes r.sz < slotNeed d then s.trapRing 4 k
        else if s.emptySlots s.focus k = 0 then s.trapRing 5 k
        else s.updMe fun P =>
          { P with seq := P.seq + 1
                   tq := P.tq ++ [⟨false, P.seq, s.opKey s.focus, k, off, x == 1, f, d, b == 1, false, P.issA, 0⟩] }

/-- R233. Write the head slot of ring q as a tile image at s[a]: ring mask, address, then the other ring reasons, as for tld
(assumption 52). -/
def execTst (q : BitVec 4) (a : BitVec 5) (x : BitVec 1) (f : BitVec 4) (p : BitVec 1) (g : BitVec 5) (s : State) : Out :=
  guarded g s fun s =>
    if !s.ringNamed s.focus q.toNat then s.trapRing 1 q.toNat
    else
      match s.checkSp (s.rdS 0 a) (imageSize f) 7 with
      | .error tr => s.trap s.focus tr
      | .ok off => s.onRing q.toNat fun s => s.updMe fun P =>
        { P with seq := P.seq + 1
                 tq := P.tq ++ [⟨true, P.seq, s.opKey s.focus, q.toNat, off, x == 1, f, f, false, p == 1, P.issA, 0⟩] }

/-! ### Events -/

/-- R223. The engine of a core takes the next front command that is ready, in round-robin order. -/
def execMatrixCommandStart (core : Nat) (s : State) : Out := .next (s.takeTurn core)

/-- R237. The drain buffer of a core is checked. -/
def execDrainCheck (core : Nat) (s : State) : Out := .next (s.drainStep core)

/-- R235. The load of partition p's mxw completes. -/
def execMxwLoadComplete (p : Nat) (s : State) : Out :=
  .next (match (s.part p).front with
    | some c => if c.started && c.kind = .mxw then s.finishMxw p c else s
    | none => s)

/-- R239. Partition p's mxchk finishes its test. -/
def execMxchkComplete (p : Nat) (s : State) : Out :=
  .next (match (s.part p).front with
    | some c => if c.started && c.kind = .mxchk then s.finishMxchk p c else s
    | none => s)

/-- R232. The first tld of partition p that can performs. -/
def execTldComplete (p : Nat) (s : State) : Out :=
  .next (match ((s.part p).tq.zipIdx).find? fun (o, k) => !o.store && s.tileReady p k with
    | some (_, k) => s.tileStep p k
    | none => s)

/-- R233. The first tst of partition p that can performs. -/
def execTstComplete (p : Nat) (s : State) : Out :=
  .next (match ((s.part p).tq.zipIdx).find? fun (o, k) => o.store && s.tileReady p k with
    | some (_, k) => s.tileStep p k
    | none => s)

end Sys2Proof.Machine
end

