-- ==== Sys2Proof/Machine/Engine.lean ====
section
/-! DEFINITION. Engine commands and queries at issue (spec/13): descriptors (R266), the places they name (R21, R270), `copy`,
`stamp` (R269 to R272), collective entries (R273 to R276), handles (R278 to R280), snapshots (R281 to R283), the Chart (R284,
R285), and `grow` and `bgadd` (R301, R314). -/

namespace Sys2Proof.Machine

/-! ### Shared checks -/

/-- ILLEGAL at issue by the M slot: SLOT 4 and the operation's own word (R159, R266). -/
def State.illegalM (s : State) (reason : Nat) (i : Instr) : State :=
  s.trapIllegal reason 4 (match encode i with | some (w, _) => w | none => 0)

/-- A little-endian 64-bit word of a descriptor. -/
def descW (bs : List Byte) (o : Nat) : W64 := leWord 64 ((bs.drop o).take 8)

/-- A descriptor of n bytes, aligned to 2^lg, read at issue (R266): its checks, then poison (R332), then the rest. -/
def State.withDesc (s : State) (off : W64) (n lg : Nat) (f : State → List Byte → State) : State :=
  match s.checkSp off n lg with
  | .error tr => s.trap s.focus tr
  | .ok o =>
    match (s.res s.focus).poisonAt false o n with
    | some b => s.consume s.focus 1 b
    | none => f (s.noteIn s.focus (s.spRead s.focus false o n)) (s.spRead s.focus false o n)

/-- The descriptor as the debit reads it, whether or not the guard holds; none when it is unreadable (R266). -/
def State.descFor (s : State) (off : W64) (n lg : Nat) : Option (List Byte) :=
  let o := off.toNat
  if 2 ^ 22 ≤ o || 4096 * (s.res s.focus).rows < o + n || o % 2 ^ lg ≠ 0 then none
  else if ((s.res s.focus).poisonAt false o n).isSome then none
  else some (s.spRead s.focus false o n)

/-- A failed address check: its rank (0 ADDR, 1 HANDLE or RING, 2 ALIGN), the side that names it, its exact address (R14, R249,
R270). -/
structure BadPlace where
  cls  : Nat
  side : Nat
  addr : Int
  trap : Trap

/-- The first failure among several runs: by rank, then the lowest-addressed run (R14), then the side. -/
def firstBad (bs : List BadPlace) : Option BadPlace :=
  pick (fun a b =>
    a.cls < b.cls || (a.cls = b.cls && (a.addr < b.addr || (a.addr = b.addr && a.side < b.side)))) bs

/-- The lowest 64 bits of an exact address (R270). -/
def low64 (x : Int) : Nat := (x % (2 ^ 64 : Nat)).toNat

/-- The task in issue. -/
def State.self (s : State) : W64 := s.me.task.getD 0

/-- A place of n bytes in a space, for one side of a copy or a descriptor's address, aligned to 2^lg (R14, R21, R37, R270). An
access to a buffer held by handle that starts beyond it raises HANDLE or ADDR, which is left free, and one that starts within it and
runs past its end raises ADDR (assumption 68). -/
def State.place (s : State) (side sp : Nat) (wr : Bool) (x : Int) (n lg : Nat) (tile : Bool) : Except BadPlace Place :=
  let a := low64 x
  let bad (cls : Nat) (cause reason v : Nat) : Except BadPlace Place :=
    .error ⟨cls, side, x, ⟨cause, s.me.issA, detailWord reason v⟩⟩
  let out := x < 0 || (2 ^ 64 : Int) < x + n
  let acc := if wr then Acc.store else Acc.load
  let aligned (pl : Place) (k : Nat) : Except BadPlace Place := if a % 2 ^ k ≠ 0 then bad 2 4 k a else .ok pl
  match sp with
  | 0 | 4 =>
    if out then bad 0 3 1 a
    else
      let ents := match s.launchOn s.focus with | some l => s.entsOf l.asid l.gen | none => []
      let ents := if sp = 4 then ents.filter fun e => e.tgt = 2 else ents
      match translate ents s.regs.podid (s.isSup s.focus) s.hatom acc a n with
      | .error r => bad 0 3 r a
      | .ok t => aligned (.glob t.loc t.ent.pol) lg
  | 1 =>
    if out || 4096 * (s.res s.focus).rows < a + n then bad 0 3 8 a
    else
      match (s.core (coreOf s.focus)).lentRow s.self (a / 4096) ((a + n - 1) / 4096 - a / 4096 + 1) with
      | some h => bad 1 5 1 h
      | none => aligned (.sp s.self a) lg
  | 2 =>
    let o := a % 2 ^ 22
    if out || bitsAt a 22 10 ≠ 0 || bitsAt a 38 26 ≠ 0 then bad 0 3 8 a
    else
      let h := bitsAt a 32 6
      match KMap.find (s.core (coreOf s.focus)).handles h with
      | none => bad 1 5 2 h
      | some e =>
        if e.state ≠ 3 || e.resv then bad 1 5 2 h
        else if e.owner ≠ s.self then bad 1 5 3 h
        else if 4096 * e.nrows ≤ o && Config.freeChoice (s.freeIx 202) then bad 1 5 4 h
        else if 4096 * e.nrows < o + n then bad 0 3 8 a
        else
          let home := KMap.find (s.core (peerCore (coreOf s.focus) e.peer)).handles e.peerh
          aligned (.sp (match home with | some x => x.owner | none => 0) (4096 * e.baserow + o)) lg
  | 3 =>
    let byteOk (b : Nat) : Bool := bitsAt b 9 7 ≤ 64 && b % 512 ≤ 259
    if out || a / 2 ^ 22 ≠ 0 || !s.tileNamed s.focus (a / 2 ^ 16) then bad 0 3 8 a
    else if tile then aligned (.acc s.self a) 16
    else if !((List.range n).all fun k => (a + k) / 2 ^ 16 = a / 2 ^ 16 && byteOk (a + k)) then bad 0 3 8 a
    else aligned (.acc s.self a) 2
  | _ =>
    if out || a / 2 ^ 12 ≠ 0 then bad 0 3 8 a
    else if !s.ringNamed s.focus (a / 256) then .error ⟨1, side, x, ringTrap s.me.issA 1 (a / 256)⟩
    else .ok (.slot s.self (a / 256) (a % 256))

/-- A global address of n bytes that a descriptor or a register names: reads or writes at issue's rights (R19). -/
def State.globalPlace (s : State) (side : Nat) (wr : Bool) (va : W64) (n lg : Nat) : Except BadPlace Spot :=
  match s.place side 0 wr va.toNat n lg false with
  | .error b => .error b
  | .ok (.glob l pol) => .ok ⟨l, pol⟩
  | .ok _ => .ok ⟨.hbm 0, 0⟩

/-- The failures among results. -/
def failures {α : Type} (l : List (Except BadPlace α)) : List BadPlace :=
  l.filterMap fun r => match r with | .error b => some b | .ok _ => none

/-- The failure of one result. -/
def failure {α : Type} (r : Except BadPlace α) : List BadPlace := failures [r]

/-- The value of one result. -/
def placed {α : Type} (r : Except BadPlace α) : Option α := match r with | .error _ => none | .ok x => some x

/-- The 256 KiB pages of n bytes at a home, as the page-lock table counts them (R19). -/
def Loc.pages (l : Loc) (n : Nat) : List (Bool × Nat) :=
  if n = 0 then []
  else
    let host := match l with | .host _ => true | .hbm _ => false
    (List.range ((l.addr + n - 1) / 2 ^ 18 - l.addr / 2 ^ 18 + 1)).map fun k => (host, l.addr / 2 ^ 18 + k)

/-- The pages of n bytes of a place; local spaces have none. -/
def Place.pages (pl : Place) (n : Nat) : List (Bool × Nat) :=
  match pl with
  | .glob l _ => l.pages n
  | _ => []

/-- The pages of a stamp. -/
def StampLoc.pages : StampLoc → List (Bool × Nat)
  | .global x => x.loc.pages 8
  | .sp .. => []

/-- An engine command withheld until its interval commits (R76, R266), with the operands the signature of a rerun covers. -/
def State.command (s : State) (kind : CmdKind) (cls scope : Nat) (pages : List (Bool × Nat)) (operands : List W64) : State :=
  ((s.noteOut s.focus operands).withhold (.cmd
    { kind := kind, part := s.focus, task := s.self, asid := s.asidOn s.focus, cls := cls, scope := scope, seq := 0
      vj := s.me.regs.vj, after := (s.me.regs.acq.filter fun e => e.1 = cls).map Prod.snd
      pages := pages.eraseDups, pinned := false, slots := [], did := [], prog := [], status := 0, done := false })).takeEntries 1

/-- An engine query's result: an interlocked value, read from the state as it stands (R120, R266). -/
def State.answer (s : State) (d : BitVec 5) (x : W64) : State := (s.noteIn s.focus (leBytes 8 x.toNat)).landS d x

/-! ### copy and stamp -/

/-- A copy's descriptor as read (R269). -/
structure CopyRaw where
  resv : Bool
  hint : BitVec 2
  anchor : Int
  ndim : Nat
  cb : Bool
  dfmt : BitVec 4
  sfmt : BitVec 4
  op : Nat
  tile : Bool
  stsp : Bool
  dsp : Nat
  ssp : Nat
  src : W64
  dst : W64
  stamp : W64
  cnt : List Nat
  ss : List Int
  ds : List Int

/-- The fields of R269. -/
def CopyRaw.ofBytes (bs : List Byte) : CopyRaw :=
  let w := descW bs 0
  { resv := w.extractLsb' 34 30 != 0 || w.getLsbD 23, hint := w.extractLsb' 32 2
    anchor := (w.extractLsb' 24 8).toInt, ndim := (w.extractLsb' 20 3).toNat + 1, cb := w.getLsbD 19
    dfmt := w.extractLsb' 15 4, sfmt := w.extractLsb' 11 4, op := (w.extractLsb' 8 3).toNat, tile := w.getLsbD 7
    stsp := w.getLsbD 6, dsp := (w.extractLsb' 3 3).toNat, ssp := (w.extractLsb' 0 3).toNat
    src := descW bs 0x08, dst := descW bs 0x10, stamp := descW bs 0x18
    cnt := wordsOf 2 6 (bs.drop 0x20)
    ss := (List.range 5).map fun k => (descW bs (0x30 + 8 * k)).toInt
    ds := (List.range 5).map fun k => (descW bs (0x58 + 8 * k)).toInt }

/-- The number of elements or bytes of a run (R270). -/
def CopyRaw.n0 (r : CopyRaw) : Nat := nth 0 r.cnt 0 + 1

/-- Displacements of the runs, dimension 5 outermost (R270). -/
def CopyRaw.offsets (r : CopyRaw) (str : List Int) : List Int :=
  (List.range 5).foldl (fun acc k =>
    if k + 1 < r.ndim then
      (List.range (nth 0 r.cnt (k + 1) + 1)).flatMap fun (i : Nat) => acc.map fun x => x + (i : Int) * nth 0 str k
    else acc) [0]

/-- The width in bytes of a source element of an accumulate (R270). -/
def elemBytes (f : BitVec 4) : Nat := elemBits f / 8

/-- The bytes each run reads and writes (R270). -/
def CopyRaw.sizes (r : CopyRaw) : Nat × Nat :=
  if r.tile then (imageSize r.sfmt, imageSize r.dfmt)
  else
    match r.op with
    | 0 => (r.n0, r.n0)
    | 4 => (16 * r.n0, 4 * r.n0)
    | _ => (elemBytes r.sfmt * r.n0, 16 * r.n0)

/-- The log2 alignment of the source and the destination (R270). -/
def CopyRaw.aligns (r : CopyRaw) : Nat × Nat :=
  if r.tile then (7, 7)
  else
    match r.op with
    | 0 => (0, 0)
    | 4 => (4, 2)
    | _ => (if elemBytes r.sfmt = 4 then 2 else if elemBytes r.sfmt = 2 then 1 else 0, 4)

/-- The tile format pairs of OP 0 with TILE 1 (R270). -/
def copyPair (s d : BitVec 4) : Bool :=
  (s = d && imageFmt s) || (s.toNat ≤ 2 && 1 ≤ d.toNat && d.toNat ≤ 4) || (s.toNat ≤ 2 && isMxFmt d) ||
  ((1 ≤ s.toNat && s.toNat ≤ 4 || isMxFmt s) && d = 0)

/-- A combination the table of R270 admits. -/
def CopyRaw.legal (r : CopyRaw) : Bool :=
  r.ndim ≤ 6 && r.op ≤ 4 && r.ssp ≤ 4 && r.dsp ≤ 5 &&
  match r.op, r.tile with
  | 0, false => r.dsp ≤ 4 && r.sfmt = 0 && r.dfmt = 0
  | 0, true =>
    copyPair r.sfmt r.dfmt && nth 0 r.cnt 0 = 0 && (r.ssp ≠ 3 || r.sfmt = 0) && (r.dsp ≠ 3 || r.dfmt = 0)
  | 4, false => (r.ssp = 1 || r.ssp = 2) && r.dsp ≤ 4 && r.sfmt = 0 && r.dfmt = 0
  | _, false =>
    (r.dsp = 1 || r.dsp = 2) && (r.sfmt.toNat ≤ 4 || [9, 11, 13].contains r.sfmt.toNat) && r.dfmt = 0
  | _, true => false

/-- A format that needs MXF4 (R158): e2m1 or mxfp4. -/
def needsMxf4 (f : BitVec 4) : Bool := f = 5 || f = 8

/-- A place with a copy's policy hint (R32, R269). -/
def Place.hinted (pl : Place) (h : BitVec 2) : Place :=
  match pl with
  | .glob l pol => .glob l (pol ||| h)
  | x => x

/-- The stamp's place (R92). -/
def State.stampPlace (s : State) (side : Nat) (own : Bool) (va : W64) : Except BadPlace StampLoc :=
  match s.place side (if own then 1 else 0) true va.toNat 8 3 false with
  | .error b => .error b
  | .ok (.glob l pol) => .ok (.global ⟨l, pol⟩)
  | .ok (.sp t o) => .ok (.sp t o)
  | .ok _ => .ok (.global ⟨.hbm 0, 0⟩)

/-- R269, R270. Copy through up to six dimensions as the descriptor at scratchpad offset s[a] says; its stamp carries s[b]. -/
def execCopy (a b : BitVec 5) (c : BitVec 4) (sc : BitVec 3) (g : BitVec 5) (s : State) : Out :=
  guarded g s fun s =>
    let self := Instr.copy a b c sc g
    s.withDesc (s.rdS 0 a) 128 7 fun s bs =>
      let r := CopyRaw.ofBytes bs
      if r.resv then s.illegalM 6 self
      else if !s.feat0.getLsbD 0 && (needsMxf4 r.sfmt || needsMxf4 r.dfmt) then s.illegalM 3 self
      else if !r.legal then s.illegalM 5 self
      else
        let srcs := (r.offsets r.ss).map fun x => s.place 0 r.ssp false (r.src.toNat + x) r.sizes.1 r.aligns.1 r.tile
        let dsts := (r.offsets r.ds).map fun x => s.place 1 r.dsp true (r.dst.toNat + x) r.sizes.2 r.aligns.2 r.tile
        let st := s.stampPlace 2 r.stsp r.stamp
        match firstBad (failures srcs ++ failures dsts ++ failure st), placed st with
        | some e, _ => s.trap s.focus e.trap
        | none, none => s
        | none, some st =>
          let side (l : List (Except BadPlace Place)) : List Place := (l.filterMap placed).map fun x => x.hinted r.hint
          let runs := (side srcs).zip (side dsts)
          let d : CopyDesc := ⟨r.anchor, r.cb, r.dfmt, r.sfmt, r.op, r.tile, r.n0, runs⟩
          let pages := (runs.flatMap fun x => x.1.pages r.sizes.1 ++ x.2.pages r.sizes.2) ++ st.pages
          s.command (.copy d st ((s.rdS 1 b).setWidth 56)) c.toNat sc.toNat pages (words64 bs ++ [s.rdS 0 a, s.rdS 1 b])

/-- R272. Write a stamp with s[b] at s[a], after the copies of its class. -/
def execStamp (a b : BitVec 5) (c : BitVec 4) (sc : BitVec 3) (x : BitVec 1) (g : BitVec 5) (s : State) : Out :=
  guarded g s fun s =>
    match s.stampPlace 0 (x == 1) (s.rdS 0 a) with
    | .error e => s.trap s.focus e.trap
    | .ok st =>
      s.command (.stamp st ((s.rdS 1 b).setWidth 56)) c.toNat sc.toNat st.pages [s.rdS 0 a, s.rdS 1 b]

/-! ### Collective entries -/

/-- The stack domain and entry a register names; none outside bits 13:0 (R273, R275). -/
def entryOf (x : W64) : Option (Nat × Nat) :=
  if x.toNat / 2 ^ 14 ≠ 0 then none else some (bitsAt x.toNat 11 3, bitsAt x.toNat 0 11)

/-- The valid peers of a descriptor (R273). -/
def armPeers (bs : List Byte) : List Peer :=
  (List.range 64).filterMap fun p =>
    let w := leNat ((bs.drop (0x80 + 4 * p)).take 4)
    if w.testBit 31 then some ⟨p, bitsAt w 14 10, bitsAt w 11 3, bitsAt w 0 11⟩ else none

/-- An address of the descriptor when its side is enabled. -/
def whenOn {α : Type} (on : Bool) (r : Except BadPlace α) : Except BadPlace (Option α) :=
  if !on then .ok none
  else
    match r with
    | .error b => .error b
    | .ok x => .ok (some x)

/-- R273. Arm collective entry s[b] from the descriptor at scratchpad offset s[a]. SFMT belongs to the receive side too: it is checked and
contributions are read with it when TX is clear (the model's choice, assumption 102). -/
def execCtarm (a b : BitVec 5) (c : BitVec 4) (sc : BitVec 3) (g : BitVec 5) (s : State) : Out :=
  guarded g s fun s =>
    let self := Instr.ctarm a b c sc g
    match entryOf (s.rdS 1 b) with
    | none => s.illegalM 5 self
    | some (sd, e) =>
      s.withDesc (s.rdS 0 a) 384 7 fun s bs =>
        let w := descW bs 0
        let rx := w.getLsbD 0
        let tx := w.getLsbD 1
        let res := rx && w.getLsbD 14
        let f : BitVec 4 := w.extractLsb' 4 4
        let op := (w.extractLsb' 2 2).toNat
        if w.getLsbD 15 || w.extractLsb' 24 8 != 0 then s.illegalM 6 self
        else if !s.feat0.getLsbD 0 && (rx || tx) && needsMxf4 f then s.illegalM 3 self
        else if (rx && op = 3) || ((rx || tx) && 2 < f.toNat) then s.illegalM 5 self
        else
          let dt : Nat := (descW bs 8).toNat % 2 ^ 22
          let dest := whenOn rx (s.place 0 1 true dt 65536 12 false)
          let result := whenOn res (s.globalPlace 1 true (descW bs 0x10) 17024 7)
          let cst := whenOn rx (s.globalPlace 2 true (descW bs 0x20) 8 3)
          let own := (descW bs 0x38).getLsbD 0
          let src := whenOn tx (s.place 3 (if own then 1 else 0) false (descW bs 0x30).toNat (imageSize f) 7 false)
          let sst := whenOn tx (s.globalPlace 4 true (descW bs 0x40) 8 3)
          match firstBad (failure dest ++ failure result ++ failure cst ++ failure src ++ failure sst) with
          | some x => s.trap s.focus x.trap
          | none =>
            let get {α : Type} (r : Except BadPlace (Option α)) : Option α := (placed r).getD none
            let d : ArmDesc :=
              { rx := rx, tx := tx, op := op, sfmt := f, expect := (w.extractLsb' 8 6).toNat + 1
                anchor := (w.extractLsb' 16 8).toInt, deadline := (w.extractLsb' 32 32).toNat, dtile := dt
                result := get result, consumers := (descW bs 0x18).setWidth 48, cstamp := get cst
                cseq := (descW bs 0x28).setWidth 56, source := get src, sstamp := get sst
                sseq := (descW bs 0x48).setWidth 56, peers := armPeers bs }
            let pg (o : Option Spot) (n : Nat) : List (Bool × Nat) := match o with | some x => x.loc.pages n | none => []
            let sp := match d.source with | some x => x.pages (imageSize f) | none => []
            s.command (.ctarm sd e d) c.toNat sc.toNat (pg d.result 17024 ++ pg d.cstamp 8 ++ sp ++ pg d.sstamp 8)
              (words64 bs ++ [s.rdS 0 a, s.rdS 1 b])

/-- R274. Disarm collective entry s[b]. -/
def execCtarmDis (b : BitVec 5) (c : BitVec 4) (sc : BitVec 3) (g : BitVec 5) (s : State) : Out :=
  guarded g s fun s =>
    match entryOf (s.rdS 0 b) with
    | none => s.illegalM 5 (.ctarmDis b c sc g)
    | some (sd, e) => s.command (.ctarmDis sd e) c.toNat sc.toNat [] [s.rdS 0 b]

/-- R275. Set the send flag of collective entry s[b]. -/
def execCtset (b : BitVec 5) (c : BitVec 4) (sc : BitVec 3) (g : BitVec 5) (s : State) : Out :=
  guarded g s fun s =>
    match entryOf (s.rdS 0 b) with
    | none => s.illegalM 5 (.ctset b c sc g)
    | some (sd, e) => s.command (.ctset sd e) c.toNat sc.toNat [] [s.rdS 0 b]

/-- An entry that has never been armed (R96). -/
def Entry.idle : Entry :=
  { rst := 0, sst := 0, flag := false, dup := false, sat := false, asid := none, task := 0, desc := none, rpins := []
    spins := [], bitmap := 0, count := 0, armedAt := 0, lines := [], sent := 0, sendStatus := 0, vj := 0, tries := 0, dying := false
    half := false, owed := false }

/-- Entry e of the collective unit of stack domain sd. -/
def State.entry (s : State) (sd e : Nat) : Entry := KMap.get Entry.idle s.entries (2048 * sd + e)

/-- An entry changed. -/
def State.updEntry (s : State) (sd e : Nat) (f : Entry → Entry) : State :=
  { s with entries := KMap.set s.entries (2048 * sd + e) (f (s.entry sd e)) }

/-- The entry is armed under another address space (R274 to R276). -/
def Entry.foreign (e : Entry) (asid : Nat) : Bool :=
  match e.asid with
  | some a => a ≠ asid
  | none => false

/-- The deadline of an entry has passed (R102): 2,250 cycles to the microsecond. -/
def State.pastDeadline (s : State) (x : Entry) : Bool :=
  match x.desc with
  | some d => x.rst = 1 && 0 < d.deadline && x.armedAt + 2250 * d.deadline ≤ s.cyc
  | none => false

/-- The state of an entry's receive side: TIMEOUT from its deadline on (R96, R102). -/
def State.rstate (s : State) (x : Entry) : Nat := if s.pastDeadline x then 3 else x.rst

/-- The status word of an entry (R276). -/
def State.entryWord (s : State) (sd e asid : Nat) : W64 :=
  let x := s.entry sd e
  if x.foreign asid then BitVec.twoPow 64 56
  else
    BitVec.ofNat 64 (s.rstate x * 2 ^ 62 + x.sst * 2 ^ 60 + x.flag.toNat * 2 ^ 59 + x.dup.toNat * 2 ^ 58 +
      x.sat.toNat * 2 ^ 57 + x.count * 2 ^ 40 + (match x.desc with | some d => d.expect | none => 0) * 2 ^ 33 +
      KMap.get 0 s.stray sd)

/-- R276. s[a] := the status word of collective entry s[b], or its contributor bitmap. -/
def execCtstat (a b : BitVec 5) (m : BitVec 1) (g : BitVec 5) (s : State) : Out :=
  guarded g s fun s =>
    match entryOf (s.rdS 0 b) with
    | none => s.illegalM 5 (.ctstat a b m g)
    | some (sd, e) =>
      let asid := s.asidOn s.focus
      let x := s.entry sd e
      s.answer a (if m = 0 then s.entryWord sd e asid else if x.foreign asid then 0 else x.bitmap)

/-! ### Handles -/

/-- HANDLE with a reason and handle (R317). -/
def State.trapHandle (s : State) (reason h : Nat) : State := s.trapHere 5 (detailWord reason h)

/-- The free handle number that hgive and htake reserve: R278 asks for a free one, and the model takes the lowest (assumption 50). -/
def Core.freeHandle (c : Core) : Option Nat := (List.range 64).find? fun h => (KMap.find c.handles h).isNone

/-- A number reserved at issue (R278, R279). -/
def State.reserveHandle (s : State) (h : Nat) : State :=
  s.updCore (coreOf s.focus) fun c =>
    { c with handles := KMap.set c.handles h (Handle.mk 0 0 0 0 0 s.self (s.focus % 4) true) }

/-- R278. Offer rows of the reservation: s[b] in the form of R35; s[a] := the handle. A HANDLE that no entry causes names handle 0
(assumption 50). -/
def execHgive (a b : BitVec 5) (c : BitVec 4) (sc : BitVec 3) (g : BitVec 5) (s : State) : Out :=
  guarded g s fun s =>
    let x := (s.rdS 0 b).toNat
    let peer := bitsAt x 56 3
    let n := bitsAt x 32 10 + 1
    let r0 := bitsAt x 16 10
    let k := coreOf s.focus
    if x ≠ peer * 2 ^ 56 + (n - 1) * 2 ^ 32 + r0 * 2 ^ 16 then s.illegalM 5 (.hgive a b c sc g)
    else if (s.res s.focus).rows < r0 + n then s.trapAddr 8 (4096 * r0)
    else
      match (s.core k).lentRow s.self r0 n with
      | some h => s.trapHandle 5 h
      | none =>
        if peer = k % 8 then s.trapHandle 5 0
        else
          match (s.core k).freeHandle with
          | none => s.trapHandle 6 0
          | some h =>
            ((s.reserveHandle h).command (.hgive h peer n r0) c.toNat sc.toNat [] [BitVec.ofNat 64 x]).landS a
              (BitVec.ofNat 64 h)

/-- R278. Return bound handle s[b][5:0] to its home core. -/
def execHgiveRet (b : BitVec 5) (c : BitVec 4) (sc : BitVec 3) (g : BitVec 5) (s : State) : Out :=
  guarded g s fun s =>
    let h := (s.rdS 0 b).toNat % 64
    match KMap.find (s.core (coreOf s.focus)).handles h with
    | none => s.trapHandle 2 h
    | some e =>
      if e.state ≠ 3 || e.resv then s.trapHandle 2 h
      else if e.owner ≠ s.self then s.trapHandle 3 h
      else s.command (.hgiveRet h) c.toNat sc.toNat [] [s.rdS 0 b]

/-- R279. Take the handle s[b] names of a core of the cluster; s[a] := the number of the binding. -/
def execHtake (a b : BitVec 5) (c : BitVec 4) (sc : BitVec 3) (g : BitVec 5) (s : State) : Out :=
  guarded g s fun s =>
    let x := (s.rdS 0 b).toNat
    match (s.core (coreOf s.focus)).freeHandle with
    | none => s.trapHandle 6 0
    | some h =>
      ((s.reserveHandle h).command (.htake h (bitsAt x 56 3) (bitsAt x 48 6)) c.toNat sc.toNat []
        [BitVec.ofNat 64 x]).landS a (BitVec.ofNat 64 h)

/-- R279, R36. Withdraw the issuer's own offered handle s[b][5:0]. -/
def execHtakeWd (b : BitVec 5) (c : BitVec 4) (sc : BitVec 3) (g : BitVec 5) (s : State) : Out :=
  guarded g s fun s =>
    let h := (s.rdS 0 b).toNat % 64
    match KMap.find (s.core (coreOf s.focus)).handles h with
    | none => s.trapHandle 5 h
    | some e =>
      if e.state ≠ 1 || e.resv || e.owner ≠ s.self then s.trapHandle 5 h
      else s.command (.htakeWd h) c.toNat sc.toNat [] [s.rdS 0 b]

/-- A handle entry as hqry returns it (R35, R280). OWNP of an owner that no partition runs is the one stored in the entry (the model's
choice, assumption 104). -/
def State.handleWord (s : State) (h : Handle) : W64 :=
  let ownp := match s.task h.owner with
    | some t => match t.st with | .running p => p % 4 | _ => h.ownp
    | none => h.ownp
  if h.resv then 0
  else BitVec.ofNat 64 (h.state * 2 ^ 61 + h.peer * 2 ^ 56 + h.peerh * 2 ^ 48 + ownp * 2 ^ 46 + (h.nrows - 1) * 2 ^ 32 +
    h.baserow * 2 ^ 16 + h.owner.toNat % 2 ^ 16)

/-- R280. s[a] := entry s[b][5:0] of the core's handle table. -/
def execHqry (a b : BitVec 5) (g : BitVec 5) (s : State) : Out :=
  guarded g s fun s =>
    s.answer a (match KMap.find (s.core (coreOf s.focus)).handles ((s.rdS 0 b).toNat % 64) with
      | some h => s.handleWord h
      | none => 0)

/-! ### Snapshots -/

/-- The pages of [va, va + n) as a snap names them, first byte and length in each (R281). -/
def pagesFrom (va n : Nat) : List (Nat × Nat) :=
  (List.range ((va + n - 1) / 2 ^ 18 - va / 2 ^ 18 + 1)).map fun k =>
    let lo := max va ((va / 2 ^ 18 + k) * 2 ^ 18)
    (lo, min (va + n) ((va / 2 ^ 18 + k + 1) * 2 ^ 18) - lo)

/-- One page of a range or an arena checked (R281): its run of pod addresses, or the reason. -/
def State.snapPage (s : State) (arena : Bool) (va n : Nat) : Except Nat (Nat × Nat) :=
  if !canonical va then .error 1
  else
    let ents := match s.launchOn s.focus with | some l => s.entsOf l.asid l.gen | none => []
    match ents.find? fun e => e.vbase ≤ va && va < e.vbase + e.size with
    | none => .error 2
    | some e =>
      let here := match e.place s.regs.podid va with | .hbm a => if s.isOwn a then some a else none | .host _ => none
      if e.sup && !s.isSup s.focus then .error 4
      else if arena && !e.wr then .error 6
      else if !arena && !e.sn then .error 9
      else
        match here with
        | none => .error 11
        | some a => .ok (a, a + n)

/-- A range or an arena checked page by page (R281): its runs, or the first failure. -/
def State.snapRuns (s : State) (arena : Bool) : List (Nat × Nat) → Except Trap (List (Nat × Nat))
  | [] => .ok []
  | (va, n) :: ps =>
    match s.snapPage arena va n with
    | .error r => .error ⟨3, s.me.issA, detailWord r va⟩
    | .ok x =>
      match s.snapRuns arena ps with
      | .error t => .error t
      | .ok xs => .ok (x :: xs)

/-- Every byte of the runs lies in the ranges. -/
def within (rs runs : List (Nat × Nat)) : Bool := (rs.foldl (fun left r => cutRange r.1 r.2 left) runs).isEmpty

/-- Two sets of runs share a byte. -/
def overlap (rs qs : List (Nat × Nat)) : Bool := qs.any fun q => meetsRanges rs q.1 q.2

/-- The open snapshots. -/
def State.openSnaps (s : State) : List (Nat × Snap) := s.snaps.filter fun e => e.2.state = 2

/-- The nest a new range joins (R105): its parent, if any, with the new level; or the reason and number that refuse it
(reason 2 partial overlap or fifth level, 3 arena overlap). -/
def State.nest (s : State) (d : SnapDesc) : Except (Nat × Nat) (Option Nat × Nat) :=
  let os := s.openSnaps
  match os.find? fun e => overlap e.2.range d.range && !within e.2.range d.range with
  | some e => .error (2, e.1)
  | none =>
    let parent := (os.filter fun e => within e.2.range d.range).foldl (fun (b : Option (Nat × Snap)) e =>
      match b with
      | none => some e
      | some x => if x.2.level ≤ e.2.level then some e else b) none
    let level := match parent with | some x => x.2.level + 1 | none => 0
    if 3 < level then .error (2, match parent with | some x => x.1 | none => 0)
    else if overlap d.range d.arena then .error (3, 0)
    else
      match os.find? fun e => overlap e.2.range d.arena || e.2.arenas.any fun r => overlap r.2 d.arena with
      | some e => .error (3, e.1)
      | none => .ok (parent.map Prod.fst, level)

/-- SNAPORDER with a reason and handle (R317). -/
def State.trapOrder (s : State) (reason h : Nat) : State := s.trapHere 7 (detailWord reason h)

/-- The lowest snapshot number neither open nor reserved (R281; assumption 50). -/
def State.freeSnap (s : State) : Option Nat := (List.range 256).find? fun n => (KMap.find s.snaps n).isNone

/-- A reserved snapshot number, outside every nest (R281). -/
def Snap.reserved (asid : Nat) : Snap :=
  { state := 1, asid := asid, parent := none, level := 0, range := [], arena := [], alines := 0, aid := 0, shadows := []
    quota := [], kept := [], pins := [] }

/-- The pages of runs of pod addresses. -/
def runPages (rs : List (Nat × Nat)) : List (Bool × Nat) := rs.flatMap fun r => (Loc.hbm r.1).pages (r.2 - r.1)

/-- R281. Open a snapshot from the descriptor at scratchpad offset s[b]; s[a] := its number, or -1. -/
def execSnap (a b : BitVec 5) (c : BitVec 4) (g : BitVec 5) (s : State) : Out :=
  guarded g s fun s =>
    let self := Instr.snap a b c g
    s.withDesc (s.rdS 0 b) 64 6 fun s bs =>
      let base := (descW bs 0).toNat
      let len := (descW bs 8).toNat
      let arena := (descW bs 0x10).toNat
      let w := descW bs 0x18
      let al := w.toNat % 2 ^ 32
      if w.extractLsb' 32 31 != 0 then s.illegalM 6 self
      else if len % 128 ≠ 0 || len < 128 || 2 ^ 39 < len || al = 0 then s.illegalM 5 self
      else
        match s.snapRuns false (pagesFrom base len) with
        | .error t => s.trap s.focus t
        | .ok range =>
          match s.snapRuns true (pagesFrom arena (128 * al)) with
          | .error t => s.trap s.focus t
          | .ok ar =>
            let st := whenOn (w.getLsbD 63) (s.globalPlace 0 true (descW bs 0x20) 8 3)
            match firstBad ((failure st).filter fun x => x.cls = 0) with
            | some x => s.trap s.focus x.trap
            | none =>
              if base % 128 ≠ 0 then s.trapAlign 7 base
              else if arena % 128 ≠ 0 then s.trapAlign 7 arena
              else
                match firstBad (failure st) with
                | some x => s.trap s.focus x.trap
                | none =>
                  let stamp := (placed st).getD none
                  let d : SnapDesc := ⟨range, ar, al, stamp, (descW bs 0x28).setWidth 56⟩
                  match s.nest d with
                  | .error (r, h) => s.trapOrder r h
                  | .ok _ =>
                    let n := s.freeSnap
                    let s := match n with
                      | some k => { s with snaps := KMap.set s.snaps k (Snap.reserved (s.asidOn s.focus)) }
                      | none => s
                    let pages := runPages range ++ runPages ar ++ match stamp with | some x => x.loc.pages 8 | none => []
                    (s.command (.snap n d) c.toNat 5 pages (words64 bs)).landS a
                      (match n with | some k => BitVec.ofNat 64 k | none => -1)

/-- No open snapshot is a child of this one (R105). -/
def State.isInnermost (s : State) (n : Nat) : Bool := !s.openSnaps.any fun e => e.2.parent == some n

/-- The operands of a sacc or srej (R282): stamp and nest checked, then the command withheld. -/
def State.closeSnap (s : State) (a b : BitVec 5) (c : BitVec 4) (kind : Nat → Option Spot → BitVec 56 → CmdKind) : State :=
  let x := s.rdS 0 a
  let h := x.toNat % 256
  match whenOn (b != 0) (s.globalPlace 0 true (s.rdS 1 b) 8 3) with
  | .error e => s.trap s.focus e.trap
  | .ok st =>
    let mine := match KMap.find s.snaps h with | some e => e.state = 2 && e.asid = s.asidOn s.focus | none => false
    if mine && !s.isInnermost h then s.trapOrder 1 h
    else
      s.command (kind h st (x.extractLsb' 8 56)) c.toNat 5 (match st with | some x => x.loc.pages 8 | none => [])
        [x, s.rdS 1 b]

/-- R282. Accept the snapshot s[a][7:0]. -/
def execSacc (a b : BitVec 5) (c : BitVec 4) (g : BitVec 5) (s : State) : Out :=
  guarded g s fun s => s.closeSnap a b c .sacc

/-- R282. Reject the snapshot s[a][7:0]. -/
def execSrej (a b : BitVec 5) (c : BitVec 4) (g : BitVec 5) (s : State) : Out :=
  guarded g s fun s => s.closeSnap a b c .srej

/-- A close of an open snapshot has been released and has not completed (R282, R283). -/
def State.closing (s : State) (n : Nat) (x : Snap) : Bool :=
  x.state = 2 && s.isInnermost n &&
  s.cmds.any fun c => c.asid = x.asid && match c.kind with | .sacc h .. | .srej h .. => h = n | _ => false

/-- The status word of a snapshot for an address space (R283). -/
def State.snapWord (s : State) (n asid : Nat) : W64 :=
  match KMap.find s.snaps n with
  | none => 0
  | some x =>
    if x.asid ≠ asid then 0
    else
      BitVec.ofNat 64 ((if s.closing n x then 3 else x.state) * 2 ^ 62 + x.level * 2 ^ 60 + x.parent.isSome.toNat * 2 ^ 59 +
        (x.parent.getD 0) * 2 ^ 48 + x.used)

/-- R283. s[a] := the status word of snapshot s[b][7:0]. -/
def execSstat (a b : BitVec 5) (g : BitVec 5) (s : State) : Out :=
  guarded g s fun s => s.answer a (s.snapWord ((s.rdS 0 b).toNat % 256) (s.asidOn s.focus))

/-! ### The Chart -/

/-- R285. Retire the resource of core s[a] at Chart index s[b]. -/
def execEvac (a b : BitVec 5) (c : BitVec 4) (sc : BitVec 3) (g : BitVec 5) (s : State) : Out :=
  guarded g s fun s =>
    let core := (s.rdS 0 a).toNat
    let idx := (s.rdS 1 b).toNat
    if 384 ≤ core || 324 ≤ idx then s.illegalM 5 (.evac a b c sc g)
    else s.command (.evac core idx) c.toNat sc.toNat [] [s.rdS 0 a, s.rdS 1 b]

/-- R284. s[a] := the Chart entry of the core and index in s[b]. -/
def execChartq (a b : BitVec 5) (g : BitVec 5) (s : State) : Out :=
  guarded g s fun s =>
    let x := (s.rdS 0 b).toNat
    let core := bitsAt x 16 9
    let idx := bitsAt x 0 9
    if x ≠ core * 2 ^ 16 + idx || 384 ≤ core || 324 ≤ idx then s.illegalM 5 (.chartq a b g)
    else s.answer a (s.chartWord core idx)

/-! ### Tasks and balances -/

/-- A budget of a record as the SV9 uses it (R290). -/
def capBudget (n : Nat) : Int := min (n : Int) (2 ^ 47 - 1)

/-- R301. Add s[b][31:0] tasks to the issuing task's launch; their budgets leave the issuer's balances now. -/
def execGrow (b : BitVec 5) (g : BitVec 5) (s : State) : Out :=
  guarded g s fun s =>
    let n := (s.rdS 0 b).toNat
    if 2 ^ 32 ≤ n then s.illegalM 5 (.grow b g)
    else
      match s.launchOn s.focus with
      | none => s
      | some l =>
        let bi := n * capBudget l.record.bgi
        let bm := n * capBudget l.record.bgm
        let s' := s.updMe fun P => P.debit bi.toNat bm.toNat
        s'.command (.grow n bi bm (s.me.bgi - s'.me.bgi) (s.me.bgm - s'.me.bgm)) 0 0 [] [s.rdS 0 b]

/-- R314. Move s[b] of BGI, or of BGM with m, to the task s[a]; s[a] := the status. -/
def execBgadd (a b : BitVec 5) (m : BitVec 1) (g : BitVec 5) (s : State) : Out :=
  guarded g s fun s =>
    let target := s.rdS 0 a
    let amt := (s.rdS 1 b).toNat
    let sup := s.isSup s.focus
    let own := if m = 1 then s.me.bgm else s.me.bgi
    if 2 ^ 47 ≤ amt then s.illegalM 5 (.bgadd a b m g)
    else if target = s.self then s.landS a (-2)
    else if !sup && own < (amt : Int) then s.landS a (-1)
    else
      let s := if sup then s else s.updMe fun P => if m = 1 then P.debit 0 amt else P.debit amt 0
      (s.command (.bgadd target (m == 1) amt sup) 0 0 [] [target, s.rdS 1 b]).landS a 0

end Sys2Proof.Machine
end

