-- ==== Sys2Proof/Machine/Charges.lean ====
section
/-! DEFINITION. What an operation reads, and what it costs: the registers a scoreboard looks at (R120), and the charges of
R305 and R306 with the bytes of R250, R267, R273 and R300. -/

namespace Sys2Proof

/-- The registers an operation may read besides its guard; where a rule names fewer, a stall lasts longer than it must,
which R122 allows. -/
def Instr.srcs : Instr → List Reg
  | .sadd _ a b .. | .ssub _ a b .. | .smul _ a b .. | .smulh _ a b .. | .sdiv _ a b .. | .srem _ a b ..
  | .smin _ a b .. | .smax _ a b .. | .sand _ a b .. | .sor _ a b .. | .sxor _ a b .. | .sandn _ a b ..
  | .sshl _ a b .. | .sshr _ a b .. | .ssra _ a b .. | .srot _ a b .. | .sbfx _ a b .. | .scmp _ a b ..
  | .sfadd _ a b .. | .sfmul _ a b .. | .sfcmp _ a b .. | .mwait _ a b .. | .enq a b .. | .bgadd a b ..
  | .copy a b .. | .stamp a b .. | .ctarm a b .. | .ctstat a b .. | .hgive a b .. | .htake a b ..
  | .hqry a b .. | .snap a b .. | .sacc a b .. | .srej a b .. | .sstat a b .. | .evac a b .. | .chartq a b .. => [.s a.toNat, .s b.toNat]
  | .saddSi _ a .. | .smulSi _ a .. | .sandSi _ a .. | .sorSi _ a .. | .sxorSi _ a .. | .sminSi _ a ..
  | .smaxSi _ a .. | .sshlSi _ a .. | .sshrSi _ a .. | .ssraSi _ a .. | .srotSi _ a .. | .sclz _ a ..
  | .sctz _ a .. | .spopc _ a .. | .sext _ a .. | .smov _ a .. | .scmpSi _ a .. | .sfcvt _ a .. | .bri _ a ..
  | .loop a .. | .mset _ a .. | .ldB _ a .. | .ldBu _ a .. | .ldH _ a .. | .ldHu _ a .. | .ldW _ a ..
  | .ldWu _ a .. | .ldD _ a .. | .ldv _ a .. | .ldBMq _ a .. | .ldBuMq _ a .. | .ldHMq _ a .. | .ldHuMq _ a ..
  | .ldWMq _ a .. | .ldWuMq _ a .. | .ldDMq _ a .. | .ldvMq _ a .. | .ldAcqB _ a .. | .ldAcqBu _ a ..
  | .ldAcqH _ a .. | .ldAcqHu _ a .. | .ldAcqW _ a .. | .ldAcqWu _ a .. | .ldAcqD _ a .. | .ldSpB _ a ..
  | .ldSpBu _ a .. | .ldSpH _ a .. | .ldSpHu _ a .. | .ldSpW _ a .. | .ldSpWu _ a .. | .ldSpD _ a ..
  | .ldvSp _ a .. | .ldSpBMq _ a .. | .ldSpBuMq _ a .. | .ldSpHMq _ a .. | .ldSpHuMq _ a .. | .ldSpWMq _ a ..
  | .ldSpWuMq _ a .. | .ldSpDMq _ a .. | .ldvSpMq _ a .. | .prf _ a .. | .cinvL a .. | .tld _ a ..
  | .tst _ a .. => [.s a.toNat]
  | .sbfi d a b .. | .ssel d a b .. | .sffma d a b .. => [.s a.toNat, .s b.toNat, .s d.toNat]
  | .sset d .. => [.s d.toNat]
  | .ret .. => [.s 31]
  | .vaddF d a b .. | .vsubF d a b .. | .vmulF d a b .. | .vfma d a b .. | .vfnma d a b .. | .vminF d a b ..
  | .vmaxF d a b .. | .vaddI d a b .. | .vsubI d a b .. | .vmulI d a b .. | .vminI d a b .. | .vmaxI d a b ..
  | .vminN d a b .. | .vmaxN d a b .. | .vand d a b .. | .vor d a b .. | .vxor d a b .. | .vshl d a b ..
  | .vshr d a b .. | .vsra d a b .. | .vpermc d a b .. => [.v a.toNat, .v b.toNat, .v d.toNat]
  | .vabsF d a .. | .vnegF d a .. | .vabsI d a .. | .vnegI d a .. | .vmov d a .. | .vrcp d a .. | .vrsq d a ..
  | .vexp2 d a .. | .vlog2 d a .. => [.v a.toNat, .v d.toNat]
  | .vcmpF _ a b .. | .vcmpI _ a b .. | .vcmpN _ a b .. | .vsel _ a b .. => [.v a.toNat, .v b.toNat]
  | .vmovs d a .. | .viota d a .. | .vins d a .. => [.s a.toNat, .v d.toNat]
  | .vcvt _ a .. | .vcvtSat _ a .. | .vunpk _ a .. | .vrotr _ a .. | .vbcr _ a .. | .vredr _ a ..
  | .vrotc _ a .. | .vbcc _ a .. | .vredc _ a .. | .vext _ a .. => [.v a.toNat]
  | .vpack _ a s e .. => vgroup a (packGroup s e)
  | .vquant _ a .. => vgroup a 4
  | .stB t a .. | .stH t a .. | .stW t a .. | .stD t a .. | .stBMq t a .. | .stHMq t a .. | .stWMq t a ..
  | .stDMq t a .. | .stRelB t a .. | .stRelH t a .. | .stRelW t a .. | .stRelD t a .. | .stSpB t a ..
  | .stSpH t a .. | .stSpW t a .. | .stSpD t a .. | .stSpBMq t a .. | .stSpHMq t a .. | .stSpWMq t a ..
  | .stSpDMq t a .. | .atomW t a .. | .atomD t a .. => [.s a.toNat, .s t.toNat]
  | .stv t a .. | .stvMq t a .. | .stvSp t a .. | .stvSpMq t a .. => [.s a.toNat, .v t.toNat]
  | .ldx t a b .. | .stx t a b .. | .ldxSp t a b .. | .stxSp t a b .. => [.s a.toNat, .v b.toNat, .v t.toNat]
  | .casW t a .. | .casD t a .. => [.s a.toNat, .s t.toNat, .s (t.toNat + 1)]
  | .grow b .. | .ctarmDis b .. | .ctset b .. | .hgiveRet b .. | .htakeWd b .. => [.s b.toNat]
  | .ast v .. | .aadd v .. => [.v v.toNat]
  | .ascl v .. => [.s v.toNat]
  | .aadam v .. => vgroup v 4
  | _ => []

/-- The masks, predicates and other control registers that an operation reads, its guard apart (R114, R187, R208). -/
def Instr.flagSrcs : Instr → List RegBank
  | .vaddF _ _ _ m .. | .vsubF _ _ _ m .. | .vmulF _ _ _ m .. | .vfma _ _ _ m .. | .vfnma _ _ _ m ..
  | .vminF _ _ _ m .. | .vmaxF _ _ _ m .. | .vaddI _ _ _ m .. | .vsubI _ _ _ m .. | .vmulI _ _ _ m ..
  | .vminI _ _ _ m .. | .vmaxI _ _ _ m .. | .vminN _ _ _ m .. | .vmaxN _ _ _ m .. | .vand _ _ _ m ..
  | .vor _ _ _ m .. | .vxor _ _ _ m .. | .vshl _ _ _ m .. | .vshr _ _ _ m .. | .vsra _ _ _ m .. | .vsel _ _ _ m ..
  | .vpermc _ _ _ m ..
  | .vabsF _ _ m .. | .vnegF _ _ m .. | .vabsI _ _ m .. | .vnegI _ _ m .. | .vmov _ _ m .. | .vmovs _ _ m ..
  | .viota _ _ m .. | .vrcp _ _ m .. | .vrsq _ _ m .. | .vexp2 _ _ m .. | .vlog2 _ _ m .. => [.m m.toNat]
  | .mlog _ a b .. => [.m a.toNat, .m b.toNat]
  | .mpop _ a m .. => [.m a.toNat, .m m.toNat]
  | .mmov _ a .. => [.m a.toNat]
  | .ssel _ _ _ _ p .. => [.ctl (.p p.toNat)]
  | .pset _ a b .. => [.ctl (.p a.toNat), .ctl (.p b.toNat)]
  | .sget _ n .. =>
    match n.toNat with
    | 0x030 => [.ctl .bgi]
    | 0x031 => [.ctl .bgm]
    | 0x032 => [.ctl .cont]
    | 0x050 => [.ctl (.lc 0)]
    | 0x051 => [.ctl (.lc 1)]
    | _ => []
  | _ => []

/-- Vector registers that an operation writes whole and does not read, its sources apart (R331). -/
def Instr.wholeV (i : Instr) : List Nat :=
  match i with
  | .ldv t .. | .ldvMq t .. | .ldvSp t .. | .ldvSpMq t .. => [t.toNat]
  | .vfma .. | .vfnma .. => []
  | .mxdrv .. => i.dests.filterMap fun r => match r with | .v n => some n | _ => none
  | _ => if i.flagSrcs = [.m 0] then i.dests.filterMap fun r => match r with | .v n => some n | _ => none else []

/-- The register whose value a store carries away without using it (R331). -/
def Instr.carried? : Instr → Option Reg
  | .stB t .. | .stH t .. | .stW t .. | .stD t .. | .stBMq t .. | .stHMq t .. | .stWMq t .. | .stDMq t .. | .stRelB t ..
  | .stRelH t .. | .stRelW t .. | .stRelD t .. | .stSpB t .. | .stSpH t .. | .stSpW t .. | .stSpD t .. | .stSpBMq t ..
  | .stSpHMq t .. | .stSpWMq t .. | .stSpDMq t .. => some (.s t.toNat)
  | .stv t .. | .stvMq t .. | .stvSp t .. | .stvSpMq t .. | .stx t .. | .stxSp t .. => some (.v t.toNat)
  | _ => none

/-- The registers whose values an operation uses: its sources but a value that it carries away as it stands, and the old destination,
which stands last among them, when mask m0 leaves none of it (R208, R332). -/
def Instr.used (i : Instr) : List Reg :=
  match i with
  | .vfma .. | .vfnma .. | .vsel .. => i.srcs
  | _ => if i.carried?.isSome || i.flagSrcs = [.m 0] then i.srcs.dropLast else i.srcs

/-- The `BGI` charge of an operation (R306); that of a product depends on the format latch and is not here. -/
def Instr.charge : Instr → Nat
  | .smul .. | .smulh .. | .smulSi .. | .sfadd .. | .sfmul .. | .sffma .. | .sfcvt .. | .loop .. | .vmovs ..
  | .viota .. | .vext .. | .vins .. | .ldAcqB .. | .ldAcqBu .. | .ldAcqH .. | .ldAcqHu .. | .ldAcqW ..
  | .ldAcqWu .. | .ldAcqD .. | .stRelB .. | .stRelH .. | .stRelW .. | .stRelD .. | .mwait .. | .cinv ..
  | .cinvL .. | .ctset .. | .ctstat .. | .ringcfg .. | .azero .. => 2
  | .vaddF .. | .vsubF .. | .vmulF .. | .vminF .. | .vmaxF .. | .vabsF .. | .vnegF .. | .vcmpF .. | .vaddI ..
  | .vsubI .. | .vmulI .. | .vminI .. | .vmaxI .. | .vminN .. | .vmaxN .. | .vabsI .. | .vnegI .. | .vcmpI ..
  | .vcmpN .. | .vand .. | .vor .. | .vxor .. | .vshl .. | .vshr .. | .vsra .. | .vsel .. | .vmov .. | .vcvt ..
  | .vcvtSat .. | .ldv .. | .stv .. | .ldvMq .. | .stvMq .. | .ldvSp .. | .stvSp .. | .ldvSpMq .. | .stvSpMq ..
  | .atomW .. | .atomD .. | .casW .. | .casD .. | .ifence .. | .grow .. | .bgadd .. | .stamp .. | .hgive ..
  | .hgiveRet .. | .htake .. | .htakeWd .. | .evac .. | .ald .. | .ast .. | .aadd .. | .acvt .. => 4
  | .vfma .. | .vfnma .. | .vpack .. | .vunpk .. | .vrotr .. | .vbcr .. | .vredr .. => 6
  | .sdiv .. | .srem .. | .ldx .. | .stx .. | .ldxSp .. | .stxSp .. | .copy .. | .sacc .. | .tld .. | .tst ..
  | .ascl .. => 8
  | .vrotc .. | .vbcc .. | .vredc .. => 10
  | .vpermc .. => 12
  | .vrcp .. | .vrsq .. | .vexp2 .. | .vlog2 .. | .enq .. | .ctarm .. | .ctarmDis .. | .snap .. | .srej ..
  | .mxw .. | .mxchk .. | .acks .. => 16
  | .vquant .. | .aadam .. => 24
  | _ => 1


/-- The address operand of a scalar or vector global load or store and the bytes it names (R250 to R253): base register,
offset, its scale, bytes. -/
def Instr.globalAcc : Instr → Option (BitVec 5 × BitVec 10 × Nat × Nat)
  | .ldB _ a o _ | .ldBu _ a o _ | .stB _ a o _ => some (a, o, 1, 1)
  | .ldH _ a o _ | .ldHu _ a o _ | .stH _ a o _ => some (a, o, 2, 2)
  | .ldW _ a o _ | .ldWu _ a o _ | .stW _ a o _ => some (a, o, 4, 4)
  | .ldD _ a o _ | .stD _ a o _ => some (a, o, 8, 8)
  | .ldv _ a o _ | .stv _ a o _ => some (a, o, 128, 4096)
  | .ldBMq _ a .. | .ldBuMq _ a .. | .stBMq _ a .. | .ldAcqB _ a .. | .ldAcqBu _ a .. | .stRelB _ a ..
 => some (a, 0, 1, 1)
  | .ldHMq _ a .. | .ldHuMq _ a .. | .stHMq _ a .. | .ldAcqH _ a .. | .ldAcqHu _ a .. | .stRelH _ a ..
 => some (a, 0, 2, 2)
  | .ldWMq _ a .. | .ldWuMq _ a .. | .stWMq _ a .. | .ldAcqW _ a .. | .ldAcqWu _ a .. | .stRelW _ a ..
 => some (a, 0, 4, 4)
  | .ldDMq _ a .. | .stDMq _ a .. | .ldAcqD _ a .. | .stRelD _ a .. => some (a, 0, 8, 8)
  | .ldvMq _ a .. | .stvMq _ a .. => some (a, 0, 128, 4096)
  | .ldx _ a .. | .stx _ a .. => some (a, 0, 4, 4096)
  | .atomW _ a .. | .casW _ a .. => some (a, 0, 4, 8)
  | .atomD _ a .. | .casD _ a .. => some (a, 0, 8, 16)
  | .mwait _ a .. => some (a, 0, 8, 8)
  | _ => none

/-- The own-scratchpad extent of a scalar or vector load or store, or of a descriptor (R21, R249, R266): base register,
offset, its scale, bytes, whether it writes, and its class. -/
def Instr.spAcc : Instr → Option (BitVec 5 × BitVec 10 × Nat × Nat × Bool × Nat)
  | .ldSpB _ a o _ | .ldSpBu _ a o _ => some (a, o, 1, 1, false, 0)
  | .ldSpH _ a o _ | .ldSpHu _ a o _ => some (a, o, 2, 2, false, 0)
  | .ldSpW _ a o _ | .ldSpWu _ a o _ => some (a, o, 4, 4, false, 0)
  | .ldSpD _ a o _ => some (a, o, 8, 8, false, 0)
  | .ldvSp _ a o _ => some (a, o, 128, 4096, false, 0)
  | .stSpB _ a o _ => some (a, o, 1, 1, true, 0)
  | .stSpH _ a o _ => some (a, o, 2, 2, true, 0)
  | .stSpW _ a o _ => some (a, o, 4, 4, true, 0)
  | .stSpD _ a o _ => some (a, o, 8, 8, true, 0)
  | .stvSp _ a o _ => some (a, o, 128, 4096, true, 0)
  | .ldSpBMq _ a c .. | .ldSpBuMq _ a c .. => some (a, 0, 1, 1, false, c.toNat)
  | .ldSpHMq _ a c .. | .ldSpHuMq _ a c .. => some (a, 0, 2, 2, false, c.toNat)
  | .ldSpWMq _ a c .. | .ldSpWuMq _ a c .. => some (a, 0, 4, 4, false, c.toNat)
  | .ldSpDMq _ a c .. => some (a, 0, 8, 8, false, c.toNat)
  | .ldvSpMq _ a c .. => some (a, 0, 128, 4096, false, c.toNat)
  | .stSpBMq _ a c .. => some (a, 0, 1, 1, true, c.toNat)
  | .stSpHMq _ a c .. => some (a, 0, 2, 2, true, c.toNat)
  | .stSpWMq _ a c .. => some (a, 0, 4, 4, true, c.toNat)
  | .stSpDMq _ a c .. => some (a, 0, 8, 8, true, c.toNat)
  | .stvSpMq _ a c .. => some (a, 0, 128, 4096, true, c.toNat)
  | .copy a _ c .. => some (a, 0, 1, 128, false, c.toNat)
  | .ctarm a _ c .. => some (a, 0, 1, 384, false, c.toNat)
  | .snap _ b c _ => some (b, 0, 1, 64, false, c.toNat)
  | .enq a _ _ => some (a, 0, 1, 64, false, 0)
  | _ => none

/-- The operation is a matrix command (R223). -/
def Instr.isMx : Instr → Bool
  | .mxw .. | .mxmac .. | .mxmul .. | .mxdrv .. | .mxchk .. => true
  | _ => false

/-- The operation is a `tld` or a `tst` (R232, R233). -/
def Instr.isTile : Instr → Bool
  | .tld .. | .tst .. => true
  | _ => false

/-- A bundle that holds the operation is a datum on both sides (R125). -/
def Instr.isDatumOp : Instr → Bool
  | .atomW .. | .atomD .. | .casW .. | .casD .. | .mwait .. | .enq .. => true
  | _ => false

/-- The operation is withheld as an engine command is, and takes one store-buffer entry (R130, R266, R302). -/
def Instr.isCommand : Instr → Bool
  | .copy .. | .stamp .. | .ctarm .. | .ctarmDis .. | .ctset .. | .hgive .. | .hgiveRet .. | .htake .. | .htakeWd ..
  | .snap .. | .sacc .. | .srej .. | .evac .. | .grow .. | .bgadd .. | .trig .. => true
  | _ => false

/-- The guard of an operation (R116, R142); an event has none. -/
def Instr.guard? : Instr → Option (BitVec 5)
  | .sadd _ _ _ _ _ g | .ssub _ _ _ _ _ g | .smul _ _ _ _ _ g | .smulh _ _ _ _ _ g | .sdiv _ _ _ _ _ g
  | .srem _ _ _ _ _ g | .smin _ _ _ _ _ g | .smax _ _ _ _ _ g | .sand _ _ _ _ _ g | .sor _ _ _ _ _ g | .sxor _ _ _ _ _ g
  | .sandn _ _ _ _ _ g | .sshl _ _ _ _ _ g | .sshr _ _ _ _ _ g | .ssra _ _ _ _ _ g | .srot _ _ _ _ _ g | .saddSi _ _ _ g
  | .smulSi _ _ _ g | .sandSi _ _ _ g | .sorSi _ _ _ g | .sxorSi _ _ _ g | .sminSi _ _ _ g | .smaxSi _ _ _ g
  | .sshlSi _ _ _ g | .sshrSi _ _ _ g | .ssraSi _ _ _ g | .srotSi _ _ _ g | .sclz _ _ _ _ g | .sctz _ _ _ _ g
  | .spopc _ _ _ _ g | .sext _ _ _ _ g | .sbfx _ _ _ _ g | .sbfi _ _ _ g | .smov _ _ g | .smovi _ _ g | .scmp _ _ _ _ _ g
  | .scmpSi _ _ _ _ g | .ssel _ _ _ _ _ g | .pset _ _ _ _ g | .sfadd _ _ _ _ g | .sfmul _ _ _ g | .sffma _ _ _ _ g
  | .sfcvt _ _ _ _ _ _ _ g | .sfcmp _ _ _ _ g | .sget _ _ g | .sset _ _ g | .br _ g | .call _ g | .bri _ _ g | .ret g
  | .loop _ _ _ g | .loopx _ g | .trap _ g | .brk _ g | .trig g | .exit g | .yield g | .cont _ g | .tret g | .halt g
  | .vaddF _ _ _ _ _ g | .vsubF _ _ _ _ _ g | .vmulF _ _ _ _ _ g | .vfma _ _ _ _ _ g | .vfnma _ _ _ _ _ g
  | .vminF _ _ _ _ _ g | .vmaxF _ _ _ _ _ g | .vabsF _ _ _ _ g | .vnegF _ _ _ _ g | .vcmpF _ _ _ _ _ g
  | .vaddI _ _ _ _ _ g | .vsubI _ _ _ _ _ g | .vmulI _ _ _ _ _ g | .vminI _ _ _ _ _ g | .vmaxI _ _ _ _ _ g
  | .vminN _ _ _ _ _ g | .vmaxN _ _ _ _ _ g | .vabsI _ _ _ _ g | .vnegI _ _ _ _ g | .vcmpI _ _ _ _ _ g
  | .vcmpN _ _ _ _ _ g | .vand _ _ _ _ g | .vor _ _ _ _ g | .vxor _ _ _ _ g | .vshl _ _ _ _ _ g | .vshr _ _ _ _ _ g
  | .vsra _ _ _ _ _ g | .vsel _ _ _ _ g | .vmov _ _ _ g | .vmovs _ _ _ g | .viota _ _ _ g | .vcvt _ _ _ _ _ g
  | .vcvtSat _ _ _ _ _ g | .vpack _ _ _ _ _ g | .vunpk _ _ _ _ _ g | .vquant _ _ _ g | .vrotr _ _ _ g | .vbcr _ _ _ g
  | .vredr _ _ _ _ g | .vrotc _ _ _ g | .vbcc _ _ _ g | .vredc _ _ _ _ g | .vpermc _ _ _ _ g | .vext _ _ _ _ g
  | .vins _ _ _ _ g | .mlog _ _ _ _ g | .mpop _ _ _ g | .mset _ _ g | .mmov _ _ g | .vrcp _ _ _ _ g | .vrsq _ _ _ _ g
  | .vexp2 _ _ _ _ g | .vlog2 _ _ _ _ g | .ldB _ _ _ g | .ldBu _ _ _ g | .ldH _ _ _ g | .ldHu _ _ _ g | .ldW _ _ _ g
  | .ldWu _ _ _ g | .ldD _ _ _ g | .ldv _ _ _ g | .stB _ _ _ g | .stH _ _ _ g | .stW _ _ _ g | .stD _ _ _ g
  | .stv _ _ _ g | .ldBMq _ _ _ _ _ g | .ldBuMq _ _ _ _ _ g | .ldHMq _ _ _ _ _ g | .ldHuMq _ _ _ _ _ g
  | .ldWMq _ _ _ _ _ g | .ldWuMq _ _ _ _ _ g | .ldDMq _ _ _ _ _ g | .ldvMq _ _ _ _ _ g | .stBMq _ _ _ _ _ g
  | .stHMq _ _ _ _ _ g | .stWMq _ _ _ _ _ g | .stDMq _ _ _ _ _ g | .stvMq _ _ _ _ _ g | .ldAcqB _ _ _ _ _ g
  | .ldAcqBu _ _ _ _ _ g | .ldAcqH _ _ _ _ _ g | .ldAcqHu _ _ _ _ _ g | .ldAcqW _ _ _ _ _ g | .ldAcqWu _ _ _ _ _ g
  | .ldAcqD _ _ _ _ _ g | .stRelB _ _ _ _ _ g | .stRelH _ _ _ _ _ g | .stRelW _ _ _ _ _ g | .stRelD _ _ _ _ _ g
  | .ldSpB _ _ _ g | .ldSpBu _ _ _ g | .ldSpH _ _ _ g | .ldSpHu _ _ _ g | .ldSpW _ _ _ g | .ldSpWu _ _ _ g
  | .ldSpD _ _ _ g | .ldvSp _ _ _ g | .stSpB _ _ _ g | .stSpH _ _ _ g | .stSpW _ _ _ g | .stSpD _ _ _ g | .stvSp _ _ _ g
  | .ldSpBMq _ _ _ _ g | .ldSpBuMq _ _ _ _ g | .ldSpHMq _ _ _ _ g | .ldSpHuMq _ _ _ _ g | .ldSpWMq _ _ _ _ g
  | .ldSpWuMq _ _ _ _ g | .ldSpDMq _ _ _ _ g | .ldvSpMq _ _ _ _ g | .stSpBMq _ _ _ _ g | .stSpHMq _ _ _ _ g
  | .stSpWMq _ _ _ _ g | .stSpDMq _ _ _ _ g | .stvSpMq _ _ _ _ g | .ldx _ _ _ _ g | .stx _ _ _ _ g | .ldxSp _ _ _ _ g
  | .stxSp _ _ _ _ g | .atomW _ _ _ _ _ g | .atomD _ _ _ _ _ g | .casW _ _ _ _ g | .casD _ _ _ _ g | .fence _ _ g
  | .mwait _ _ _ _ g | .prf _ _ _ g | .cinv g | .cinvL _ g | .vjoin g | .ifence g | .enq _ _ g | .grow _ g
  | .bgadd _ _ _ g | .copy _ _ _ _ g | .stamp _ _ _ _ _ g | .ctarm _ _ _ _ g | .ctarmDis _ _ _ g | .ctset _ _ _ g
  | .ctstat _ _ _ g | .hgive _ _ _ _ g | .hgiveRet _ _ _ g | .htake _ _ _ _ g | .htakeWd _ _ _ g | .hqry _ _ g
  | .snap _ _ _ g | .sacc _ _ _ g | .srej _ _ _ g | .sstat _ _ g | .evac _ _ _ _ g | .chartq _ _ g | .mxfmt _ _ _ g
  | .mxw _ _ g | .mxmac _ _ _ g | .mxmul _ _ _ g | .mxdrv _ _ _ g | .mxchk _ _ _ g | .mxwait g | .ringcfg _ _ _ _ g
  | .ringst _ _ _ g | .tld _ _ _ _ _ _ g | .tst _ _ _ _ _ g | .ald _ _ _ _ g | .ast _ _ _ _ g | .aadd _ _ _ _ g
  | .azero _ g | .ascl _ _ g | .acvt _ _ _ _ g | .acks _ g | .aadam _ _ _ _ g => some g
  | _ => none

end Sys2Proof

namespace Sys2Proof.Machine

/-! ### BGI -/

/-- The wider element of the two formats in the latch (R226). -/
def Regs.operandWidth (r : Regs) : Nat := max (fmtWidth r.fa) (fmtWidth r.fb)

/-- The charge of a product by operand width, doubled in reference mode (R236). -/
def Regs.productCharge (r : Regs) : Nat :=
  (if r.operandWidth = 4 then 24 else if r.operandWidth = 8 then 40 else 64) * (if r.w then 2 else 1)

/-- The `BGI` charge of an operation under a latch (R306). -/
def Regs.charge (r : Regs) (i : Instr) : Nat :=
  match i with
  | .mxmac .. | .mxmul .. | .mxdrv .. => r.productCharge
  | _ => i.charge

/-! ### Queue registers -/

/-- QCTL of a queue (R286). -/
def State.qctl (s : State) (q : Nat) : W64 := KMap.get 0 s.regs.qctl q

/-- The queue takes part: EN is set and ERR is not (R286). -/
def State.qOn (s : State) (q : Nat) : Bool := (s.qctl q).getLsbD 63 && !(s.qctl q).getLsbD 61

/-- The queue is a byte ring (R286). -/
def State.qBytes (s : State) (q : Nat) : Bool := (s.qctl q).getLsbD 62

/-- The address space of a queue (R286). -/
def State.qAsid (s : State) (q : Nat) : Nat := ((s.qctl q).extractLsb' 48 12).toNat

/-- WEIGHT of a queue (R286). -/
def State.qWeight (s : State) (q : Nat) : Nat := ((s.qctl q).extractLsb' 40 8).toNat

/-- N of a queue: slots, or bytes (R286). -/
def State.qSize (s : State) (q : Nat) : Nat := 2 ^ ((s.qctl q).extractLsb' 32 5).toNat

/-- BOUND of a queue in microseconds (R286). -/
def State.qBound (s : State) (q : Nat) : Nat := (s.qctl q).toNat % 2 ^ 32

/-- The address that bits 55:7 of a register or a record field name (R10, R286, R290). -/
def base128 (x : BitVec 49) : Nat := ((x ++ (0#7)).signExtend 64).toNat

/-- The ring's address. -/
def State.qRing (s : State) (q : Nat) : Nat := base128 ((KMap.get 0 s.regs.qring q).extractLsb' 7 49)

/-- The queue block's address. -/
def State.qBlock (s : State) (q : Nat) : Nat := base128 ((KMap.get 0 s.regs.qblk q).extractLsb' 7 49)

/-- Meridian reads n bytes for an address space (R286); none when it cannot. -/
def State.mRead (s : State) (asid va n : Nat) : Option (List Byte) :=
  match s.xlateMeridian asid .load va n with
  | .error _ => none
  | .ok l => if s.poisonedAt l n then none else some (s.readHome l n)

/-- Meridian's reads, each of n bytes at an address, must wait: a lane that one of them takes to another package is shut (R359, R360). -/
def State.mShut (s : State) (asid : Nat) (reads : List (Nat × Nat)) : Bool :=
  reads.any fun x => match s.xlateMeridian asid .load x.1 x.2 with
    | .ok l => !s.wayOpen l
    | .error _ => false

/-- The requests of Meridian's reads to homes in other packages are sent (R16, R359). -/
def State.mAsk (s : State) (asid : Nat) (reads : List (Nat × Nat)) : State :=
  reads.foldl (fun s x => match s.xlateMeridian asid .load x.1 x.2 with
    | .ok l => s.sent l fun a => .read a x.2
    | .error _ => s) s

/-- Meridian reads a 64-bit word. -/
def State.mWord (s : State) (asid va : Nat) : Option Nat := (s.mRead asid va 8).map leNat

/-! ### BGM -/

/-- Bytes an operation names, by where they are counted: at a virtual address, in runs of n bytes through the counted strides of a copy,
n bytes all at one place (none: no unit but the core's own carries them; assumption 89), or at the home of a contribution's peer. -/
inductive Bytes where
  | at (va : W64) (n : Nat)
  | runs (va : W64) (n : Nat) (dims : List (Nat × Int))
  | home (l : Option Loc) (n : Nat)
  | peer (pkg sd entry n : Nat)
  deriving DecidableEq, Repr

/-- How many. -/
def Bytes.count : Bytes → Nat
  | .at _ n => n
  | .runs _ n ds => ds.foldl (fun k d => k * d.1) n
  | .home _ n => n
  | .peer _ _ _ n => n

/-- The stretches of bytes, by address and length. -/
def Bytes.stretches : Bytes → List (W64 × Nat)
  | .at va n => [(va, n)]
  | .runs va n ds =>
    (ds.foldl (fun (l : List Int) d => (List.range d.1).flatMap fun (i : Nat) => l.map fun x => x + (i : Int) * d.2) [0]).map fun x =>
      (va + BitVec.ofInt 64 x, n)
  | .home .. | .peer .. => []

/-- The bytes of a copy by its sides (R267). -/
def CopyRaw.parts (r : CopyRaw) : List Bytes :=
  let dims (str : List Int) : List (Nat × Int) :=
    ((List.range 5).filter fun k => k + 1 < r.ndim).map fun k => (nth 0 r.cnt (k + 1) + 1, nth 0 str k)
  (if r.ssp = 0 || r.ssp = 4 then [.runs r.src r.sizes.1 (dims r.ss)] else []) ++
  (if r.dsp = 0 || r.dsp = 4 then [.runs r.dst r.sizes.2 (dims r.ds)] else []) ++
  (if r.stsp then [] else [.at r.stamp 8])

/-- The bytes of a ctarm (R273). -/
def armParts (bs : List Byte) : List Bytes :=
  let w := descW bs 0
  let rx := w.getLsbD 0
  let tx := w.getLsbD 1
  (if tx then (armPeers bs).map fun p => .peer p.pkg p.sd p.entry (imageSize (w.extractLsb' 4 4)) else []) ++
  (if rx && w.getLsbD 14 then [.at (descW bs 0x10) 17024] else []) ++
  (if rx then [.at (descW bs 0x20) 8] else []) ++ (if tx then [.at (descW bs 0x40) 8] else [])

/-- The place of a virtual address of the task in focus, whatever its rights. -/
def State.placeOf (s : State) (va : W64) : Option Loc :=
  match s.xlate s.focus ⟨false, false, false, false⟩ va.toNat 1 with
  | .error _ => none
  | .ok x => some x.loc

/-- The 72 bytes of an `enq` into queue q: the slot that TAIL names now and its SEQ word, where Meridian finds them (R288, R300). -/
def State.enqParts (s : State) (q : Nat) : List Bytes :=
  let asid := s.qAsid q
  match if q < 4096 && s.qOn q && !s.qBytes q && asid = s.asidOn s.focus then s.mWord asid (s.qBlock q) else none with
  | none => [.home none 72]
  | some t =>
    let at_ (va n : Nat) : Bytes :=
      .home (match s.xlateMeridian asid .load va n with
        | .ok l => some l
        | .error _ => none) n
    [at_ (s.qRing q + 64 * (t % s.qSize q)) 64, at_ (s.qBlock q + 0x80 + 8 * (t % s.qSize q)) 8]

/-- The bytes that an operation of the bundle in issue names in global and host memory (R250, R267, R273, R300). The operand of an
atomic counts twice where it stands, and the elements that a gather or scatter skips count for no home. -/
def State.byteParts (s : State) (i : Instr) : List Bytes :=
  let s0 (r : BitVec 5) : W64 := s.rdS 0 r
  let desc (r : BitVec 5) (n lg : Nat) (f : List Byte → List Bytes) : List Bytes :=
    match s.descFor (s0 r) n lg with
    | some bs => f bs
    | none => []
  match i with
  | .ldx _ a b .. | .stx _ a b .. =>
    let es := gatherElems (s0 a) (s.rdV 1 b.toNat)
    .home none (4096 - 4 * es.length) :: es.map fun e => .at e.2 4
  | .atomW _ a .. | .casW _ a .. => [.home (s.placeOf (s0 a)) 8]
  | .atomD _ a .. | .casD _ a .. => [.home (s.placeOf (s0 a)) 16]
  | .prf t a .. => [.at (s0 a &&& ~~~0x7F#64) (128 * (t.toNat + 1))]
  | .stamp a _ _ _ x _ => if x = 0 then [.at (s0 a) 8] else []
  | .sacc _ b .. | .srej _ b .. => if b = 0 then [] else [.at (s.rdS 1 b) 8]
  | .copy a .. => desc a 128 7 fun bs => (CopyRaw.ofBytes bs).parts
  | .ctarm a .. => desc a 384 7 armParts
  | .snap _ b .. => desc b 64 6 fun bs => if (descW bs 0x18).getLsbD 63 then [.at (descW bs 0x20) 8] else []
  | .enq _ b .. => s.enqParts (s.rdS 1 b).toNat
  | _ =>
    match i.globalAcc with
    | some (a, o, sz, n) => [.at (s.eaMO a o sz) n]
    | none => []

/-- The `BGM` debit of an operation (R305). -/
def State.bytes (s : State) (i : Instr) : Nat := ((s.byteParts i).map Bytes.count).sum

/-! ### Isobar -/

/-- Units and bytes counted against an island in Isobar's window (R367). -/
def State.useIsland (s : State) (i n : Nat) : State :=
  if n = 0 then s
  else { s with isobar := { s.isobar with use := KMap.set s.isobar.use i (KMap.get 0 s.isobar.use i + n) } }

/-- The island of a slot's charge (R367). -/
def chargeIsland (core : Nat) (sl : Slot) (i : Instr) : Nat :=
  if i.isMx then coreIsland core 1
  else if sl = .a || i.isTile then coreIsland core 2
  else coreIsland core 0

/-- The UCIe module that carries a line of host memory: the line hash picks among those that are present (R346). -/
def State.moduleOf (s : State) (line : Nat) : Nat :=
  let ms := (List.range 4).filter fun m => s.ucie.getLsbD m
  nth 0 ms (Config.moduleHash line % max 1 ms.length)

/-- The island that a byte's traffic is counted against (R367): the memory controller of the home stack, or the port or module that
carries its line; bytes that have no home go with their bundle's own charge (assumption 89). -/
def State.byteIsland (s : State) (l : Option Loc) : Nat :=
  match l with
  | none => coreIsland (coreOf s.focus) 0
  | some (.hbm a) => match s.portFor (.hbm a) with | some n => portIsland n | none => memIsland (a % 2 ^ 42)
  | some (.host a) => 1236 + s.moduleOf (a / 128)

/-- Bytes counted against their islands, line by line (R346, R367). -/
def State.useBytes (s : State) (b : Bytes) : State :=
  match b with
  | .peer pkg sd e n =>
    s.useIsland (if pkg = s.regs.podid then 1200 + 2 * sd else portIsland (s.route pkg (16 + e))) n
  | .home l n => s.useIsland (s.byteIsland l) n
  | b =>
    b.stretches.foldl (fun s x =>
      (piecesFrom x.1.toNat x.2).foldl (fun s y => s.useIsland (s.byteIsland (s.placeOf (x.1 + BitVec.ofNat 64 y.1))) y.2) s) s

/-- The debit of the bundle in issue, whose operations are given (R305), against its balances and Isobar's islands; in
continuation mode with a balance below zero the charge is taken from GRACE too, and the bundle that brings it to 0 sets the
grace latch (R310). -/
def State.debitBundle (s : State) (ops : List (Slot × Instr)) : State :=
  let r := s.me.regs
  let i := (ops.map fun o => r.charge o.2).sum
  let m := (ops.map fun o => s.bytes o.2).sum
  let s := ops.foldl (fun s o =>
    (s.byteParts o.2).foldl State.useBytes
      (s.useIsland (chargeIsland (coreOf s.focus) o.1 o.2) (r.charge o.2))) s
  if ops.isEmpty then s
  else
    s.updMe fun P =>
      let P : Part := P.debit i m
      if P.regs.cm && (P.bgi < 0 || P.bgm < 0) then
        let P : Part := { P with grace := P.grace - i }
        if P.grace = 0 then { P.raiseStop P.issT with gl := true } else P
      else P

end Sys2Proof.Machine
end

