-- ==== Sys2Proof/Machine/Copies.lean ====
section
/-! DEFINITION. Released engine commands: their order (R85, R94), the page-lock table (R19), what an engine reads and writes
(R73, R84, R333), copies (R270, R271), and stamps (R92, R93). -/

namespace Sys2Proof.Machine

/-! ### Commands in flight -/

/-- The k-th released command changed. -/
def State.updCmd (s : State) (k : Nat) (f : Cmd → Cmd) : State := { s with cmds := s.cmds.modify k f }

/-- The pin count of a page (R19). -/
def State.pinCount (s : State) (pg : Bool × Nat) : Nat := KMap.get 0 (if pg.1 then s.hostPins else s.pins) pg.2

/-- A pin count changed. -/
def State.setPin (s : State) (pg : Bool × Nat) (n : Nat) : State :=
  if pg.1 then { s with hostPins := KMap.set s.hostPins pg.2 n } else { s with pins := KMap.set s.pins pg.2 n }

/-- The place where a page of another package begins; none for a page of this package or of host memory. -/
def State.farPage (s : State) (pg : Bool × Nat) : Option Loc :=
  if pg.1 || s.isOwn (2 ^ 18 * pg.2) then none else some (.hbm (2 ^ 18 * pg.2))

/-- A pin on a page is taken or given back: in the page-lock table of this package's homes, and for a page of another package over
Galtum Link at its home, of whose count this package's own pins are what it knows (R19). -/
def State.pinPage (s : State) (up : Bool) (pg : Bool × Nat) : State :=
  let s := s.setPin pg (if up then s.pinCount pg + 1 else s.pinCount pg - 1)
  match s.farPage pg with
  | some l => if s.reachable l then s.sent l fun a => .pin (a / 2 ^ 18) up else s
  | none => s

/-- One pin on every page, when no count would pass 65,535 (R19). -/
def State.takePins (s : State) (pages : List (Bool × Nat)) : Option State :=
  if pages.any fun pg => 0xFFFF ≤ s.pinCount pg then none
  else some (pages.foldl (State.pinPage · true ·) s)

/-- The pins of a command released (R19). -/
def State.dropPins (s : State) (pages : List (Bool × Nat)) : State := pages.foldl (State.pinPage · false ·) s

/-- The home of a page of another package says whether its count has room for this package's pins; while it has none, it holds the
request, and a command that touches the page does not start (R19; assumption 83). -/
def State.pinAnswered (s : State) (page : Nat) (room : Bool) : State :=
  if (s.farPage (false, page)).isNone then s
  else { s with farFull := (if room then [] else [page]) ++ s.farFull.filter fun x => x ≠ page }

/-- A copy has read or written something, or awaits its stamp. -/
def Cmd.begun (c : Cmd) : Bool := c.done || !c.did.isEmpty || !c.prog.isEmpty

/-- A command has its pins, in other packages too, and may start (R19). -/
def State.pinsHeld (s : State) (c : Cmd) : Bool :=
  c.pinned && (c.begun || !c.pages.any fun pg => !pg.1 && s.farFull.contains pg.2)

/-- The k-th command takes its pins if it has none; a count at 65,535 keeps it waiting (R19). -/
def State.pinCmd (s : State) (k : Nat) : State :=
  match s.cmds[k]? with
  | none => s
  | some c =>
    if c.pinned then s
    else
      match s.takePins c.pages with
      | none => s
      | some s => s.updCmd k fun c => { c with pinned := true }

/-- The k-th command ends and its pins are released. -/
def State.endCmd (s : State) (k : Nat) (unpin : Bool) : State :=
  match s.cmds[k]? with
  | none => s
  | some c =>
    let s := if unpin && c.pinned then s.dropPins c.pages else s
    { s with cmds := s.cmds.eraseIdx k }

/-- A store of the task that R85, a fence (R78) or an acquire that has read it (R373) puts before the command has not performed. -/
def State.heldBy (s : State) (c : Cmd) : Bool :=
  s.released.any fun g =>
    g.task == c.task &&
    ((g.seq < c.seq && g.cls = c.cls) || (g.before.any fun m => m.1.getLsbD c.cls && m.2 ≤ c.seq) || c.after.contains g.op)

/-- A store of the task released before the command has not performed: what a release waits for (R37, R79, R103). -/
def State.heldAll (s : State) (c : Cmd) : Bool := s.released.any fun g => g.task == c.task && g.seq < c.seq

/-- An earlier copy or stamp of the same task and class has not written its stamp (R94, R272). R94 speaks of the partition's commands;
the model's order follows the task (assumption 75). -/
def State.stampsBefore (s : State) (c : Cmd) : Bool :=
  s.cmds.any fun d =>
    d.task == c.task && d.cls = c.cls && d.seq < c.seq && match d.kind with | .copy .. | .stamp .. => true | _ => false

/-! ### What an engine reads and writes -/

/-- The resident state of a task. -/
def State.resOf (s : State) (id : W64) : Resident :=
  match s.task id with
  | some t => t.res
  | none => Resident.none

/-- The resident state of a task changed. -/
def State.updResOf (s : State) (id : W64) (f : Resident → Resident) : State :=
  s.updTask id fun t => { t with res := f t.res }

/-- The partition that runs a task. -/
def State.runsOn (s : State) (id : W64) : Option Nat :=
  match s.task id with
  | some t => match t.st with | .running p => some p | _ => none
  | none => none

/-- The place is tentative: its task has written the line, or remapped the tile, in its open interval (R84). -/
def State.tentative (s : State) (pl : Place) (n : Nat) : Bool :=
  match pl with
  | .sp id off =>
    match s.runsOn id with
    | some p => (s.part p).journal.any fun j => (linesOf off n).contains j.line
    | none => false
  | .acc id a =>
    match s.runsOn id with
    | some p => (s.part p).remaps.any fun m => m.tile = a / 2 ^ 16
    | none => false
  | _ => false

/-- What an engine has read: bytes, poisoned stretches by offset and length, and the status of a home that does not answer. -/
structure Got where
  bytes : List Byte
  bad   : List (Nat × Nat)
  lost  : Option Nat

/-- The status of a home that cannot be reached or refuses an access: LINK, or HOST (R268, R362). -/
def Loc.lostStatus : Loc → Nat
  | .hbm _ => 4
  | .host _ => 5

/-- A place n bytes on. -/
def Place.add (pl : Place) (n : Nat) : Place :=
  match pl with
  | .glob l pol => .glob (l.add n) pol
  | .sp id o => .sp id (o + n)
  | .acc id a => .acc id (a + n)
  | .slot id q i => .slot id q i

/-- A request of an engine to a place cannot be sent (R359, R360). -/
def State.shut (s : State) (pl : Place) : Bool :=
  match pl with
  | .glob l _ => !s.wayOpen l
  | _ => false

/-- The task's reservation stands: on a core, or as images in the pool (R45, R46). -/
def State.stands (s : State) (id : W64) : Bool :=
  match s.task id with
  | some t => t.core.isSome || !t.images.isEmpty
  | none => false

/-- The reservation that a place lies in, if any, stands. -/
def State.placeStands (s : State) (pl : Place) : Bool :=
  match pl with
  | .glob .. => true
  | .sp id _ | .acc id _ | .slot id _ _ => s.stands id

/-- The poisoned stretches of an access at a byte address of a memory. -/
def Store.badPieces (st : Store) (a n : Nat) : List (Nat × Nat) :=
  if st.poison.isEmpty then [] else (piecesFrom a n).filter fun x => st.poison.contains ((a + x.1) / 128)

/-- Byte k of a run in accumulator memory (R21, R63). -/
def accByte (a : AccTile) (addr k : Nat) : Byte :=
  let b := addr + k
  (accEl a (bitsAt b 9 7) (b % 512 / 4)).extractLsb' (8 * (b % 4)) 8

/-- The accumulator tile an address of space 3 names, as a read finds it (R8). -/
def Resident.tileAt (r : Resident) (fr addr : Nat) : AccTile := r.accTile fr (addr / 2 ^ 16)

/-- The elements of accumulator memory that n bytes from an address of space 3 cover, as the range of `tundef` (R21). -/
def accSpan (a n : Nat) : Nat × Nat :=
  let e := 4225 * (a / 2 ^ 16) + 65 * bitsAt a 9 7 + a % 512 / 4
  (e, e + (n + 3) / 4)

/-- The poisoned stretches of n bytes at a home: its answer may say so of all of them (R331, R333). -/
def State.badHome (s : State) (l : Loc) (n : Nat) : List (Nat × Nat) :=
  if s.farAnswer l fun x => x = .poison then [(0, n)]
  else match l with | .hbm a => s.mem.badPieces a n | .host a => s.hostMem.badPieces a n

/-- What n bytes of a place hold, to an engine (R69, R333) that acts for a partition whose last vjoin is `vj` (R23). -/
def State.engRead (s : State) (vj : Nat) (pl : Place) (n : Nat) : Got :=
  match pl with
  | .glob l _ =>
    if !s.reachable l || s.farAnswer l fun x => x = .refused false then ⟨List.replicate n 0, [], some l.lostStatus⟩
    else ⟨s.readHome l n, s.badHome l n, none⟩
  | .sp id off => ⟨s.resRead (s.resOf id) vj s.fresh false off n, (s.resOf id).sp.badPieces off n, none⟩
  | .acc id a =>
    let r := s.resOf id
    ⟨(List.range n).map (accByte (r.tileAt s.fresh a) a), if r.tpoison.contains (a / 2 ^ 16, bitsAt a 9 7) then [(0, n)] else [], none⟩
  | .slot .. => ⟨List.replicate n 0, [], none⟩

/-- An engine reads n bytes of a place at its home, through the memory-side cache (R16, R32, R69). -/
def State.engGet (s : State) (vj : Nat) (pl : Place) (n : Nat) : Got × State :=
  match pl with
  | .glob l pol =>
    let s := (s.sent l fun a => .read a n).told l n
    (s.engRead vj pl n, s.touch l n false pol)
  | _ => (s.engRead vj pl n, s)

/-- A stretch of a memory marked poisoned (R333). -/
def Store.spoil (st : Store) (a : Nat) (bad : List (Nat × Nat)) : Store :=
  bad.foldl (fun st x => (linesOf (a + x.1) x.2).foldl Store.addPoison st) st

/-- The line of a place marked poisoned. -/
def State.spoilHome (s : State) (l : Loc) : State :=
  match l with
  | .hbm a => { s with mem := s.mem.addPoison (a / 128) }
  | .host a => { s with hostMem := s.hostMem.addPoison (a / 128) }

/-- Bytes of one element of an accumulator tile replaced. -/
def accSetByte (a : AccTile) (addr : Nat) (b : Byte) : AccTile :=
  let e := 65 * bitsAt addr 9 7 + addr % 512 / 4
  let x := nth 0 a e
  let sh := 8 * (addr % 4)
  a.set e ((x &&& ~~~((0xFF#32) <<< sh)) ||| (b.setWidth 32 <<< sh))

/-- The status of the first failure is kept (R268). -/
def firstStatus (a b : Nat) : Nat := if a = 0 then b else a

/-- One of the stretches meets [o, o + n). -/
def meetsBad (bad : List (Nat × Nat)) (o n : Nat) : Bool := bad.any fun x => x.1 < o + n && o < x.1 + x.2

/-- One piece of a write by an engine performs at its home, poisoned when its source was; a line that its home turns away keeps what it
held (R93, R109, R333, R362). -/
def State.engPut (s : State) (l : Loc) (pol : BitVec 2) (bs : List Byte) (bad : Bool) : State × Nat :=
  if !s.takes l then (s, l.lostStatus)
  else
    match ((s.sent l fun a => .write a bs bad).touch l bs.length true pol).writeHome l bs with
    | none => (s, 3)
    | some s => (if bad then s.spoilHome l else s, 0)

/-- An engine writes bytes to a place, piece by piece, poisoned where its source was (R73, R333); with the status of the first piece
that is refused. -/
def State.engWrite (s : State) (pl : Place) (bs : List Byte) (bad : List (Nat × Nat)) : State × Nat :=
  match pl with
  | .glob l pol =>
    (l.pieces bs.length).foldl (fun (x : State × Nat) (o, n) =>
      let (s, st) := x.1.engPut (l.add o) pol ((bs.drop o).take n) (meetsBad bad o n)
      (s, firstStatus x.2 st)) (s, 0)
  | .sp id off =>
    (s.updResOf id fun r =>
      let r := s.spPut r false false off bs
      { r with sp := r.sp.spoil off bad }, 0)
  | .acc id a =>
    let t := a / 2 ^ 16
    (s.updResOf id fun r =>
      { r with
        tiles := KMap.set r.tiles t
          ((bs.zipIdx).foldl (fun (x : AccTile) (b, k) => accSetByte x (a + k) b) (r.tileAt s.fresh a))
        tundef := cutRange (accSpan a bs.length).1 (accSpan a bs.length).2 r.tundef
        tpoison := if bad.isEmpty then r.tpoison else (t, bitsAt a 9 7) :: r.tpoison }, 0)
  | .slot .. => (s, 0)

/-! ### Stamps -/

/-- The value of a stamp (R92). -/
def stampValue (status : Nat) (seq : BitVec 56) : W64 :=
  BitVec.ofNat 64 ((if status = 0 then 0 else 2 ^ 63) + status * 2 ^ 56 + seq.toNat)

/-- A stamp as a place. -/
def StampLoc.place : StampLoc → Place
  | .global x => .glob x.loc x.pol
  | .sp id off => .sp id off

/-- A stamp written as one piece (R92, R93); one its home refuses or cannot be reached is lost. -/
def State.putStamp (s : State) (pl : Place) (status : Nat) (seq : BitVec 56) : State :=
  (s.engWrite pl (leBytes 8 (stampValue status seq).toNat) []).1

/-- A stamp written when the command names one. -/
def State.putStamp? (s : State) (l : Option Spot) (status : Nat) (seq : BitVec 56) : State :=
  match l with
  | some x => s.putStamp (.glob x.loc x.pol) status seq
  | none => s

/-! ### The pieces of a run -/

/-- The source is a tile image, which the copy verifies (R57, R63). -/
def Place.verified : Place → Bool
  | .acc .. => false
  | _ => true

/-- An accumulator tile as bytes, its rows of 260 one after another (R63). -/
def accBytes (a : AccTile) : List Byte := a.flatMap fun x => leBytes 4 x.toNat

/-- The bytes of a run at its source and its destination (R63, R270). -/
def CopyDesc.sizes (d : CopyDesc) : Nat × Nat :=
  if d.tile then (imageSize d.sfmt, imageSize d.dfmt)
  else
    match d.op with
    | 0 => (d.n0, d.n0)
    | 4 => (16 * d.n0, 4 * d.n0)
    | _ => (elemBytes d.sfmt * d.n0, 16 * d.n0)

/-- The bytes of one side of a run: a whole accumulator tile has 65 rows of 260, and a ring slot takes its tile at once. -/
def CopyDesc.span (d : CopyDesc) (pl : Place) (n : Nat) : Nat :=
  match d.tile, pl with
  | true, .acc .. => 16900
  | _, _ => n

/-- The pieces of n bytes of a place, by offset and length (R73): parts of lines, 8-byte words of host memory, elements of
accumulator memory. -/
def Place.cuts (pl : Place) (n : Nat) : List (Nat × Nat) :=
  match pl with
  | .glob l _ => l.pieces n
  | .sp _ off => piecesFrom off n
  | .acc .. => (List.range ((n + 3) / 4)).map fun k => (4 * k, min 4 (n - 4 * k))
  | .slot .. => []

/-- The pieces a run reads; all at once in a run that performs whole. -/
def CopyDesc.gets (d : CopyDesc) (src : Place) (whole : Bool) : List (Nat × Nat) :=
  let n := d.span src d.sizes.1
  if whole then [(0, n)] else src.cuts n

/-- The pieces a run writes: an element of an accumulate is one of them (R66). -/
def CopyDesc.dests (d : CopyDesc) (dst : Place) (whole : Bool) : List (Nat × Nat) :=
  let n := d.span dst d.sizes.2
  if !d.tile && 1 ≤ d.op && d.op ≤ 3 then (List.range d.n0).map fun e => (16 * e, 16)
  else match dst with
    | .slot .. => []
    | _ => if whole then [(0, n)] else dst.cuts n

/-- The source bytes, by offset and length, that a piece of the destination is made from (R270). -/
def CopyDesc.needs (d : CopyDesc) (o n : Nat) : Nat × Nat :=
  match d.op with
  | 0 => (o, n)
  | 4 => (4 * o, 4 * n)
  | _ => (o / 16 * elemBytes d.sfmt, elemBytes d.sfmt)

/-- What has been read in [o, o + n), in order. -/
def gotBytes (got : List GotPiece) (o n : Nat) : List Byte :=
  got.flatMap fun g => (g.bytes.drop (o - g.off)).take (min (g.off + g.bytes.length) (o + n) - max g.off o)

/-- The poisoned stretches of what has been read, by offset into the run. -/
def gotBad (got : List GotPiece) : List (Nat × Nat) := got.flatMap fun g => g.bad.map fun b => (g.off + b.1, b.2)

/-- Every byte of [o, o + n) has been read. -/
def gotAll (got : List GotPiece) (o n : Nat) : Bool :=
  (got.foldl (fun left g => cutRange g.off (g.off + g.bytes.length) left) [(o, o + n)]).isEmpty

/-- A piece that has been read, put at its place in the run. -/
def putGot (g : GotPiece) : List GotPiece → List GotPiece
  | [] => [g]
  | x :: xs => if g.off < x.off then g :: x :: xs else x :: putGot g xs

/-- A piece of the destination from what has been read (R205, R270): its bytes, the source element of an accumulate, or the elements
read out; poisoned when its source was (R333). A read-out that overflows fp32 leaves the copy's status as it is (R268; the model's
choice, assumption 101). -/
def CopyDesc.make (d : CopyDesc) (got : List GotPiece) (o n : Nat) : GotPiece :=
  let x := d.needs o n
  let bs := gotBytes got x.1 x.2
  let bad := (gotBad got).filter fun b => b.1 < x.1 + x.2 && x.1 < b.1 + b.2
  match d.op with
  | 0 => ⟨o, bs, bad.map fun b => (max b.1 o - o, min (b.1 + b.2) (o + n) - max b.1 o)⟩
  | 4 =>
    ⟨o, (wordsOf 16 (bs.length / 16) bs).flatMap fun y =>
        leBytes 4 ((Fixed.ofBits (BitVec.ofNat 128 y)).readout d.anchor).1.toNat,
      bad.map fun b =>
        let lo := max b.1 x.1 - x.1
        let hi := min (b.1 + b.2) (x.1 + x.2) - x.1
        (lo / 16 * 4, (hi + 15) / 16 * 4 - lo / 16 * 4)⟩
  | _ => ⟨o, bs, if bad.isEmpty then [] else [(0, 16)]⟩

/-- The pieces of the destination that become whole with a piece read at [o, o + n): the engine may write each as soon as what it is
made from has been read (R85, R87). -/
def CopyDesc.ripe (d : CopyDesc) (dst : Place) (got : List GotPiece) (o n : Nat) (whole : Bool) : List GotPiece :=
  ((d.dests dst whole).filter fun c =>
      let x := d.needs c.1 c.2
      x.1 < o + n && o < x.1 + x.2 && gotAll got x.1 x.2).map fun c => d.make got c.1 c.2

/-- A piece of a run is read (R69, R73): for a whole accumulator tile in its rows one after another. -/
def State.getPiece (s : State) (d : CopyDesc) (vj : Nat) (src : Place) (o n : Nat) : Got × State :=
  match d.tile, src with
  | true, .acc id a =>
    let r := s.resOf id
    let rows := (r.tpoison.filter fun e => e.1 = a / 2 ^ 16).map fun e => (260 * e.2, 260)
    (⟨((accBytes (r.tileAt s.fresh a)).drop o).take n,
      (rows.filter fun b => b.1 < o + n && o < b.1 + b.2).map fun b => (max b.1 o - o, min (b.1 + b.2) (o + n) - max b.1 o), none⟩, s)
  | _, _ => s.engGet vj (src.add o) n

/-- One addition into the element at a place through the accumulate-on-write port, a contribution's or a copy's (R66, R95, R203, R204):
`op` is 1 for a sum, 2 for a maximum and 3 for a minimum. An element that holds the armed pattern and has taken no addition since it was
stored takes a maximum or minimum whole; with anything else stored there it is combined with that (assumption 91). Its value goes with
the state, and the status of the write. -/
def State.addInto (s : State) (op : Nat) (anchor : Int) (vj : Nat) (at_ : Place) (v : FV) (spoil : Bool) : Fixed × State × Nat :=
  let old := Fixed.ofBits (leWord 128 (s.engRead vj at_ 16).bytes)
  let took : Bool := match at_ with | .sp id o => (s.resOf id).took.contains (o / 16) | _ => false
  let new := if op = 1 then old.sum anchor v else old.extreme (op = 2) (old == Fixed.armed && !took) anchor v
  let (s, st) := s.engWrite at_ (leBytes 16 new.bits.toNat) (if spoil then [(0, 16)] else [])
  let s := match at_ with | .sp id o => s.updResOf id fun r => { r with took := o / 16 :: r.took } | _ => s
  (new, s, st)

/-- A copy's addition into one element (R95, R270). Saturation there stands in the element alone: the status word of an entry tells of
contributions (R276; assumption 92). -/
def State.accumulate (s : State) (d : CopyDesc) (vj : Nat) (dst : Place) (e : Nat) (v : FV) (spoil : Bool) : State × Nat :=
  (s.addInto d.op d.anchor vj (dst.add (16 * e)) v spoil).2

/-- A piece of a run is written (R62, R63, R66, R73). -/
def State.putPiece (s : State) (d : CopyDesc) (vj : Nat) (dst : Place) (g : GotPiece) : State × Nat :=
  match d.tile, dst with
  | true, .acc id a =>
    let k := a / 2 ^ 16
    let xs : List W32 := (wordsOf 4 (g.bytes.length / 4) g.bytes).map fun x => BitVec.ofNat 32 x
    let rows := g.bad.flatMap fun b => (List.range 65).filter fun i => g.off + b.1 < 260 * i + 260 && 260 * i < g.off + b.1 + b.2
    (s.updResOf id fun r =>
      { r with tiles := KMap.set r.tiles k (Vec.patch (r.tileAt s.fresh a) (g.off / 4) xs)
               tundef := cutRange (4225 * k + g.off / 4) (4225 * k + g.off / 4 + xs.length) r.tundef
               tpoison := (rows.map fun i => (k, i)) ++ r.tpoison }, 0)
  | false, _ =>
    if 1 ≤ d.op && d.op ≤ 3 then
      s.accumulate d vj dst (g.off / 16) ((fmtOf d.sfmt).value (leNat g.bytes)) (!g.bad.isEmpty)
    else s.engWrite (dst.add g.off) g.bytes g.bad
  | true, _ => s.engWrite (dst.add g.off) g.bytes g.bad

/-! ### Tiles -/

/-- The rings of a task changed in its resident state and, while it runs, in the state a rollback returns to (R271). -/
def State.updRingBoth (s : State) (id : W64) (q : Nat) (f : Ring → Ring) : State :=
  let set (rs : KMap Ring) : KMap Ring := KMap.set rs q (f (KMap.get Ring.none rs q))
  let s := s.updResOf id fun r => { r with rings := set r.rings }
  match s.runsOn id with
  | some p => s.updPart p fun P => { P with ringsD := set P.ringsD }
  | none => s

/-- The tile a run has read: an image, or an accumulator tile (R61, R63, R270). -/
def CopyDesc.tileOf (d : CopyDesc) (src : Place) (got : List GotPiece) : TileData :=
  let n := d.span src d.sizes.1
  let bs := gotBytes got 0 n
  let bad := !(gotBad got).isEmpty
  match src with
  | .acc .. => { accToTile ((wordsOf 4 4225 bs).map fun x => BitVec.ofNat 32 x) with poison := bad }
  | _ => TileData.ofImage d.sfmt d.cb bs bad

/-- The tile as the destination takes it, with its bytes there: those of the source when a verified image keeps its format (R57, R62,
R63, R193, R196), whose 124 reserved bytes (R61) then go along (the model's choice, assumption 98). -/
def CopyDesc.tileOut (d : CopyDesc) (src dst : Place) (got : List GotPiece) : TileData × List Byte :=
  let t := d.tileOf src got
  let out := { (t.recode d.dfmt d.cb).1 with cb := d.cb }
  (out, match dst with
    | .acc .. => accBytes (tileToAcc out)
    | _ => if d.sfmt = d.dfmt && src.verified then gotBytes got 0 d.sizes.1 else out.image)

/-- The poisoned stretches of a tile's destination: line by line where an image is copied as it stands, and otherwise all of it
(R333). -/
def CopyDesc.tileBad (d : CopyDesc) (src dst : Place) (got : List GotPiece) : List (Nat × Nat) :=
  let plain := d.sfmt = d.dfmt && src.verified && match dst with | .acc .. => false | _ => true
  if (gotBad got).isEmpty then [] else if plain then gotBad got else [(0, d.span dst d.sizes.2)]

/-- OUTCOME of a record for an event to which the list of R345 gives no code: a free value. -/
def State.openOutcome (s : State) (k : Nat) : Nat := (Config.freeBits (s.freeIx k) 8).toNat % 7

/-- A verification of a tile image by an engine of an island has failed (R334, R344, R345): it is read again, or given up. -/
def State.tileFailed (s : State) (island core part : Nat) (again : Bool) : State :=
  s.log 11 (if again then 1 else s.openOutcome 303) island core part 0x1FF 0 0

/-- A copy engine's verification has failed: the engine is one of the cluster of the core that issued the command (R365). -/
def State.copyFailed (s : State) (c : Cmd) (again : Bool) : State :=
  s.tileFailed (1152 + clusterOf (coreOf c.part)) (coreOf c.part) (c.part % 4) again

/-! ### Runs -/

/-- The progress of run r. -/
def Cmd.runAt (c : Cmd) (r : Nat) : Option RunProg := c.prog.find? fun x => x.run = r

/-- The progress of a run replaced. -/
def Cmd.setRun (c : Cmd) (x : RunProg) : Cmd := { c with prog := (c.prog.filter fun y => y.run != x.run) ++ [x] }

/-- A run ends. -/
def Cmd.endRun (c : Cmd) (r total : Nat) : Cmd :=
  { c with prog := c.prog.filter fun y => y.run != r, did := c.did ++ [r], done := total ≤ c.did.length + 1 }

/-- A stretch of a place made undefined (R8). -/
def State.blur (s : State) (pl : Place) (n : Nat) : State :=
  match pl with
  | .glob (.hbm a) _ => { s with mem := s.mem.undefine a n }
  | .glob (.host a) _ => { s with hostMem := s.hostMem.undefine a n }
  | .sp id off => s.updResOf id fun r => { r with sp := r.sp.undefine off n }
  | .acc id a => s.updResOf id fun r => { r with tundef := accSpan a n :: r.tundef }
  | .slot .. => s

/-- Every element of an accumulator tile made undefined (R8). -/
def State.blurTile (s : State) (id : W64) (t : Nat) : State :=
  s.updResOf id fun r => { r with tundef := (4225 * t, 4225 * t + 4225) :: r.tundef }

/-- Where two places of one space meet, as a stretch of the first. -/
def meetPlace (x : Place) (n : Nat) (y : Place) (m : Nat) : Option (Place × Nat) :=
  let go (a b : Nat) (mk : Nat → Place) : Option (Place × Nat) :=
    if max a b < min (a + n) (b + m) then some (mk (max a b), min (a + n) (b + m) - max a b) else none
  match x, y with
  | .glob (.hbm a) pol, .glob (.hbm b) _ => go a b fun c => .glob (.hbm c) pol
  | .glob (.host a) pol, .glob (.host b) _ => go a b fun c => .glob (.host c) pol
  | .sp i a, .sp j b => if i == j then go a b fun c => .sp i c else none
  | .acc i a, .acc j b => if i == j then go a b fun c => .acc i c else none
  | _, _ => none

/-- What of one run's destination overlaps a source of n bytes becomes undefined: of a whole accumulator tile all 4,225 elements
(R270). -/
def State.blurMeet (s : State) (d : CopyDesc) (dst src : Place) : State :=
  match d.tile, dst, src with
  | true, .acc i a, .acc j b => if i == j && a / 2 ^ 16 = b / 2 ^ 16 then s.blurTile i (a / 2 ^ 16) else s
  | _, _, _ =>
    match meetPlace dst d.sizes.2 src d.sizes.1 with
    | some (pl, k) => s.blur pl k
    | none => s

/-- Destination bytes that overlap the copy's own source bytes are undefined (R270). -/
def State.blurOverlap (s : State) (d : CopyDesc) : State :=
  d.runs.foldl (fun s x => d.runs.foldl (fun s y => s.blurMeet d x.2 y.1) s) s

/-- Granules of the destination that a run has written whole with clean data lose their poison, where no piece of it covers one by itself:
lines of host memory and rows of accumulator memory (R73, R331). -/
def State.cleanRun (s : State) (d : CopyDesc) (dst : Place) (bad : List (Nat × Nat)) : State :=
  let n := d.span dst d.sizes.2
  match dst with
  | .glob (.host a) _ =>
    { s with hostMem := { s.hostMem with poison := s.hostMem.poison.filter fun l =>
        !(a ≤ 128 * l && 128 * l + 128 ≤ a + n && !meetsBad bad (128 * l - a) 128) } }
  | .acc id a =>
    let k := a / 2 ^ 16
    s.updResOf id fun r => { r with tpoison := r.tpoison.filter fun e =>
      !(e.1 = k && if d.tile then !meetsBad bad (260 * e.2) 260 else bad.isEmpty && a % 512 = 0 && n = 260 && bitsAt a 9 7 = e.2) }
  | _ => s

/-- Run r of the k-th command has nothing left to read or write: it ends with a status, and after the last the copy awaits its stamp. -/
def State.closeRun (s : State) (k r : Nat) (d : CopyDesc) (status : Nat) : State :=
  let s := s.updCmd k fun c => { c.endRun r d.runs.length with status := firstStatus c.status status }
  match s.cmds[k]? with
  | some c => if c.done then s.blurOverlap d else s
  | none => s

/-- A run goes on as it stands now, or ends when nothing is left of it. -/
def State.keepRun (s : State) (k : Nat) (d : CopyDesc) (dst : Place) (x : RunProg) (status : Nat) : State :=
  if x.gets.isEmpty && x.puts.isEmpty then
    let bad := if d.tile then (if (gotBad x.got).isEmpty then [] else [(0, d.span dst d.sizes.2)])
      else if d.op = 0 then gotBad x.got else if (gotBad x.got).isEmpty then [] else [(0, d.sizes.2)]
    (s.cleanRun d dst bad).closeRun k x.run d status
  else s.updCmd k fun c => { c.setRun x with status := firstStatus c.status status }

/-- The tile of a run has been read whole: it is verified, unless it carries poison, converted, and its pieces may be written; an image
that fails is read again from its home, at most twice, and then ends CHECK with nothing written (R57, R333, R334; assumption 44). A
ring slot takes its tile at once: nothing sees it before the stamp (R271). -/
def State.convertRun (s : State) (k : Nat) (c : Cmd) (d : CopyDesc) (src dst : Place) (x : RunProg) (whole : Bool) : State :=
  let bad := !(gotBad x.got).isEmpty
  if !bad && src.verified && !testsPass (d.tileOf src x.got).tests then
    if x.tries < 2 then
      (s.copyFailed c true).keepRun k d dst
        { x with gets := d.gets src whole, got := [], tries := x.tries + 1 } 0
    else (s.copyFailed c false).closeRun k x.run d 2
  else
    let out := d.tileOut src dst x.got
    let bads := d.tileBad src dst x.got
    let puts := (d.dests dst whole).map fun (o, n) =>
      (⟨o, (out.2.drop o).take n,
        (bads.filter fun b => b.1 < o + n && o < b.1 + b.2).map fun b => (max b.1 o - o, min (b.1 + b.2) (o + n) - max b.1 o)⟩ : GotPiece)
    let s := match dst with
      | .slot id q i => s.updRingBoth id q fun r => { r with slots := KMap.set r.slots i ⟨out.1, false, false⟩ }
      | _ => s
    s.keepRun k d dst { x with puts := puts } (if bad then 1 else 0)

/-- Piece j of those that run x has left is performed, the reads before the writes; it waits where the line or tile is tentative (R84)
or the way is shut. -/
def State.runPiece (s : State) (k : Nat) (c : Cmd) (d : CopyDesc) (src dst : Place) (x : RunProg) (j : Nat) (whole : Bool) : State :=
  match x.gets[j]? with
  | some (o, n) =>
    if s.tentative (src.add (if d.tile && !src.verified then 0 else o)) n || s.shut (src.add o) then s
    else
      let (g, s) := s.getPiece d c.vj src o n
      match g.lost with
      | some st => s.closeRun k x.run d st
      | none =>
        let x := { x with gets := x.gets.eraseIdx j, got := putGot ⟨o, g.bytes, g.bad⟩ x.got }
        if d.tile then
          if x.gets.isEmpty then s.convertRun k c d src dst x whole else s.updCmd k fun c => c.setRun x
        else s.keepRun k d dst { x with puts := x.puts ++ d.ripe dst x.got o n whole } (if g.bad.isEmpty then 0 else 1)
  | none =>
    match x.puts[j - x.gets.length]? with
    | none => s
    | some g =>
      let at_ := match d.tile, dst with | true, .acc .. => dst | _, _ => dst.add g.off
      if s.tentative at_ (max 1 g.bytes.length) || s.shut at_ then s
      else
        let (s, st) := s.putPiece d c.vj dst g
        s.keepRun k d dst { x with puts := x.puts.eraseIdx (j - x.gets.length) } st

/-- The progress of a run that has not begun (R73). -/
def CopyDesc.begin (d : CopyDesc) (r : Nat) (src : Place) (whole : Bool) : RunProg := ⟨r, d.gets src whole, [], [], 0⟩

/-- Piece j of run r of the k-th command. The lines of a tile image are read and written in ascending order (R62). -/
def State.stepRun (s : State) (k r j : Nat) (whole : Bool) : State :=
  match s.cmds[k]? with
  | none => s
  | some c =>
    match c.kind with
    | .copy d _ _ =>
      match d.runs[r]? with
      | none => s
      | some (src, dst) =>
        if c.did.contains r then s
        else
          let x := (c.runAt r).getD (d.begin r src whole)
          (s.runPiece k c d src dst x (if d.tile then 0 else j) whole).draw
    | _ => s

/-- A run performs as far as it can, at most n pieces of it. -/
def State.wholeRun (s : State) (k r : Nat) (whole : Bool) : Nat → State
  | 0 => s
  | n + 1 => (s.stepRun k r 0 whole).wholeRun k r whole n

/-- The run that a copy performs whole: one it has begun, or the first it has not performed. -/
def Cmd.nextRun (c : Cmd) (d : CopyDesc) : Nat × Bool :=
  match c.prog with
  | x :: _ => (x.run, false)
  | [] => (((List.range d.runs.length).find? fun r => !c.did.contains r).getD 0, true)

/-- Pieces a run has at most, with the rereads of R334. -/
def CopyDesc.pieces (d : CopyDesc) (r : Nat) : Nat :=
  match d.runs[r]? with
  | some (src, dst) => 3 * (d.gets src false).length + (d.dests dst false).length + 4
  | none => 0

/-! ### Events -/

/-- R270. The k-th released command, a copy, performs piece j of run r, or the whole of its next run; it waits for its pins (R19), for
the stores R85 puts before it, and for a tentative line or tile (R84). One whose reservation has gone before it began ends STRAYOP with
nothing written; one that has begun goes on (R268; assumption 69). -/
def execCopyExecute (x : CopyTurn) (s : State) : Out :=
  let k := x.k
  let piece := x.piece
  let s := s.pinCmd k
  .next (match s.cmds[k]? with
    | some c =>
      match c.kind with
      | .copy d _ _ =>
        if c.done || !s.pinsHeld c || s.heldBy c then s
        else if !c.begun && d.runs.any fun x => !s.placeStands x.1 || !s.placeStands x.2 then
          s.updCmd k fun c => { c with status := firstStatus c.status 14, prog := [], done := true }
        else
          match piece with
          | some (r, j) => s.stepRun k r j false
          | none =>
            let (r, whole) := c.nextRun d
            s.wholeRun k r (whole && s.ans.isNone) (if s.ans.isSome then 1 else d.pieces r)
      | _ => s
    | none => s)

/-- A reserved slot counts from its stamp on (R271): filled, or undefined when the status is not 0. -/
def State.readySlot (s : State) (c : Cmd) (d : CopyDesc) (qi : Nat × Nat) : State :=
  s.updRingBoth c.task qi.1 fun r =>
    let x : RingSlot :=
      match c.status, KMap.find r.slots qi.2 with
      | 0, some x => { x with ready := true }
      | st, _ => ⟨blankTile d.dfmt d.cb (st = 1), true, true⟩
    { r with slots := KMap.set r.slots qi.2 x, count := r.count + 1 }

/-- R93, R94. The k-th released command, a copy whose payload has performed, writes its stamp after every earlier stamp of
its task and class. -/
def execCopyStamp (k : Nat) (s : State) : Out :=
  let s := s.pinCmd k
  .next (match s.cmds[k]? with
    | some c =>
      match c.kind with
      | .copy d st seq =>
        if !c.done || !s.pinsHeld c || s.heldBy c || s.stampsBefore c || s.tentative st.place 8 || s.shut st.place then s
        else
          let s := if s.stands c.task then c.slots.foldl (fun s qi => s.readySlot c d qi) s else s
          ((s.putStamp st.place c.status seq).endCmd k true).draw
      | _ => s
    | none => s)

/-- R272. The k-th released command, a stamp, writes it after the stores of its class and the earlier stamps. -/
def execStampWrite (k : Nat) (s : State) : Out :=
  let s := s.pinCmd k
  .next (match s.cmds[k]? with
    | some c =>
      match c.kind with
      | .stamp st seq =>
        if !s.pinsHeld c || s.heldBy c || s.stampsBefore c || s.tentative st.place 8 || s.shut st.place then s
        else (s.putStamp st.place 0 seq).endCmd k true
      | _ => s
    | none => s)

end Sys2Proof.Machine
end

