-- ==== Sys2Proof/Machine/Collect.lean ====
section
/-! DEFINITION. The collective units (R96 to R102, R273 to R277): arming, firing, sends, contributions, completion, deadlines
and disarming. -/

namespace Sys2Proof.Machine

/-- Bytes of a tile of fixed-point elements (R64). -/
def fixedBytes : Nat := 65536

/-- The destination tile of an entry (R273). -/
def Entry.dest (e : Entry) : Place :=
  .sp e.task (match e.desc with | some d => d.dtile | none => 0)

/-- The entry is busy: its receive side is armed or has yet to complete, or its send side is waiting or sending (R96, R100). -/
def Entry.busy (e : Entry) : Bool := e.rst = 1 || e.owed || e.sst = 1 || e.sst = 2

/-- The pages that an entry holds pinned: a page that both its sides touch has one pin (R19). -/
def Entry.pins (e : Entry) : List (Bool × Nat) := (e.rpins ++ e.spins).eraseDups

/-- STRAY of a unit rises by one, saturating at 2^32 - 1 (R96, R276). -/
def State.addStray (s : State) (sd : Nat) : State :=
  { s with stray := KMap.set s.stray sd (min (2 ^ 32 - 1) (KMap.get 0 s.stray sd + 1)) }

/-- The send side fires: the flag is consumed and the peers are walked from the first (R97). -/
def Entry.fire (e : Entry) : Entry := { e with sst := 2, flag := false, sent := 0, sendStatus := 0 }

/-- The entry's pins are released and both sides return to IDLE; the send flag and the elements stand (R274). -/
def State.idleEntry (s : State) (sd e : Nat) : State :=
  let x := s.entry sd e
  (s.dropPins x.pins).updEntry sd e fun x =>
    { x with rst := 0, sst := 0, asid := none, rpins := [], spins := [], dying := false, half := false, owed := false }

/-- The command ends with a status in the completion stamp, or the send stamp when RX is clear (R274). -/
def State.armFails (s : State) (d : ArmDesc) (status : Nat) : State :=
  if d.rx then s.putStamp? d.cstamp status d.cseq else s.putStamp? d.sstamp status d.sseq

/-- The places that an entry writes as its tile completes or its deadline passes, the result before the stamp (R100, R102). -/
def Entry.farWrites (x : Entry) (arrival : Bool) : List Loc :=
  match x.desc with
  | some d => ((if arrival then d.result.toList else []) ++ d.cstamp.toList).map Spot.loc
  | none => []

/-- The pins of the two sides of an arming (R19). -/
def ArmDesc.sidePins (d : ArmDesc) : List (Bool × Nat) × List (Bool × Nat) :=
  let pg (o : Option Spot) (n : Nat) : List (Bool × Nat) := match o with | some x => x.loc.pages n | none => []
  let src := match d.source with | some x => x.pages (imageSize d.sfmt) | none => []
  ((pg d.result 17024 ++ pg d.cstamp 8).eraseDups, (src ++ pg d.sstamp 8).eraseDups)

/-- The pins of one side of an entry are released: it has completed, timed out, or been sent; a page that the other side still holds stays
pinned (R19; assumption 49). -/
def State.unpinSide (s : State) (sd e : Nat) (rx : Bool) : State :=
  let x := s.entry sd e
  let (own, other) := if rx then (x.rpins, x.spins) else (x.spins, x.rpins)
  (s.dropPins (own.filter fun pg => !other.contains pg)).updEntry sd e fun x => if rx then { x with rpins := [] } else { x with spins := [] }

/-- An armed entry whose deadline has passed enters TIMEOUT, and its completion stamp says so (R102). -/
def State.expire (s : State) (sd e : Nat) : State :=
  let x := s.entry sd e
  match x.desc with
  | some d =>
    if s.pastDeadline x then ((s.updEntry sd e fun x => { x with rst := 3 }).putStamp? d.cstamp 11 d.cseq).unpinSide sd e true else s
  | none => s

/-- An entry is armed or armed again (R96): its destination is rewritten, its counts are cleared, and a flag that is set
fires the send side. -/
def State.armEntry (s : State) (sd e : Nat) (c : Cmd) (d : ArmDesc) : State :=
  let old := s.entry sd e
  let s := s.dropPins old.pins
  let (rp, sp) := d.sidePins
  let rp := c.pages.filter fun pg => rp.contains pg
  let sp := c.pages.filter fun pg => sp.contains pg
  let x : Entry :=
    { rst := d.rx.toNat, sst := d.tx.toNat, flag := old.flag, dup := false, sat := false, asid := some c.asid, task := c.task
      desc := some d, rpins := rp, spins := sp, bitmap := 0, count := 0, armedAt := s.cyc, lines := [], sent := 0
      sendStatus := 0, vj := c.vj, tries := 0, dying := false, half := false, owed := false }
  let s := s.updEntry sd e fun _ => if d.tx && old.flag then x.fire else x
  if d.rx then (s.engWrite (.sp c.task d.dtile) (List.replicate fixedBytes 0) []).1 else s

/-- R96, R274. The k-th released command, a ctarm, arms its entry, or ends BUSY, OWNER or PLACE. -/
def execCollectiveArm (k : Nat) (s : State) : Out :=
  let s := s.pinCmd k
  .next (match s.cmds[k]? with
    | some c =>
      match c.kind with
      | .ctarm sd e d =>
        let s := if s.pinsHeld c && !s.heldBy c then s.expire sd e else s
        let x := s.entry sd e
        if !s.pinsHeld c || s.heldBy c || (d.rx && s.tentative (.sp c.task d.dtile) fixedBytes) then s
        else if x.busy then (s.armFails d 7).endCmd k true
        else if x.foreign c.asid then (s.armFails d 10).endCmd k true
        else if d.rx && stackOf (coreOf c.part) ≠ sd then (s.armFails d 13).endCmd k true
        else (s.armEntry sd e c d).endCmd k false
      | _ => s
    | none => s)

/-- R274. The k-th released command, a disarm: it waits until sending and a completion under way have ended and does nothing to another
ASID's entry. A side whose deadline has passed has timed out first (R102). -/
def execCollectiveDisarm (k : Nat) (s : State) : Out :=
  .next (match s.cmds[k]? with
    | some c =>
      match c.kind with
      | .ctarmDis sd e =>
        let s := if s.heldBy c then s else s.expire sd e
        let x := s.entry sd e
        if s.heldBy c then s
        else if x.foreign c.asid then s.endCmd k true
        else if x.sst = 2 || x.owed then s
        else (s.idleEntry sd e).endCmd k true
      | _ => s
    | none => s)

/-- R97, R275. The k-th released command, a ctset: it fires a waiting entry, or leaves the flag set. -/
def execSendFlagSet (k : Nat) (s : State) : Out :=
  .next (match s.cmds[k]? with
    | some c =>
      match c.kind with
      | .ctset sd e =>
        let x := s.entry sd e
        if s.heldBy c then s
        else if x.foreign c.asid then s.endCmd k true
        else (s.updEntry sd e fun x =>
          { (if x.sst = 1 then x.fire else { x with flag := true }) with vj := max x.vj c.vj }).endCmd k true
      | _ => s
    | none => s)

/-! ### Contributions -/

/-- Elements in one 128-byte line of a source image's data (R58, R98). -/
def lineElems (f : BitVec 4) : Nat := 1024 / elemBits f

/-- The lines of a contribution: those of the source image's data region (R98). -/
def contribLines (f : BitVec 4) : Nat := 4096 / lineElems f

/-- One element combined into the destination (R99, R203, R204); with the entry's marks. -/
def State.combine (s : State) (d : ArmDesc) (dest : Place) (e : Nat) (v : FV) (x : Entry) (spoil : Bool) : State × Entry :=
  let y := s.addInto (d.op + 1) d.anchor x.vj (dest.add (16 * e)) v spoil
  (y.2.1, { x with sat := x.sat || y.1.sat })

/-- What of a result image comes from poisoned stretches of the destination tile, by offset and length (R55, R58, R333): the elements
read out of them, the checksums of their rows and columns, and the corner. -/
def resultBad (bad : List (Nat × Nat)) : List (Nat × Nat) :=
  if bad.isEmpty then []
  else
    let es := (List.range 4096).filter fun e => meetsBad bad (16 * e) 16
    (tailStart 0 + 0x200, 4) :: es.flatMap fun e => [(4 * e, 4), (tailStart 0 + 4 * (e / 64), 4), (tailStart 0 + 0x100 + 4 * (e % 64), 4)]

/-- The completion actions of R100: the result image, the L1 lines of the consumers, and the stamp. An answer in hand is that of the home
of the result image, whose refusal the stamp tells (R268, R274). -/
def State.complete (s : State) (sd e : Nat) (d : ArmDesc) : State :=
  let x := s.entry sd e
  let g := s.engRead x.vj x.dest fixedBytes
  let es := (wordsOf 16 4096 g.bytes).map fun y => Fixed.ofBits (BitVec.ofNat 128 y)
  let rs := es.map fun y => y.readout d.anchor
  let t : TileData :=
    ({ fmt := 0, cb := false, el := rs.map Prod.fst, sc := [], csc := [], csr := [], csz := 0
       poison := !g.bad.isEmpty } : TileData).summed
  let (s, st) := match d.result with
    | some l => s.engWrite (.glob l.loc l.pol) t.image (resultBad g.bad)
    | none => (s, 0)
  let s := match d.result with
    | some l =>
      (List.range 48).foldl (fun (s : State) k =>
        if d.consumers.getLsbD k then
          s.updCore (48 * sd + k) fun c => (piecesFrom l.loc.addr 17024).foldl (fun (c : Core) (y : Nat × Nat) => c.cinvLine (l.loc.add y.1)) c
        else s) s
    | none => s
  let s := if d.result.isSome then { s with ans := none } else s
  let ovf := es.any Fixed.sat || (d.result.isSome && rs.any Prod.snd)
  let status := firstStatus (firstStatus st (if t.poison then 1 else 0)) (if ovf then 12 else 0)
  (s.putStamp? d.cstamp status d.cseq).unpinSide sd e true

/-- A line of a contribution reaches an entry (R99): stray, as it is once the deadline has passed (R102), duplicate, or combined; the
last line of the last expected contribution makes the entry ready (R100). With `hold` the entry completes later, when its result or stamp
lies outside the package, since the answer in hand is another's (R268). -/
def State.contribute (s : State) (sd e : Nat) (c : ContribLine) (hold : Bool) : State :=
  let s := s.expire sd e
  let x := s.entry sd e
  match x.desc with
  | none => s.addStray sd
  | some d =>
    if x.rst ≠ 1 then s.addStray sd
    else
      match d.peers.find? fun p => p.pkg = c.pkg && p.sd = c.sd && p.entry = c.entry with
      | none => s.addStray sd
      | some p =>
        if x.bitmap.getLsbD p.idx then s.updEntry sd e fun x => { x with dup := true }
        else
          let n := lineElems d.sfmt
          let vs := (fieldsOf (elemBits d.sfmt) n (lineBytes c.data 0 128)).map fun w => (fmtOf d.sfmt).value w.toNat
          let (s, x) := (vs.zipIdx).foldl (fun (y : State × Entry) (v, k) =>
            y.1.combine d x.dest (n * c.line + k) v y.2 c.poisoned) (s, x)
          let got := KMap.get 0 x.lines p.idx + 1
          let x := { x with lines := KMap.set x.lines p.idx got }
          if got < contribLines d.sfmt then s.updEntry sd e fun _ => x
          else
            let x := { x with bitmap := x.bitmap ||| BitVec.twoPow 64 p.idx, count := x.count + 1 }
            if x.count < d.expect then s.updEntry sd e fun _ => x
            else if hold && (x.farWrites true).any fun l => !s.localHome l then s.updEntry sd e fun _ => { x with rst := 2, owed := true }
            else (s.updEntry sd e fun _ => { x with rst := 2 }).complete sd e d

/-- R99. A contribution line arrives; it waits while a line it would change is tentative (R84). -/
def execContributionArrival (sd e : Nat) (c : ContribLine) (s : State) : Out :=
  .next (if s.tentative (s.entry sd e).dest fixedBytes && (s.entry sd e).rst = 1 then s else (s.contribute sd e c false).draw)

/-! ### Sends -/

/-- The data lines of a source image (R98). -/
def sendLines (f : BitVec 4) (bs : List Byte) : List (Nat × Line) :=
  (List.range (contribLines f)).map fun k => (k, leWord 1024 ((bs.drop (dataStart f + 128 * k)).take 128))

/-- The sending side of an entry stops with a status; peers already sent stand (R274, R333). -/
def State.stopSend (s : State) (sd e status : Nat) : State :=
  s.updEntry sd e fun x => { x with sent := 64, sendStatus := firstStatus x.sendStatus status }

/-- The port that carries a contribution to a peer (R101, R360). -/
def State.colPort (s : State) (p : Peer) : Nat := s.route p.pkg (16 + p.entry)

/-- The port that carries contributions to a peer runs a version without the COL channel, or the peer's package is out of reach (R362,
R363). -/
def State.noCol (s : State) (p : Peer) : Bool :=
  let x := KMap.get Port.down s.ports (s.colPort p)
  !s.pod.contains p.pkg || !x.up || x.ver < 2

/-- The flits of a contribution of format f (R98, R358): its lines at 232 bytes of messages a flit. -/
def contribFlits (f : BitVec 4) : Nat := (128 * contribLines f + 231) / 232

/-- The source tile goes to one peer as one contribution with its sender's identity (R98): to an entry of this package at once, or line
by line into the replay buffer of the port that carries it (R101). Within the package the lines are combined in one step in ascending
order (R62, R98; the model's choice, assumption 97). -/
def State.sendTo (s : State) (sd e : Nat) (d : ArmDesc) (p : Peer) (bs : List Byte) : State :=
  if p.pkg = s.regs.podid then
    (sendLines d.sfmt bs).foldl (fun s x =>
      s.contribute p.sd p.entry ⟨s.regs.podid, sd, e, x.1, x.2, false⟩ true) s
  else if s.noCol p then s.updEntry sd e fun x => { x with sendStatus := firstStatus x.sendStatus 4 }
  else
    let n := s.colPort p
    let ms := (sendLines d.sfmt bs).map fun x => LinkMsg.col n p.pkg p.sd p.entry ⟨s.regs.podid, sd, e, x.1, x.2, false⟩
    { s.putFlits n (contribFlits d.sfmt) with
      lmsgs := ms.reverse ++ s.lmsgs, routes := KMap.set s.routes (laneKey p.pkg (16 + p.entry)) n }

/-- A contribution can be sent to a peer: its port is not retraining and has room for it in its replay buffer (R101, R360); the channel of
contributions is never paused (R359). -/
def State.colRoom (s : State) (f : BitVec 4) (p : Peer) : Bool :=
  let x := KMap.get Port.down s.ports (s.colPort p)
  p.pkg = s.regs.podid || s.noCol p ||
    (!x.training && x.replay + contribFlits f ≤ 1024)

/-- The source image of a firing fails its verification: it is read again, at most twice, and then the walk stops with CHECK (R274, R334,
R344). -/
def State.sendFailed (s : State) (sd e : Nat) (x : Entry) : State :=
  let isl := 1200 + 2 * sd + 1
  if x.tries < 2 then (s.tileFailed isl 0x1FF 0 true).updEntry sd e fun x => { x with tries := x.tries + 1 }
  else (s.tileFailed isl 0x1FF 0 false).stopSend sd e 2

/-- The walk of a firing goes on after a peer. -/
def State.sentTo (s : State) (sd e : Nat) (p : Peer) : State :=
  s.updEntry sd e fun x => { x with sent := p.idx + 1, tries := 0, half := false }

/-- The entry of this package that a firing has completed writes its result and stamp, with the answer of their home in hand if there is one
(R100, R268), and the walk goes on. -/
def State.finishHalf (s : State) (sd e : Nat) (p : Peer) : State :=
  let y := s.entry p.sd p.entry
  let s := match y.owed, y.desc with
    | true, some d => ((s.updEntry p.sd p.entry fun y => { y with owed := false }).complete p.sd p.entry d).draw
    | _, _ => s
  s.sentTo sd e p

/-- R98. A firing sends its source tile to the next peer in ascending order; a source that carries poison, or fails its
verification, stops the walk (R274, R333, R334). The completion of an entry of this package whose result lies outside it is a step of its
own (R268). -/
def execCollectiveSend (sd e : Nat) (s : State) : Out :=
  .next (
    let x := s.entry sd e
    match x.desc with
    | none => s
    | some d =>
      match d.source, d.peers.find? fun p => x.sent ≤ p.idx with
      | some src, some p =>
        if x.sst = 2 && x.half then s.finishHalf sd e p
        else if x.sst ≠ 2 || !s.colRoom d.sfmt p || s.shut src || s.tentative src (imageSize d.sfmt) ||
            (p.pkg = s.regs.podid && s.tentative (s.entry p.sd p.entry).dest fixedBytes) then s
        else
          let (g, s) := s.engGet x.vj src (imageSize d.sfmt)
          match g.lost with
          | some st => s.stopSend sd e st
          | none =>
            if !g.bad.isEmpty then s.stopSend sd e 1
            else if !testsPass (TileData.ofImage d.sfmt false g.bytes false).tests then s.sendFailed sd e x
            else
              let s := (({ s with ans := none } : State).sendTo sd e d p g.bytes).draw
              if p.pkg = s.regs.podid && (s.entry p.sd p.entry).owed then s.updEntry sd e fun x => { x with half := true, tries := 0 }
              else s.sentTo sd e p
      | _, _ => s)

/-- R101. Every peer of a firing is locally complete: the send stamp is written, and a disarm that has waited for it takes effect (R274,
R277). -/
def execSendComplete (sd e : Nat) (s : State) : Out :=
  .next (
    let x := s.entry sd e
    match x.desc with
    | none => s
    | some d =>
      if x.sst ≠ 2 || d.peers.any fun p => x.sent ≤ p.idx then s
      else
        let s := ((s.updEntry sd e fun x => { x with sst := 3 }).putStamp? d.sstamp x.sendStatus d.sseq).unpinSide sd e false
        if x.dying then s.idleEntry sd e else s)

/-- R102. The deadline of an armed entry passes: it enters TIMEOUT and its stamp says so. -/
def execCollectiveTimeout (sd e : Nat) (s : State) : Out :=
  .next (s.expire sd e)

/-- The entries with a receive side armed into the reservation of a task are disarmed as it exits (R277): arrivals are stray from now on,
and a side that is sending is disarmed once it is SENT (R274). -/
def State.exitEntries (s : State) (id : W64) : State :=
  s.entries.foldl (fun s (key, x) =>
    if s.pastDeadline x then s
    else if x.task == id && (x.rst = 1 || x.owed) then
      if x.sst = 2 then (s.unpinSide (key / 2048) (key % 2048) true).updEntry (key / 2048) (key % 2048) fun x =>
        { x with rst := 0, owed := false, dying := true }
      else s.idleEntry (key / 2048) (key % 2048)
    else s) s

/-- The task has an armed receive destination in its reservation (R325). -/
def State.hasArmed (s : State) (id : W64) : Bool := s.entries.any fun e => e.2.task == id && (s.rstate e.2 = 1 || e.2.owed)

end Sys2Proof.Machine
end

