-- ==== Sys2Proof/Machine/Snaps.lean ====
section
/-! DEFINITION. Handle transfers (R36, R278, R279), snapshots opened, accepted and rejected (R103 to R109, R281 to R283,
R374), balances moved (R301, R313 to R315) and late faults (R377), as released commands perform. -/

namespace Sys2Proof.Machine

/-! ### Handles -/

/-- R36, R278. The k-th released command, an hgive, offers its rows, as a release of scope 2. -/
def execHandleOffer (k : Nat) (s : State) : Out :=
  .next (match s.cmds[k]? with
    | some c =>
      match c.kind with
      | .hgive h peer n r0 =>
        if s.heldAll c then s
        else
          (s.updCore (coreOf c.part) fun x =>
            { x with handles := KMap.set x.handles h (Handle.mk 1 peer 0 n r0 c.task (c.part % 4) false) }).endCmd k true
      | _ => s
    | none => s)

/-- A late fault waits for its task, wherever it stands (R377). -/
def State.lateFault (s : State) (id : W64) (f : LateFault) : State :=
  s.updTask id fun t => { t with late := t.late ++ [f] }

/-- R279. The k-th released command, an htake, binds its entry, as an acquire of scope 2; a home entry that is not offered
to this core frees it and the task takes HANDLE (R377). -/
def execHandleBind (k : Nat) (s : State) : Out :=
  .next (match s.cmds[k]? with
    | some c =>
      match c.kind with
      | .htake h peer ph =>
        let me := coreOf c.part
        let home := peerCore me peer
        if s.heldBy c then s
        else
          let s := s.endCmd k true
          match KMap.find (s.core home).handles ph with
          | some e =>
            if e.state = 1 && !e.resv && e.peer = me % 8 then
              let s := s.updCore home fun x =>
                { x with handles := KMap.set x.handles ph { e with state := 2, peer := me % 8, peerh := h } }
              let bound : Handle := Handle.mk 3 peer ph e.nrows e.baserow c.task (c.part % 4) false
              s.updCore me fun x => { x.cinv with handles := KMap.set x.handles h bound }
            else (s.dropHandle (me, h)).lateFault c.task (.handle (BitVec.ofNat 6 ph))
          | none => (s.dropHandle (me, h)).lateFault c.task (.handle (BitVec.ofNat 6 ph))
      | _ => s
    | none => s)

/-- R36, R278. The k-th released command, an hgive.ret, frees the binding and the home entry, as a release of scope 2. -/
def execHandleReturn (k : Nat) (s : State) : Out :=
  .next (match s.cmds[k]? with
    | some c =>
      match c.kind with
      | .hgiveRet h =>
        if s.heldAll c then s
        else
          let me := coreOf c.part
          let s := s.endCmd k true
          match KMap.find (s.core me).handles h with
          | some e => if e.state = 3 && e.owner == c.task then (s.dropHandle (peerCore me e.peer, e.peerh)).dropHandle (me, h) else s
          | none => s
      | _ => s
    | none => s)

/-- R36, R279. The k-th released command, an htake.wd, withdraws an offer that still stands. -/
def execHandleWithdraw (k : Nat) (s : State) : Out :=
  .next (match s.cmds[k]? with
    | some c =>
      match c.kind with
      | .htakeWd h =>
        if s.heldBy c then s
        else
          let me := coreOf c.part
          let s := s.endCmd k true
          match KMap.find (s.core me).handles h with
          | some e => if e.state = 1 && e.owner == c.task then s.dropHandle (me, h) else s
          | none => s
      | _ => s
    | none => s)

/-! ### Snapshots -/

/-- A number for a new arena, larger than every one in use. -/
def State.newArena (s : State) : Nat :=
  s.snaps.foldl (fun m e => (e.2.aid :: e.2.kept.map Prod.fst).foldl max m) 0 + 1

/-- An arena's bytes read undefined (R374). -/
def State.blurRuns (s : State) (rs : List (Nat × Nat)) : State :=
  { s with mem := rs.foldl (fun m r => m.undefine r.1 (r.2 - r.1)) s.mem }

/-- The arena of a released snap belongs to the snapshot logic from now on, under its reserved number (R374). -/
def State.claimArena (s : State) (n : Nat) (d : SnapDesc) : State :=
  match KMap.find s.snaps n with
  | some x =>
    let x' : Snap := { x with arena := d.arena, alines := d.alines, aid := s.newArena }
    ({ s with snaps := KMap.set s.snaps n x' } : State).blurRuns d.arena
  | none => s

/-- A snapshot opens at every home (R103): its range is watched from now on. -/
def State.openSnap (s : State) (n : Nat) (c : Cmd) (d : SnapDesc) (parent : Option Nat) (level : Nat) : State :=
  let aid := match KMap.find s.snaps n with | some x => if x.arena.isEmpty then s.newArena else x.aid | none => s.newArena
  let x : Snap :=
    { state := 2, asid := c.asid, parent := parent, level := level, range := d.range, arena := d.arena, alines := d.alines
      aid := aid, shadows := [], quota := [], kept := [], pins := c.pages }
  ({ s with snaps := KMap.set s.snaps n x } : State).blurRuns d.arena

/-- A reserved number is given up, and what its arena holds is undefined (R374). -/
def State.dropSnap (s : State) (n : Nat) : State :=
  match KMap.find s.snaps n with
  | some x => ({ s with snaps := KMap.del s.snaps n } : State).blurRuns x.arena
  | none => s

/-- The pins of a snapshot's stamp are released once it is written; those of its range and arena stay (R19). -/
def Cmd.splitPins (c : Cmd) (keep : List (Bool × Nat)) : List (Bool × Nat) := c.pages.filter fun pg => !keep.contains pg

/-- A released store to one of the ranges has not performed at its home here: a snapshot of that range opens after it, since a store that has
been released is refused no quota (R103, R109; assumption 70). -/
def State.storesIn (s : State) (rs : List (Nat × Nat)) : Bool :=
  s.released.any fun g => match g.loc with | .hbm a => s.isOwn a && meetsRanges rs a (a + g.data.length) | .host _ => false

/-- R103, R281. The k-th released command, a snap, as a release of scope 5: it opens, or ends NOHANDLE or ORDER. -/
def execSnapInstall (k : Nat) (s : State) : Out :=
  let s := s.pinCmd k
  .next (match s.cmds[k]? with
    | some c =>
      match c.kind with
      | .snap n d =>
        if !s.pinsHeld c || s.heldAll c || s.storesIn d.range then s
        else
          match n with
          | none => (s.putStamp? d.stamp 9 d.seq).endCmd k true
          | some n =>
            match s.nest d with
            | .error _ => ((s.dropSnap n).putStamp? d.stamp 8 d.seq).endCmd k true
            | .ok (parent, level) =>
              let keep := (runPages d.range ++ runPages d.arena).eraseDups
              let s := s.openSnap n { c with pages := keep } d parent level
              ((s.putStamp? d.stamp 0 d.seq).dropPins (c.splitPins keep)).endCmd k false
      | _ => s
    | none => s)

/-- The status a close ends with before it takes effect (R282): NOHANDLE, OWNER, ORDER; 0 when it may. -/
def State.closeStatus (s : State) (h asid : Nat) : Nat :=
  match KMap.find s.snaps h with
  | none => 9
  | some x => if x.state ≠ 2 then 9 else if x.asid ≠ asid then 10 else if !s.isInnermost h then 8 else 0

/-- An accepted snapshot (R106): with a parent, its shadows of lines the parent has not shadowed pass to it and stay in their
arenas, with the quota its commits have reserved; an arena that keeps none of them is free at once (R374). -/
def State.acceptSnap (s : State) (h : Nat) (x : Snap) : State :=
  let s := { s with snaps := KMap.del s.snaps h }
  match x.parent.bind fun q => (KMap.find s.snaps q).map fun y => (q, y) with
  | none => s.blurRuns (x.arenas.flatMap Prod.snd)
  | some (q, y) =>
    let tagged := x.shadows.filter fun e => !y.shadowed e.line
    let held := x.quota.filter fun e => !y.shadowed e.1 && !x.shadowed e.1
    let stays (a : Nat × List (Nat × Nat)) : Bool := (tagged.any fun e => e.aid = a.1) || held.any fun e => e.2 = a.1
    let y' : Snap :=
      { y with shadows := y.shadows ++ tagged, quota := y.quota ++ held, kept := y.kept ++ x.arenas.filter stays }
    ({ s with snaps := KMap.set s.snaps q y' } : State).blurRuns ((x.arenas.filter (!stays ·)).flatMap Prod.snd)

/-- A shadowed line restored (R107), a write that passes its slice (R31): no shadow is taken, and an undefined shadow writes an undefined
line (R374). -/
def State.restoreLine (s : State) (e : Shadow) : State :=
  let m := (s.mem.putImage e.line e.old).setPoison e.line e.poison
  { s with mem := if e.bad then m.undefine (128 * e.line) 128 else m, msc := s.mscHit (128 * e.line) 128 }

/-- What a commit may still take of the parent's once its snapshot is rejected, by line and arena: the quota it reserved, and the places of
shadows of lines that a released store has yet to write (R109). -/
def State.passOn (s : State) (x y : Snap) : List (Nat × Nat) :=
  (x.quota.filter fun e => !y.shadowed e.1) ++
  (x.shadows.filter fun e => !y.shadowed e.line && s.storesIn [(128 * e.line, 128 * e.line + 128)]).map fun e => (e.line, e.aid)

/-- A rejected snapshot (R107): every shadowed line is restored at one point; quota that commits hold passes on. -/
def State.rejectSnap (s : State) (h : Nat) (x : Snap) : State :=
  let s := x.shadows.foldl State.restoreLine { s with snaps := KMap.del s.snaps h }
  let s := s.blurRuns (x.arenas.flatMap Prod.snd)
  match x.parent.bind fun q => (KMap.find s.snaps q).map fun y => (q, y) with
  | none => s
  | some (q, y) =>
    let more := s.passOn x y
    let y' : Snap := { y with quota := y.quota ++ more, kept := y.kept ++ x.arenas.filter fun a => more.any fun e => e.2 = a.1 }
    { s with snaps := KMap.set s.snaps q y' }

/-- The k-th released command closes its snapshot, when R282 lets it, and writes its stamp. -/
def State.closeAt (s : State) (k : Nat) (c : Cmd) (h : Nat) (stamp : Option Spot) (seq : BitVec 56)
    (f : State → Nat → Snap → State) : State :=
  if !s.pinsHeld c || s.heldBy c then s
  else
    let st := s.closeStatus h c.asid
    match KMap.find s.snaps h with
    | some x =>
      if st = 0 then (((f s h x).dropPins x.pins).putStamp? stamp 0 seq).endCmd k true
      else (s.putStamp? stamp st seq).endCmd k true
    | none => (s.putStamp? stamp st seq).endCmd k true

/-- R106, R282. The k-th released command, a sacc, accepts its snapshot. -/
def execSnapshotAccept (k : Nat) (s : State) : Out :=
  let s := s.pinCmd k
  .next (match s.cmds[k]? with
    | some c =>
      match c.kind with
      | .sacc h st seq => s.closeAt k c h st seq State.acceptSnap
      | _ => s
    | none => s)

/-- R107, R282. The k-th released command, a srej, rejects its snapshot. -/
def execSnapshotReject (k : Nat) (s : State) : Out :=
  let s := s.pinCmd k
  .next (match s.cmds[k]? with
    | some c =>
      match c.kind with
      | .srej h st seq => (s.closeAt k c h st seq State.rejectSnap).draw
      | _ => s
    | none => s)

/-! ### Balances -/

/-- An amount added to a saved balance word of a context block (R315, R322). -/
def State.addBlock (s : State) (block off : Nat) (amt : Int) : State :=
  let x := min (s.blockBal block off + amt) (2 ^ 47 - 1)
  s.putMem (block + off) (leBytes 8 (BitVec.ofInt 64 x).toNat)

/-- An amount added to a balance of a task wherever it stands (R310, R314, R315). -/
def State.addBalance (s : State) (id : W64) (m : Bool) (amt : Int) : State :=
  match s.task id with
  | none => s
  | some t =>
    match t.st with
    | .running p =>
      s.updPart p fun P =>
        ({ P with bgi := if m then P.bgi else min (P.bgi + amt) (2 ^ 47 - 1)
                  bgm := if m then min (P.bgm + amt) (2 ^ 47 - 1) else P.bgm } : Part).balanced
    | _ =>
      let s := s.addBlock t.block (if m then 0x48 else 0x40) amt
      let inCm := match t.ctx with | some c => c.regs.cm | none => false
      if inCm && 0 ≤ s.blockBal t.block 0x40 && 0 ≤ s.blockBal t.block 0x48 then
        (s.putMem (t.block + 0x28) (leBytes 2 1024)).updTask id fun t =>
          { t with ctx := t.ctx.map fun c => { c with grace := 1024 } }
      else s

/-- A pool saturates at the ends of 64-bit signed (R313). -/
def clampPool (x : Int) : Int := max (-2 ^ 63) (min (2 ^ 63 - 1) x)

/-- An amount added to a launch's pool (R313). -/
def State.addPool (s : State) (lid : BitVec 32) (m : Bool) (amt : Int) : State :=
  s.updLaunch lid fun l =>
    if m then { l with poolM := clampPool (l.poolM + amt) } else { l with poolI := clampPool (l.poolI + amt) }

/-- One balance of a task saved as exhausted is restored from its launch's pool, when the pool covers it (R313). -/
def State.topUpOne (s : State) (t : Task) (m : Bool) (l : Launch) : State :=
  let bal := s.blockBal t.block (if m then 0x48 else 0x40)
  let need := capBudget (if m then l.record.bgm else l.record.bgi) - bal
  if bal < 0 && need ≤ (if m then l.poolM else l.poolI) then (s.addBalance t.id m need).addPool l.lid m (-need) else s

/-- A task saved with WHY 3 is topped up from its launch's pools, one balance at a time (R313). -/
def State.topUp (s : State) (id : W64) : State :=
  match s.task id with
  | none => s
  | some t =>
    if t.st ≠ .saved || t.why ≠ 3 then s
    else
      match s.launch t.lid with
      | none => s
      | some l => (s.topUpOne t false l).topUpOne t true l

/-- Every exhausted task of a launch is topped up, in the order the model lists them (R313; assumption 81). -/
def State.topUps (s : State) (lid : BitVec 32) : State :=
  (s.tasks.filter fun t => t.lid == lid).foldl (fun s t => s.topUp t.id) s

/-- An amount added to a balance of a task, and what it still lacks from its launch's pools when it is saved as exhausted (R313, R315). -/
def State.credit (s : State) (id : W64) (m : Bool) (amt : Int) : State := (s.addBalance id m amt).topUp id

/-- The address space of a task. -/
def State.asidOf (s : State) (id : W64) : Option Nat := ((s.task id).bind fun t => s.launch t.lid).map Launch.asid

/-- R301. The k-th released command, a grow, adds its tasks to the launch; what a cap turns away goes back to the issuer. -/
def execGrowApply (k : Nat) (s : State) : Out :=
  .next (match s.cmds[k]? with
    | some c =>
      match c.kind with
      | .grow n bi bm _ _ =>
        let s := s.endCmd k true
        match (s.task c.task).bind fun t => s.launch t.lid with
        | none => s
        | some l =>
          let excess : Nat := l.count + n - (2 ^ 32 - 1)
          let back (x : Int) : Int := if n = 0 then 0 else x / n * excess
          let s := s.updLaunch l.lid fun l => { l with count := min (l.count + n) (2 ^ 32 - 1) }
          if excess = 0 then s else (s.credit c.task false (back bi)).credit c.task true (back bm)
      | _ => s
    | none => s)

/-- R314. The k-th released command, a bgadd, reaches its target, or the pool of the issuer's launch. -/
def execBgaddApply (k : Nat) (s : State) : Out :=
  .next (match s.cmds[k]? with
    | some c =>
      match c.kind with
      | .bgadd target m amt sup =>
        let s := s.endCmd k true
        if (s.task target).isSome && (sup || s.asidOf target == some c.asid) then s.credit target m amt
        else if sup then s
        else
          match s.task c.task with
          | some t => (s.addPool t.lid m amt).topUps t.lid
          | none => s
      | _ => s
    | none => s)

/-! ### Late faults -/

/-- The trap a late fault is delivered as, at the address of a bundle (R317, R377). -/
def lateTrap (f : LateFault) (pc : W64) : Trap :=
  match f with
  | .shadowfull a => ⟨8, pc, a⟩
  | .poison sp a => ⟨9, pc, detailWord sp.toNat a.toNat⟩
  | .handle h => ⟨5, pc, detailWord 7 h.toNat⟩

/-- The first late fault of the task on partition p is delivered and the others are discarded (R377); an exit that waits
ends as the trap instead. A Vane mismatch of the interval is served before it (R316). -/
def State.deliverLate (s : State) (p : Nat) : State :=
  let P := s.part p
  match s.taskOn p with
  | none => s
  | some t =>
    match t.late with
    | [] => s
    | f :: _ =>
      if P.vane then s
      else
      let pc := if P.exiting.isSome then P.issA else P.regs.pc
      ((s.updTask t.id fun t => { t with late := [] }).updPart p fun P => { P with exiting := none }).trapNow p (lateTrap f pc)

/-- R377. A late fault reaches its task: a running one takes it at its next bundle boundary, and otherwise it stays pending
with the task. -/
def execRemoteFaultDelivery (taskid : BitVec 64) (cause : LateFault) (s : State) : Out :=
  .next (
    let s := s.lateFault taskid cause
    match s.runsOn taskid with
    | some p => s.deliverLate p
    | none => s)

end Sys2Proof.Machine
end

