-- ==== Sys2Proof/Machine/Commit.lean ====
section
/-! DEFINITION. The datum (R123, R124): what a partition waits for, the judgement of a rerun pair (R337), snapshot quota
(R109), the release of withheld stores and commands (R83, R271), and the settlement of stop requests (R134, R309, R310). -/

namespace Sys2Proof.Machine

/-! ### Waiting -/

/-- Pending reads of partition p that may perform do so, at most n of them (R120). -/
def State.performReady (s : State) (p : Nat) : Nat → State
  | 0 => s
  | n + 1 =>
    match (List.range (s.part p).pend.length).find? (s.pendReady p) with
    | none => s
    | some k => ((s.performPend p k).draw).performReady p n

/-- Every result of partition p still in flight lands, and time has passed to its bound (R118, R124 step 1). -/
def State.landAll (s : State) (p : Nat) : State :=
  let t := (s.part p).lastDue s.cyc
  ({ s with cyc := t }).updPart p fun P => P.land t

/-- Partition p's reads and internal operations go on as far as they can, and its results land (R124 steps 1 and 2). -/
def State.quiet (s : State) (p : Nat) : State :=
  (((s.performReady p (s.part p).pend.length).landAll p).settle p).landAll p

/-- Partition p still waits for a read or an internal operation, or an `mwait` of its interval that has not returned, unless
a stop has reached it there (R124, R261). -/
def Part.waiting (P : Part) : Bool :=
  !P.pend.isEmpty || P.busy || (P.regs.mon.isSome && P.dup.mon.isNone && !P.stopHere)

/-! ### The rerun pair -/

/-- The registers as words, for a signature (R337). -/
def regWords (r : Regs) : List W64 := words64 (ctxHead r 0 0 0 ++ ctxImages r)

/-- The outputs of the run in progress with the registers at its end (R337). -/
def Part.outputs (P : Part) : W64 := signature (P.trOut.flatMap Prod.snd ++ regWords (P.land (P.lastDue 0)).regs)

/-- The end of a run of partition p's rerun pair (R337). Run 1 ends in the restore, and run 2 begins; run 2 is compared with
it: equal inputs with another length or other outputs fail the pair, and otherwise the pair has passed and the datum may commit. -/
def State.judgeRun (s : State) (p : Nat) : State :=
  let P := s.part p
  match P.rerun with
  | none => s
  | some r =>
    let i := signature (P.trIn.flatMap Prod.snd)
    let o := P.outputs
    if r.passed then s
    else if r.run = 1 then
      ((s.rollback p).updPart p fun Q => { Q with rerun := some ⟨2, P.nb, i, o, r.cause, false⟩ }).dropSlots p
    else if r.i1 = i && (r.c1 ≠ P.nb || r.o1 ≠ o) then s.pairFailed p [] r.cause none
    else s.updPart p fun Q => { Q with rerun := some { r with passed := true } }

/-- A rerun pair that has passed ends as its closing datum commits: RR and SUS are cleared, and what started it is recorded as
cleared by the pair (R337, R344). -/
def State.endPair (s : State) (p : Nat) : State :=
  match (s.part p).rerun with
  | some r =>
    if r.passed then (s.updPart p fun Q => { Q with rerun := none, sus := false, trIn := [], trOut := [] }).logCause r.cause 2 else s
  | none => s

/-- A check that has found a fault in the interval is served (R124 step 2, R328); once the M operation of a datum has performed the
interval can only commit (R125, R342). -/
def State.serveChecks (s : State) (p : Nat) : State :=
  let P := s.part p
  if P.vane && !P.sealed then s.mismatch p 6 else s.judgeRun p

/-! ### Quota -/

/-- A line that an interval's stores ask quota for: the line, its virtual address and the snapshot (R109). -/
structure Ask where
  line : Nat
  va   : Nat
  snap : Nat
  deriving DecidableEq, Repr

/-- The lines of partition p's withheld stores that lie in an open range of this package without a shadow at its innermost
level, each once (R109). -/
def State.asks (s : State) (p : Nat) : List Ask :=
  (s.part p).sb.foldl (fun l d =>
    match d with
    | .store g =>
      match g.loc with
      | .hbm a =>
        if !s.isOwn a || l.any fun x => x.line = a / 128 then l
        else
          match s.innermost (a / 128) with
          | some (n, x) => if x.shadowed (a / 128) then l else l ++ [⟨a / 128, g.va.toNat / 128 * 128, n⟩]
          | none => l
      | .host _ => l
    | .cmd _ => l) []

/-- An arena cannot supply all that the interval asks of it (R109). -/
def State.short (s : State) (as : List Ask) (n : Nat) : Bool :=
  match KMap.find s.snaps n with
  | some x => x.alines < x.used + (as.filter fun a => a.snap = n).length
  | none => false

/-- The lowest virtual address among the refused lines; none when every arena can supply its lines (R109). -/
def State.refusedLine (s : State) (as : List Ask) : Option Nat :=
  ((as.filter fun a => s.short as a.snap).map Ask.va).min?

/-- Quota taken for the lines of a commit (R109). -/
def State.reserve (s : State) (as : List Ask) : State :=
  { s with snaps := s.snaps.map fun e =>
      (e.1, { e.2 with quota := e.2.quota ++ (as.filter fun a => a.snap = e.1).map fun a => (a.line, e.2.aid) }) }

/-! ### Release -/

/-- A store released in pieces (R73, R83). -/
def State.releaseStore (s : State) (g : GStore) : State :=
  (g.loc.pieces g.data.length).foldl (fun s (o, n) =>
    { s with rseq := s.rseq + 1
             released := s.released ++
               [{ g with loc := g.loc.add o, data := (g.data.drop o).take n, va := g.va + BitVec.ofNat 64 o, seq := s.rseq }] }) s

/-- The ring slots a copy names as destinations, in the order of its runs. -/
def CopyDesc.ringSlots (d : CopyDesc) : List (Nat × Nat) :=
  d.runs.filterMap fun r => match r.2 with | .slot _ q i => some (q, i) | _ => none

/-- The slot of a ring that a copy may reserve: the tail, free, and large enough (R271). -/
def Ring.takes (r : Ring) (f : BitVec 4) (i : Nat) : Bool :=
  0 < r.nslots && r.tail = i && (KMap.find r.slots i).isNone && slotNeed f ≤ slotBytes r.sz

/-- Slots reserved one after another for a copy of the task on partition p (R271); none when one of them is not the tail or
is too small. -/
def State.reserveSlots (s : State) (p : Nat) (d : CopyDesc) : List (Nat × Nat) → Option State
  | [] => some s
  | (q, i) :: xs =>
    let r := s.ring p q
    if !r.takes d.dfmt i then none
    else
      (s.updRing p q fun r =>
        { r with slots := KMap.set r.slots i ⟨blankTile d.dfmt d.cb false, false, true⟩, tail := r.after r.tail }).reserveSlots
        p d xs

/-- An engine command released (R83): it takes its number, its pins when it can (R19), a copy its ring slots (R271), and a snap its
arena (R374). -/
def State.releaseCmd (s : State) (p : Nat) (c : Cmd) : State :=
  let c := { c with seq := s.rseq }
  let add (s : State) (c : Cmd) : State :=
    ({ s with rseq := s.rseq + 1, cmds := s.cmds ++ [c] } : State).pinCmd s.cmds.length
  match c.kind with
  | .snap (some n) d => add (s.claimArena n d) c
  | .copy d _ _ =>
    if d.ringSlots.isEmpty then add s c
    else
      match s.reserveSlots p d d.ringSlots with
      | some s' => add s' { c with slots := d.ringSlots }
      | none => add s { c with status := 6, done := true }
  | _ => add s c

/-- A withheld `trig`: it is released after every store of its commit (R302). -/
def Deferred.isTrig : Deferred → Bool
  | .cmd c => match c.kind with | .trig .. => true | _ => false
  | .store _ => false

/-- One withheld entry released. -/
def State.release (s : State) (p : Nat) : Deferred → State
  | .store g => s.releaseStore g
  | .cmd c => s.releaseCmd p c

/-! ### The commit -/

/-- A commit discards the stationary buffer that is not current (R224). -/
def Stat.settle (x : Stat) : Stat :=
  match x.cur with
  | none => Stat.empty
  | some b => if b then { x with b0 := none, loaded := false } else { x with b1 := none, loaded := false }

/-- The latch takes every value written (R227). -/
def Regs.latchAll (r : Regs) : Regs :=
  match r.fmtq.getLast? with
  | some (a, b, w, _) => { r with fa := a, fb := b, w := w, fmtq := [] }
  | none => r

/-- The registers are copied into the duplicate set (R124 step 4), with what poison they hold (R331). -/
def Part.copyRegs (P : Part) : Part :=
  let r := P.regs.latchAll
  { P with regs := r, dup := r, dpoison := P.rpoison, sealed := false, lastRestore := false, yieldD := P.yielding }

/-- A register bank that waits is evacuated (R42). -/
def State.moveBank (s : State) (p : Nat) : State :=
  match (s.part p).bank with
  | none => s
  | some (i, _) =>
    (s.setChart (coreOf p) i fun e => { e with state := 2, logical := 0x7F }).updPart p fun P => { P with bank := none }

/-- A register bank is evacuated at the datum unless a pre-emption is pending; the context save and the next restore then
move it (R42). -/
def State.moveBankAt (s : State) (p : Nat) : State := if (s.part p).preempt then s else s.moveBank p

/-- The views of partition p's reservation as a datum leaves them: none tentative. What a vjoin of the partition has joined is forgotten,
but where a command that issued before the vjoin is under way, and in rows offered or lent, whose borrower joins them by itself (R23,
R264; assumption 79). -/
def State.settleViews (s : State) (p : Nat) : State :=
  s.updRes p fun r => { r with views := r.views.map fun e => { e with tent := false, base := e.old } }

/-- Steps 3 to 7 of R124, with the resume address in the program counter. -/
def State.conclude (s : State) (p : Nat) : State :=
  let as := s.asks p
  match s.refusedLine as with
  | some va => s.trap p ⟨8, (s.part p).issA, BitVec.ofNat 64 va⟩
  | none =>
    let s := (s.reserve as).updPart p Part.copyRegs
    let s := s.updRes p fun r => { r with rings := r.rings.map fun e => (e.1, e.2.settle), stat := r.stat.settle }
    let ds := (s.part p).sb
    let s := ((ds.filter fun d => !d.isTrig) ++ ds.filter Deferred.isTrig).foldl (fun s d => s.release p d) (s.endPair p)
    let s := s.settleViews p
    let r := s.res p
    (s.updPart p fun P =>
      { P with sb := [], sbn := 0, journal := [], remaps := [], ringsD := r.rings, statD := r.stat, nb := 0, reread := []
               datumAfter := false, waitAll := false }).moveBankAt p

/-- An attempt of partition p to commit (R124): the state it leaves, and whether the commit has completed. -/
def State.commit (s : State) (p : Nat) : State × Bool :=
  let rb := (s.part p).rb
  let s := s.quiet p
  if (s.part p).rb ≠ rb || (s.part p).waiting then (s, false)
  else
    let s := s.serveChecks p
    if (s.part p).rb ≠ rb then (s, false)
    else
      let s := s.conclude p
      (s, (s.part p).rb = rb)

/-! ### Stops -/

/-- The loops as they stood before a continuation, put back by `yield` in continuation mode (R311). -/
def Regs.leaveCm (r : Regs) : Regs :=
  { r with cm := false, pc := r.parkedPc, loops := r.parked, parkedPc := 0, parked := [] }

/-- Entry into continuation mode (R310). -/
def Regs.enterCm (r : Regs) : Regs :=
  { r with s := setNth r.s 30 r.pc, parkedPc := r.pc, parked := r.loops, pc := r.cont, cont := 0, cm := true, loops := [] }

/-- Registers and their copy changed together at a datum. -/
def Part.atDatum (P : Part) (f : Regs → Regs) : Part := { P with regs := f P.regs, dup := f P.regs }

/-- Continuation mode begins on the partition (R310): s30 and CONT are written, in the Vane copy too (R329). -/
def Part.beginCm (P : Part) : Part :=
  let old (r : RegBank) : Bool := r = .ctl (.s 30) || r = .ctl .cont
  { P.atDatum Regs.enterCm with
    grace := 1024, vdiff := P.vdiff.filter fun d => d.1 ≠ .s 30 && d.1 ≠ .cont
    rpoison := P.rpoison.filter (!old ·), dpoison := P.dpoison.filter (!old ·) }

/-- The stop is over: no request is pending. A loop that has been held keeps its drain (R134; assumption 64). -/
def Part.stopped (P : Part) : Part :=
  { P with preempt := false, relocate := none, yielding := false, yieldD := false, stopAt := none, stopHere := false, stopAny := false }

/-- A latch with both balances at zero or above clears (R309 step 1). -/
def Part.clearLatches (P : Part) : Part :=
  if 0 ≤ P.bgi && 0 ≤ P.bgm then { P with exh := false, gl := false } else P

/-- A running task leaves its core at a datum: with the record of R375 and its images in the pool (R45), or with OVERCAP when it is one
that is not relocated (R46, R379). -/
def State.relocateHere (s : State) (p reg : Nat) : State :=
  match s.taskOn p with
  | none => s
  | some t =>
    match s.keptBy t with
    | none => ((s.moveOff p t reg).writeImages t).updTask t.id fun t => { t with core := none }
    | some r => (s.overcap t r reg).freeResources t.id

/-- The context is saved as exhausted, and topped up when the pools cover it (R309, R313). -/
def State.saveSpent (s : State) (p : Nat) : State :=
  match (s.part p).task with
  | some id => (s.save p 3).topUp id
  | none => s

/-- R309. Every stop request pending at the datum just committed is settled; a poisoned CONT is consumed as it is tested (R332). -/
def State.settleStop (s : State) (p : Nat) : State :=
  let P := s.part p
  let cm := P.regs.cm
  let s := s.updPart p fun P =>
    (if P.yielding && cm then P.atDatum Regs.leaveCm else P).clearLatches
  let P := s.part p
  match P.relocate with
  | some reg => s.relocateHere p reg
  | none =>
    if P.preempt then s.save p 1
    else if P.exh && !cm then
      if P.rpoison.contains (.ctl .cont) then s.rollback p
      else if P.regs.cont ≠ 0 then s.updPart p fun P => P.stopped.beginCm
      else s.saveSpent p
    else if P.gl then s.saveSpent p
    else if P.yielding then s.save p 2
    else s.updPart p Part.stopped

/-- A stop request takes effect at the datum just committed: a loop has drained for it, it met an `mwait`, it was raised with no loop
active, or none is active now (R134, R185, R261). -/
def Part.stopsHere (P : Part) : Bool :=
  P.stopAt.isSome && (P.stopHere || P.stopOpen || (P.yielding && P.regs.cm)) && P.exiting.isNone

/-- The datum of partition p: the commit, and the stop it serves (R124, R134, R309). -/
def State.datum (s : State) (p : Nat) : State :=
  let (s, ok) := s.commit p
  if !ok then s
  else if (s.part p).stopsHere then s.settleStop p
  else s.updPart p fun P => { P with stopHere := false }

/-- Partition p gives up the stop it cannot reach a datum for: it rolls back and stops at its last datum (R134 step 3,
R337). -/
def State.abandon (s : State) (p : Nat) : State := (s.leave p fun s => s.settleStop p).dropSlots p

end Sys2Proof.Machine
end

