-- ==== Sys2Proof/Machine/Queues.lean ====
section
/-! DEFINITION. Queues and records: Meridian's accesses (R286), the queue block (R287), the rings (R288, R289), the task record
(R290, R291), waits (R292), completion stamps (R378) and `enq` (R300). -/

namespace Sys2Proof.Machine

/-! ### Queue state -/

/-- Meridian's own state of a queue. -/
def State.queue (s : State) (q : Nat) : QueueSt := KMap.get ⟨0, 0, 0, 0, false⟩ s.queues q

/-- Meridian's own state of a queue changed. -/
def State.updQueue (s : State) (q : Nat) (f : QueueSt → QueueSt) : State :=
  { s with queues := KMap.set s.queues q (f (s.queue q)) }

/-- ERR of a queue is set: it stops, and QERR is raised (R286, R354). -/
def State.queueErr (s : State) (q : Nat) : State :=
  ({ s with regs := { s.regs with qctl := KMap.set s.regs.qctl q (s.qctl q ||| BitVec.twoPow 64 61) } } : State).raise 1

/-! ### Meridian's accesses -/

/-- Meridian writes bytes for an address space (R286); none when it cannot, a line that needs a shadow for which the arena has no room
included (R104, R109; assumption 76). -/
def State.mWrite (s : State) (asid va : Nat) (bs : List Byte) : Option State :=
  match s.xlateMeridian asid .store va bs.length with
  | .error _ => none
  | .ok l => if !s.reachable l then none else (s.sent l fun a => .write a bs false).writeBy l bs

/-- Meridian may write n bytes, or read them as well: a read needs RD and no poison, a write WR (R286, R300). -/
def State.mAble (s : State) (reads : Bool) (asid va n : Nat) : Bool :=
  match s.xlateMeridian asid ⟨reads, true, false, false⟩ va n with
  | .error _ => false
  | .ok l => s.reachable l && !(reads && s.poisonedAt l n)

/-- A word of the queue block written by Meridian as a release of scope 5 (R287); one it cannot write sets ERR. -/
def State.blockWrite (s : State) (q off x : Nat) : State :=
  match s.mWrite (s.qAsid q) (s.qBlock q + off) (leBytes 8 x) with
  | some s => s
  | none => s.queueErr q

/-- HEAD of a queue advances (R287). -/
def State.setHead (s : State) (q h : Nat) : State :=
  (s.updQueue q fun x => { x with head := h }).blockWrite q 0x40 h

/-- The lowest ticket of a queue among some of its launches, or its head when there is none (R287, R299). -/
def State.lowTicket (s : State) (q : Nat) (f : Launch → Bool) : Nat :=
  (((s.launches.filter fun l => l.q == some q && f l).map Launch.ticket).foldl min (s.queue q).head)

/-- TDONE and CDONE advance over each run of triggered or completed tickets (R287, R299). -/
def State.watermarks (s : State) (q : Nat) : State :=
  let old := s.queue q
  let t := max old.tdone (s.lowTicket q fun l => !l.triggered)
  let c := max old.cdone (s.lowTicket q fun _ => true)
  let s := s.updQueue q fun x => { x with tdone := t, cdone := c }
  let s := if t = old.tdone then s else s.blockWrite q 0x48 t
  if c = old.cdone then s else s.blockWrite q 0x50 c

/-! ### The record -/

/-- The fields of a record (R290). -/
def Rec.ofBytes (bs : List Byte) : Rec :=
  let w0 := descW bs 0x00
  let w1 := descW bs 0x08
  let w2 := descW bs 0x10
  let w3 := descW bs 0x18
  let w4 := descW bs 0x20
  let w5 := descW bs 0x28
  let w7 := descW bs 0x38
  { ver := bitsAt w0.toNat 56 8, cls := bitsAt w0.toNat 52 2, prio := bitsAt w0.toNat 49 3
    routine := BitVec.ofNat 64 (base128 (w0.extractLsb' 0 49))
    sprows := bitsAt w1.toNat 53 11, sup := w1.getLsbD 52, noreloc := w1.getLsbD 51, snap := w1.getLsbD 50
    topup := w1.getLsbD 49, args := BitVec.ofNat 64 (base128 (w1.extractLsb' 0 49))
    nx := bitsAt w2.toNat 48 16 + 1, ny := bitsAt w3.toNat 0 16 + 1
    x0 := bitsAt w2.toNat 0 16, y0 := bitsAt w2.toNat 16 16, z0 := bitsAt w2.toNat 32 16
    tsu := bitsAt w3.toNat 56 7, place := w3.extractLsb' 48 8, count := bitsAt w3.toNat 16 32
    rings := w4.extractLsb' 48 16, bgi := bitsAt w4.toNat 0 48
    wk1 := bitsAt w5.toNat 50 2, wk0 := bitsAt w5.toNat 48 2, bgm := bitsAt w5.toNat 0 48
    tiles := descW bs 0x30, parts := bitsAt w7.toNat 53 11
    cstamp := ((w7.extractLsb' 0 53) ++ (0#3)).signExtend 64 }

/-- The record's stamp address as R290 makes it: bits 55:3 with bits 63:56 copies of bit 55. -/
def Rec.stampVa (r : Rec) : Nat := r.cstamp.toNat

/-- A reserved bit of the record is set (R290, R291). -/
def recReserved (bs : List Byte) : Bool :=
  (descW bs 0x00).extractLsb' 54 2 != 0 || (descW bs 0x18).getLsbD 63 || (descW bs 0x28).extractLsb' 52 12 != 0

/-- PARTS agrees with CLASS (R290, R291). -/
def Rec.partsOk (r : Rec) : Bool := if r.cls = 2 then 1 ≤ r.parts && r.parts ≤ 1536 else r.parts = 0

/-- The SV9 accepts a record from queue q (R291, R364). -/
def State.recOk (s : State) (q : Nat) (r : Rec) (bs : List Byte) : Bool :=
  let feat1 : W64 := nth 0 s.regs.featacc 1
  (r.ver = 2 || (r.ver = 3 && feat1.getLsbD 0)) && !recReserved bs &&
  !(r.ver = 2 && (r.snap || r.topup || r.cls = 2)) && r.cls ≠ 3 && (r.cls ≠ 2 || feat1.getLsbD 1) && r.partsOk &&
  r.sprows ≤ 1024 && r.tsu ≤ 64 && (!r.sup || (s.queue q).sup)

/-! ### Completion stamps -/

/-- A completion stamp is delivered (R291, R378): written through the current generation, or by a notice with STAMP raised. -/
def State.completionStamp (s : State) (r : Rec) (lid : BitVec 32) (asid ticket status : Nat) : State :=
  if r.cstamp = 0 then s
  else
    let written :=
      if (s.curGen asid).1.bad then none
      else s.mWrite asid r.stampVa (leBytes 8 (stampValue status (BitVec.ofNat 56 ticket)).toNat)
    match written with
    | some s => s
    | none =>
      let (s, ok) := s.ringWrite s.regs.htrapq
        [BitVec.ofNat 64 (lid.toNat * 2 ^ 32), r.cstamp, BitVec.ofNat 64 (2 ^ 9 + status), BitVec.ofNat 64 asid]
      if ok then s.raise 6 else s

/-! ### Waits -/

/-- The word of a stamp meets a target (R259, R292). -/
def stampMet (x target : Nat) : Bool := x.testBit 63 || target % 2 ^ 56 ≤ x % 2 ^ 56

/-- Wait w of a record, read at admission (R292); none when the launch ends with WAITERR. -/
def State.readWait (s : State) (asid : Nat) (r : Rec) (w : Nat) : Option Wait :=
  let k := if w = 0 then r.wk0 else r.wk1
  if k = 0 then some ⟨0, 0, 0, true⟩
  else
    match s.mRead asid (r.args.toNat + 16 * w) 16 with
    | none => none
    | some bs =>
      let a := descW bs 0
      if k = 1 && (a.toNat % 8 ≠ 0 || (s.mRead asid a.toNat 8).isNone) then none
      else some ⟨k, a, descW bs 8, false⟩

/-- What Meridian reads of a record's waits at admission (R292). -/
def State.waitReads (s : State) (asid : Nat) (r : Rec) : List (Nat × Nat) :=
  [(0, r.wk0), (1, r.wk1)].flatMap fun x =>
    if x.2 = 0 then []
    else
      let at_ := r.args.toNat + 16 * x.1
      (at_, 16) :: match s.mRead asid at_ 16 with
        | some bs => if x.2 = 1 && (descW bs 0).toNat % 8 = 0 then [((descW bs 0).toNat, 8)] else []
        | none => []

/-- The condition of a wait on a queue holds now (R292). -/
def State.waitHolds (s : State) (w : Wait) : Bool :=
  match w.kind with
  | 0 => true
  | 2 => w.b.toNat < (s.queue (w.a.toNat % 4096)).tdone
  | _ => w.b.toNat < (s.queue (w.a.toNat % 4096)).cdone

/-! ### enq -/

/-- The publication of R300, with the queue's operands checked: the state, and the result. -/
def State.publish (s : State) (q : Nat) (bs : List Byte) : State × W64 :=
  let asid := s.qAsid q
  let blk := s.qBlock q
  if !s.qOn q || s.qBytes q || asid ≠ s.asidOn s.focus then (s, -2)
  else if !s.mAble true asid blk 128 then (s.queueErr q, -2)
  else
    let s := s.mAsk asid [(blk, 8), (blk + 0x40, 8)]
    match s.mWord asid blk, s.mWord asid (blk + 0x40) with
    | some t, some h =>
      let n := s.qSize q
      if n ≤ (t + 2 ^ 64 - h) % 2 ^ 64 then (s, -1)
      else
        let k := t % n
        let seq := blk + 0x80 + 8 * k
        let sent : Option State :=
          if !s.mAble false asid (s.qRing q + 64 * k) 64 || !s.mAble false asid seq 8 then none
          else
            match s.mWrite asid blk (leBytes 8 (t + 1)) with
            | none => none
            | some s =>
              match s.mWrite asid (s.qRing q + 64 * k) bs with
              | none => none
              | some s => s.mWrite asid seq (leBytes 8 t)
        match sent with
        | none => (s.queueErr q, -2)
        | some s =>
          let r := Rec.ofBytes bs
          (s.updMe fun P => P.debit (r.count * (capBudget r.bgi).toNat) (r.count * (capBudget r.bgm).toNat), BitVec.ofNat 64 t)
    | _, _ => (s.queueErr q, -2)

/-- R300. Publish the record at scratchpad offset s[a] into queue s[b]; s[a] := the ticket, -1 or -2. The bundle has waited
for the task's released stores, as its release does. -/
def execEnq (a b : BitVec 5) (g : BitVec 5) (s : State) : Out :=
  guarded g s fun s =>
    let self := Instr.enq a b g
    let q := (s.rdS 1 b).toNat
    if 4096 ≤ q then s.illegalM 5 self
    else
      s.withDesc (s.rdS 0 a) 64 6 fun s bs =>
        if (Rec.ofBytes bs).sup && !s.isSup s.focus then
          s.trapHere 2 (BitVec.ofNat 64 (4 * 2 ^ 53 + (match encode self with | some (w, _) => w | none => 0).toNat))
        else
          let (s, x) := s.publish q bs
          (s.noteOut s.focus (words64 bs)).answer a x

end Sys2Proof.Machine
end

