-- ==== Sys2Proof/Machine/Launches.lean ====
section
/-! DEFINITION. The life of a launch and the end of a task: triggers and completion (R299), the end of an `exit`, a `halt` or a
`tret` (R303, R304, R320), `trig` as it is applied (R302), and the quiesce word (R304). -/

namespace Sys2Proof.Machine

/-! ### Triggers and completion -/

/-- The generation of a launch that has completed: it is given up with the last launch under it, unless it is bad (R13, R18). -/
def State.dropGen (s : State) (asid g : Nat) : State :=
  if s.launches.any fun l => l.asid = asid && l.gen = g then s
  else { s with gens := s.gens.filter fun x => x.asid ≠ asid || x.gen ≠ g || x.bad }

/-- A launch ends: its stamp with a status, its generation, its reservation and its pools are gone (R18, R297, R299, R313). -/
def State.endLaunch (s : State) (l : Launch) (status : Nat) : State :=
  let s := { s with launches := s.launches.filter fun x => x.lid != l.lid }
  let s := (s.completionStamp l.record l.lid l.asid l.ticket status).dropGen l.asid l.gen
  match l.q with
  | some q => s.watermarks q
  | none => s

/-- Every counted task of the launch has triggered or exited: it triggers; every one has exited: it completes (R299). -/
def State.settleLaunch (s : State) (lid : BitVec 32) : State :=
  match s.launch lid with
  | none => s
  | some l =>
    let fires := !l.triggered && l.ready && l.trigd.length = l.count
    let s := if fires then s.updLaunch lid fun l => { l with triggered := true } else s
    if l.ready && l.exited = l.count then s.endLaunch { l with triggered := true } 0
    else
      match l.q with
      | some q => if fires then s.watermarks q else s
      | none => s

/-- A task counts for the trigger, once (R299). -/
def State.countTrig (s : State) (lid : BitVec 32) (idx : Nat) : State :=
  s.updLaunch lid fun l => { l with trigd := if l.trigd.contains idx then l.trigd else idx :: l.trigd }

/-- The first released `trig` whose task has no earlier released store that has not performed (R302). -/
def State.trigDue (s : State) : Option Nat :=
  s.cmds.findIdx? fun c => c.kind = .trig && !s.heldAll c

/-- Released `trig`s whose stores have all performed are applied in order, at most n of them (R299, R302). -/
def State.applyTrigs (s : State) : Nat → State
  | 0 => s
  | n + 1 =>
    match s.trigDue with
    | none => s
    | some k =>
      match s.cmds[k]? with
      | none => s
      | some c =>
        let s := s.endCmd k false
        (match s.task c.task with
          | some t => (s.countTrig t.lid t.idx).settleLaunch t.lid
          | none => s).applyTrigs n

/-- Every `trig` that is due is applied. -/
def State.trigs (s : State) : State := s.applyTrigs s.cmds.length

/-! ### The end of a task -/

/-- A place lies in a row that a task has offered or lent (R35, R37). -/
def State.lentPlace (s : State) (id : W64) : Place → Bool
  | .sp t off =>
    t == id && match (s.task id).bind Task.core with
      | some c => ((s.core c).lentRow id (off / 4096) 1).isSome
      | none => false
  | _ => false

/-- A released store or an engine command of the task has not performed (R303), nor a copy that names an entry the task has offered or
lent (R37). -/
def State.owes (s : State) (id : W64) : Bool :=
  (s.released.any fun g => g.task == id) ||
  s.cmds.any fun c =>
    c.task == id ||
    match c.kind with
    | .copy d _ _ => d.runs.any fun r => s.lentPlace id r.1 || s.lentPlace id r.2
    | _ => false

/-- The last actions of R303: entries disarmed, handles freed, balances to the pool, the exit counted, and everything the task
held given back. -/
def State.finishTask (s : State) (t : Task) (bgi bgm : Int) : State :=
  let s := (s.exitEntries t.id).freeHandles t.id
  let s := (s.addPool t.lid false bgi).addPool t.lid true bgm
  let s := s.poolFree (t.images ++ s.blockUnits t.block)
  let s := { s with tasks := s.tasks.filter fun u => u.id != t.id }
  (((s.countTrig t.lid t.idx).updLaunch t.lid fun l => { l with exited := l.exited + 1 }).topUps t.lid).settleLaunch t.lid

/-- A terminated task ends when nothing it has released is left (R303, R320); a rerun pair that it leaves open is recorded (R344). -/
def State.finishEnding (s : State) (t : Task) : State :=
  if s.owes t.id then s else (s.logLeft t).finishTask t (s.blockBal t.block 0x40) (s.blockBal t.block 0x48)

/-- Every terminated task that can end does. -/
def State.finishEndings (s : State) : State :=
  (s.tasks.filter fun t => t.st = .ending).foldl State.finishEnding s

/-- ACT of TCTL applied to a trapped task (R320): resume, terminate, or leave it and report to the host. -/
def State.applyAct (s : State) (id : W64) : State :=
  match s.task id with
  | none => s
  | some t =>
    if t.st ≠ .trapped then s
    else
      let act := s.getMem (t.block + 0x20) 8 % 4
      if act = 0 then s.updTask id fun t => { t with st := .saved }
      else if act = 1 then (s.updTask id fun t => { t with st := .ending, late := [] }).finishEndings
      else s.notice id t.block (2 ^ 8 + t.cause) (match s.launch t.lid with | some l => l.asid | none => 0)

/-- An engine command issued from a core, withheld or released, has not completed (R304). -/
def State.coreOwes (s : State) (c : Nat) : Bool :=
  (s.cmds.any fun x => coreOf x.part = c) ||
  (List.range 4).any fun k => (s.part (4 * c + k)).sb.any fun d => match d with | .cmd _ => true | .store _ => false

/-- What keeps the exit on partition p from retiring: its task's stores and commands, and for `halt` every command issued from
the core (R303, R304). -/
def State.exitWaits (s : State) (p kind : Nat) : Bool :=
  s.owes ((s.part p).task.getD 0) || (kind = 1 && s.coreOwes (coreOf p))

/-- The exit (0), halt (1) or tret (2) on partition p retires (R303, R304, R320); it waits while `exitWaits` holds. -/
def State.retireExit (s : State) (p : Nat) : State :=
  match s.taskOn p, s.launchOn p, (s.part p).exiting with
  | some t, some l, some k =>
    if s.exitWaits p k then { s with cyc := s.cyc + 1 }
    else
      let P := s.part p
      let s := (s.updPart p Part.freed).finishTask t P.bgi P.bgm
      let s := if k = 1 then s.updCore (coreOf p) fun c => { c with halted := true } else s
      match l.serves with
      | some id => if k = 2 then s.applyAct id else s
      | none => s
  | _, _, _ => s

/-- A task of the bundle in issue ends at the commit of its interval (R303). -/
def Part.exits (P : Part) (kind : Nat) : Part := { P with exiting := some kind, datumAfter := true }

/-- R303. End the task: its interval commits after the bundle, and the rest follows as `retireExit` says. -/
def execExit (g : BitVec 5) (s : State) : Out :=
  guarded g s fun s => s.updMe fun P => P.exits 0

/-- R304. Quiesce the core: it takes no more tasks from now on, and the task exits. -/
def execHalt (g : BitVec 5) (s : State) : Out :=
  guarded g s fun s => (s.updCore (coreOf s.focus) fun c => { c with accepting := false }).updMe fun P => P.exits 1

/-- R320. End a service task; ACT is then applied to the task it serves. -/
def execTret (g : BitVec 5) (s : State) : Out :=
  guarded g s fun s => s.updMe fun P => P.exits 2

/-! ### Quiesce -/

/-- A partition of the core runs a task. -/
def State.coreRuns (s : State) (c : Nat) : Bool := (List.range 4).any fun p => (s.part (4 * c + p)).task.isSome

/-- The halt line of a core (R304): a core with no partition in service, or a quarantined one, counts as high. -/
def State.haltLine (s : State) (c : Nat) : Bool :=
  ((s.core c).halted && !s.coreRuns c) || (s.core c).quar || !(List.range 4).any fun p => s.inService c p

/-- The output of the AND tree over the 384 cores (R304). -/
def State.quiet384 (s : State) : Bool := (List.range 384).all s.haltLine

/-- The quiesce word is written and QUI raised (R304, R354). -/
def State.quiesceWrite (s : State) : State :=
  let s := { s with quiesces := s.quiesces + 1 }
  if s.regs.quiesce.getLsbD 63 then
    ((s.writeBy (.hbm (s.own ((s.regs.quiesce.extractLsb' 3 36).toNat * 8)))
      (leBytes 8 (stampValue 0 (BitVec.ofNat 56 s.quiesces)).toNat)).getD s).raise 2
  else s

/-- What follows a step from `s`: `trig`s that are due are applied (R302), and the quiesce word is written when the tree's output
has risen (R304). -/
def State.afterStep (s s' : State) : State :=
  let s' := s'.trigs
  if s'.quiet384 && !s.quiet384 then s'.quiesceWrite else s'

end Sys2Proof.Machine
end

