-- ==== Sys2Proof/Machine/Meridian.lean ====
section
/-! DEFINITION. Meridian: where a task fits (R294), eviction (R325), the start of a task (R295) and its return (R135, R309),
dispatch (R296, R297), pre-emption (R298) and admission (R293, R326). -/

namespace Sys2Proof.Machine

/-! ### Room on a core -/

/-- What some tasks and the reserved places of class-2 launches take of a core: rows, units, tiles and rings. -/
structure Load where
  rows  : Nat
  units : Nat
  tiles : Nat
  rings : Nat
  deriving DecidableEq, Repr

/-- The reservation of a record, n times. -/
def Rec.load (r : Rec) (n : Nat) : Load := ⟨n * r.sprows, n * r.tsu, n * popcount r.tiles, n * popcount r.rings⟩

/-- Two loads together. -/
def Load.add (x y : Load) : Load := ⟨x.rows + y.rows, x.units + y.units, x.tiles + y.tiles, x.rings + y.rings⟩

/-- What the tasks resident on a core take, without those named. -/
def State.taken (s : State) (c : Nat) (out : List W64) : Load :=
  ((s.residents c).filter fun t => !out.contains t.id).foldl (fun x t => x.add ((s.recOf t).load 1)) ⟨0, 0, 0, 0⟩

/-- What class-2 launches other than `lid` hold on a core for indices they have not dispatched there (R297). -/
def State.heldFor (s : State) (c : Nat) (lid : BitVec 32) : Load :=
  s.launches.foldl (fun x l =>
    if l.lid == lid then x
    else
      let n := (l.reserved.filter fun p => coreOf p = c).length - ((s.residents c).filter fun t => t.lid == l.lid).length
      x.add (l.record.load n)) ⟨0, 0, 0, 0⟩

/-- A load is within the capacity of a core (R294). -/
def State.within (s : State) (c : Nat) (x : Load) : Bool :=
  x.rows ≤ s.capRows c && x.units ≤ s.capUnits c && x.tiles ≤ s.capTiles c && x.rings ≤ 16

/-- A core has room for n more tasks of a record once the tasks named have gone (R294). -/
def State.room (s : State) (c : Nat) (r : Rec) (lid : BitVec 32) (n : Nat) (out : List W64) : Bool :=
  s.within c (((s.taken c out).add (s.heldFor c lid)).add (r.load n))

/-- The stack domain of a core is in PLACE (R290). -/
def Rec.placed (r : Rec) (c : Nat) : Bool := r.place = 0 || r.place.getLsbD (stackOf c)

/-- The matrix engine a record needs is usable (R29, R294). -/
def State.engineOk (s : State) (c : Nat) (r : Rec) : Bool := (r.rings = 0 && r.tiles = 0) || s.capMx c

/-- Some partition of the core is in service (R25). -/
def State.coreServes (s : State) (c : Nat) : Bool := (List.range 4).any fun p => s.inService c p

/-- The reservation fits the capacity of some in-service core of the placement, whatever else stands there (R46, R293). -/
def State.fitsAnywhere (s : State) (r : Rec) : Bool :=
  (List.range 384).any fun c => r.placed c && s.coreServes c && s.engineOk c r && s.within c (r.load 1)

/-! ### Window slots -/

/-- The generations that tasks resident on a core use. -/
def State.gensOn (s : State) (c : Nat) : List (Nat × Nat) :=
  ((s.residents c).filterMap fun t => (s.launch t.lid).map fun l => (l.asid, l.gen)).eraseDups

/-- The core holds the generation of a launch (R18). -/
def State.holdsGen (s : State) (c : Nat) (l : Launch) : Bool := (s.core c).slots.contains (l.asid, l.gen)

/-- The core holds the generation, or has a window slot that no resident task uses (R18, R294). -/
def State.slotOk (s : State) (c : Nat) (l : Launch) : Bool :=
  s.holdsGen c l || ((s.core c).slots.filter fun g => (s.gensOn c).contains g).length < 4

/-- The generation is loaded into a window slot of the core (R18). -/
def State.loadGen (s : State) (c : Nat) (l : Launch) : State :=
  if s.holdsGen c l then s
  else
    let used := s.gensOn c
    s.updCore c fun x =>
      let keep := if x.slots.length < 4 then x.slots
        else match x.slots.find? fun g => !used.contains g with
          | some g => x.slots.erase g
          | none => x.slots
      { x with slots := keep ++ [(l.asid, l.gen)] }

/-- A core may take a task of the launch, room apart (R294, R338). -/
def State.coreOpen (s : State) (c : Nat) (l : Launch) : Bool :=
  l.record.placed c && (s.core c).accepting && !(s.core c).quar && s.slotOk c l && s.engineOk c l.record

/-! ### Eviction -/

/-- A released copy into the task's scratchpad, tiles or ring slots has not written its stamp (R325). -/
def State.copyInto (s : State) (id : W64) : Bool :=
  s.cmds.any fun c =>
    match c.kind with
    | .copy d _ _ => d.runs.any fun r => match r.2 with | .sp t _ | .acc t _ | .slot t _ _ => t == id | .glob .. => false
    | _ => false

/-- A saved task whose resident state may be evicted, once the copies into it have written their stamps (R325). -/
def State.evictable (s : State) (t : Task) : Bool :=
  (t.st = .saved || t.st = .trapped) && t.core.isSome && t.images.isEmpty && !(s.recOf t).noreloc && !s.hasHandles t.id &&
  !s.hasArmed t.id

/-- Lowest priority first, then the task saved longest (R325). -/
def State.evictBefore (s : State) (t u : Task) : Bool :=
  (s.recOf t).prio < (s.recOf u).prio || ((s.recOf t).prio = (s.recOf u).prio && t.savedAt < u.savedAt)

/-- A list in an order, each element after those before it. -/
def sortBy {α : Type} (before : α → α → Bool) : List α → List α
  | [] => []
  | x :: xs =>
    let ys := sortBy before xs
    (ys.takeWhile fun y => !before x y) ++ x :: (ys.dropWhile fun y => !before x y)

/-- The fewest tasks of an order whose going makes room (R325). -/
def State.shortest (s : State) (c : Nat) (r : Rec) (lid : BitVec 32) (n : Nat) : List Task → List Task → Option (List Task)
  | done, ts =>
    match ts with
    | [] => if s.room c r lid n (done.map Task.id) then some done else none
    | t :: rest =>
      if s.room c r lid n (done.map Task.id) then some done else s.shortest c r lid n (done ++ [t]) rest

/-- The pool units that the images of some tasks take. -/
def State.imageCost (s : State) (ts : List Task) : Nat := (ts.map fun t => (s.recOf t).imageUnits).sum

/-- The saved tasks whose eviction makes room for n tasks of a record, if their images fit the pool (R325). -/
def State.evictSet (s : State) (c : Nat) (r : Rec) (lid : BitVec 32) (n : Nat) : Option (List Task) :=
  let ts := sortBy s.evictBefore ((s.residents c).filter s.evictable)
  match s.shortest c r lid n [] ts with
  | none => none
  | some out => if s.poolUsed.length + s.imageCost out ≤ s.poolUnits then some out else none

/-- The evictions that make room for n tasks of a record, once no copy into the tasks they name still has its stamp to write
(R325). -/
def State.evictions (s : State) (c : Nat) (r : Rec) (lid : BitVec 32) (n : Nat) : Option (List Task) :=
  (s.evictSet c r lid n).bind fun out => if out.any fun t => s.copyInto t.id then none else some out

/-- The resident state of a saved task goes to the pool (R325). -/
def State.evict (s : State) (t : Task) : State :=
  (s.writeImages t).updTask t.id fun t => { t with core := none }

/-! ### Places -/

/-- A partition that is free and that the launch may use: a class-2 launch its own, the others those nobody holds (R297). -/
def State.partFree (s : State) (p : Nat) (own : Option Launch) : Bool :=
  (s.part p).task.isNone && s.inService (coreOf p) (p % 4) &&
  match own with
  | some l => l.reserved.contains p
  | none => !s.launches.any fun l => l.reserved.contains p

/-- The lowest such partition of a core. -/
def State.freeOn (s : State) (c : Nat) (own : Option Launch) : Option Nat :=
  ((List.range 4).map (4 * c + ·)).find? fun p => s.partFree p own

/-- A partition for a task of the launch and the evictions it needs (R294): a resident task stays on its core; otherwise a core
that holds the generation goes first, then one that needs no eviction. -/
def State.spot (s : State) (l : Launch) (resident : Option Nat) (own : Option Launch) : Option (Nat × List Task) :=
  match resident with
  | some c =>
    if !(s.core c).accepting || (s.core c).quar then none
    else (s.freeOn c own).map fun p => (p, [])
  | none =>
    let cs := (List.range 384).filter fun c => s.coreOpen c l && (s.freeOn c own).isSome
    let try_ (f : Nat → Bool) (evict : Bool) : Option (Nat × List Task) :=
      (cs.filter f).findSome? fun c =>
        match s.freeOn c own with
        | none => none
        | some p =>
          if evict then (s.evictions c l.record l.lid 1).map fun ts => (p, ts)
          else if s.room c l.record l.lid 1 [] then some (p, []) else none
    match try_ (fun c => s.holdsGen c l) false with
    | some x => some x
    | none =>
      match try_ (fun c => s.holdsGen c l) true with
      | some x => some x
      | none =>
        match try_ (fun c => !s.holdsGen c l) false with
        | some x => some x
        | none => try_ (fun c => !s.holdsGen c l) true

/-- The first start at which n rows or units stand free among runs (start, length) already granted. -/
def firstFit (n cap : Nat) (runs : List (Nat × Nat)) : Option Nat :=
  ((0 :: runs.map fun r => r.1 + r.2).filter fun a =>
    a + n ≤ cap && runs.all fun r => a + n ≤ r.1 || r.1 + r.2 ≤ a || n = 0 || r.2 = 0).min?

/-- The reservations resident on a core moved to the lowest rows and units, in their order (R43 step 3). -/
def State.packCore (s : State) (c : Nat) : State :=
  let ts := sortBy (fun (t u : Task) => t.res.row0 < u.res.row0) (s.residents c)
  let us := sortBy (fun (t u : Task) => t.res.unit0 < u.res.unit0) (s.residents c)
  let s := (ts.foldl (fun (x : State × Nat) t =>
    (x.1.updTask t.id fun t => { t with res := { t.res with row0 := x.2 } }, x.2 + (s.recOf t).sprows)) (s, 0)).1
  (us.foldl (fun (x : State × Nat) t =>
    (x.1.updTask t.id fun t => { t with res := { t.res with unit0 := x.2 } }, x.2 + (s.recOf t).tsu)) (s, 0)).1

/-- Where a reservation of a record starts on a core; none when nothing stands free in one run. -/
def State.gap (s : State) (c : Nat) (r : Rec) : Option (Nat × Nat) :=
  let ts := s.residents c
  match firstFit r.sprows (s.capRows c) (ts.map fun t => (t.res.row0, (s.recOf t).sprows)),
    firstFit r.tsu (s.capUnits c) (ts.map fun t => (t.res.unit0, (s.recOf t).tsu)) with
  | some a, some b => some (a, b)
  | _, _ => none

/-- Rows and units granted on a core, after the others have moved together when no run is long enough (R22, R43). -/
def State.grant (s : State) (c : Nat) (r : Rec) : State × Nat × Nat :=
  match s.gap c r with
  | some x => (s, x)
  | none =>
    let s := s.packCore c
    (s, (s.gap c r).getD (0, 0))

/-! ### Start and return of a task -/

/-- The virtual address at which the ASID maps an address of the pool (R319). -/
def State.poolVa (s : State) (asid block : Nat) : W64 :=
  (((KMap.get 0 s.regs.trapv asid).extractLsb' 18 38 ++ (0#18)).signExtend 64) + BitVec.ofNat 64 (block - s.poolBase)

/-- The registers a task starts with (R295, R319). -/
def State.startRegs (s : State) (l : Launch) : Regs :=
  match l.serves with
  | none => { Regs.zero with s := setNth Regs.zero.s 1 l.record.args, pc := l.record.routine }
  | some id =>
    let block := match s.task id with | some t => t.block | none => 0
    { Regs.zero with s := setNth (setNth Regs.zero.s 1 (s.poolVa l.asid block)) 2 id, pc := l.record.routine }

/-- The core and partition are made ready for a task of the launch: window slot, L1, register bank (R18, R42, R292). -/
def State.readyPart (s : State) (p : Nat) (l : Launch) (cinv : Bool) : State :=
  let s := (s.loadGen (coreOf p) l).moveBank p
  if cinv then s.updCore (coreOf p) Core.cinv else s

/-- The next index of the launch starts on partition p (R289, R295, R324), its STATE word zero (R323); nothing happens when no context
block is free. -/
def State.begin (s : State) (l : Launch) (p : Nat) : State :=
  match s.blockTake with
  | none => s
  | some (block, s) =>
    let c := coreOf p
    let r := l.record
    let (s, row0, unit0) := s.grant c r
    let id : W64 := BitVec.ofNat 64 (l.lid.toNat * 2 ^ 32 + l.next)
    let res : Resident :=
      { Resident.none with rows := r.sprows, units := r.tsu, rmask := r.rings, tmask := r.tiles, row0 := row0, unit0 := unit0
                           sp := Store.zero.writeN 0 l.attach }
    let t : Task :=
      { id := id, lid := l.lid, idx := l.next, st := .running p, why := 0, core := some c, res := res, ctx := none
        block := block, images := [], late := [], cause := 0, savedAt := s.dseq, dispatchedAt := s.dseq }
    let regs := s.startRegs l
    let s := (s.readyPart p l (l.waits.any fun w => w.kind ≠ 0)).updPart p fun P =>
      { P.freed with task := some id, regs := regs, dup := regs, bgi := capBudget r.bgi, bgm := capBudget r.bgm
                     next := max P.next s.cyc }
    let s := { s with tasks := s.tasks ++ [t], dseq := s.dseq + 1 }
    (s.putMem (block + 0x28) (leBytes 8 0)).updLaunch l.lid fun l => { l with next := l.next + 1, readyAt := s.cyc, promoted := false }

/-- What R309 does at a restore: a latch whose balances have recovered clears, and a task exhausted with a continuation
declared enters continuation mode, unless its program counter is odd, which raises ALIGN at once (R320). -/
def Part.atRestore (P : Part) : Part :=
  let P := P.clearLatches
  if P.exh && !P.regs.cm && P.regs.cont ≠ 0 && !P.regs.pc.getLsbD 0 then P.beginCm else P

/-- A saved task returns to partition p (R135, R309, R325), its WHY zero (R323), unless poison in its block holds it (R332). A late fault is taken at the address it was saved
with, before a continuation begins (R377). -/
def State.resume (s : State) (l : Launch) (p : Nat) (t : Task) : State :=
  match t.ctx with
  | none => s
  | some ctx =>
    let c := coreOf p
    let s :=
      if t.core.isSome then s
      else
        let (s, row0, unit0) := s.grant c l.record
        (s.dropImages t).updTask t.id fun t => { t with res := { t.res with row0 := row0, unit0 := unit0 } }
    let s := s.readyPart p l true
    let t := (s.task t.id).getD t
    let s := (s.restore p t ctx).updPart p fun P => { P with next := max P.next s.cyc }
    if (s.part p).task ≠ some t.id then s
    else
    let s := s.putMem (t.block + 0x28) (leBytes 8 (s.getMem (t.block + 0x28) 8 % 2 ^ 60))
    (s.deliverLate p).updPart p fun P => if P.task = some t.id then P.atRestore else P

/-! ### What there is to dispatch -/

/-- A saved task may run again (R309). -/
def State.resumable (s : State) (t : Task) : Bool :=
  t.st = .saved &&
  match t.ctx with
  | none => false
  | some c =>
    (!c.exh && !c.gl) || (0 ≤ s.blockBal t.block 0x40 && 0 ≤ s.blockBal t.block 0x48) ||
    (c.exh && !c.regs.cm && s.getMem (t.block + 0x38) 8 ≠ 0)

/-- A relocated task, which goes at the head of its level (R45, R296). -/
def Task.relocated (t : Task) : Bool := t.why = 5 && t.core.isNone

/-- The tasks of a launch that go before its next new index: relocated ones first, then the one saved longest (R45, R296). -/
def State.toResume (s : State) (l : Launch) : List Task :=
  sortBy (fun (t u : Task) => (t.relocated && !u.relocated) || (t.relocated == u.relocated && t.savedAt < u.savedAt))
    (s.tasks.filter fun t => t.lid == l.lid && s.resumable t)

/-- A new index of the launch is left (R296). -/
def Launch.hasIndex (l : Launch) : Bool := l.next < l.count

/-- The launch has something to dispatch: a task to resume or a new index (R293, R296; assumption 62). -/
def State.hasWork (s : State) (l : Launch) : Bool := l.ready && (!(s.toResume l).isEmpty || l.hasIndex)

/-- What a launch would dispatch next and where, with the evictions: the first task to resume that a free partition fits; while it
has tasks to resume no new index, which needs a context block too (R296, R324). -/
def State.nextSpot (s : State) (l : Launch) (own : Option Launch) : Option (Option Task × Nat × List Task) :=
  match s.toResume l with
  | [] =>
    if !l.hasIndex then none
    else (s.spot l none own).bind fun x => if (x.2.foldl State.evict s).blockTake.isSome then some (none, x) else none
  | ts => ts.findSome? fun t => (s.spot l t.core own).map fun x => (some t, x)

/-- The launch's next task goes to a partition: one resumes, or the next index starts. -/
def State.place1 (s : State) (l : Launch) (x : Option Task × Nat × List Task) : State :=
  let s := x.2.2.foldl State.evict s
  match x.1 with
  | some t => s.resume l x.2.1 t
  | none => s.begin l x.2.1

/-- The oldest launch of a queue with something to dispatch (R296). -/
def State.queueLaunch (s : State) (q : Nat) : Option Launch :=
  pick (fun (l m : Launch) => l.ticket < m.ticket)
    (s.launches.filter fun l => l.q == some q && s.hasWork l)

/-- The effective level of a launch of a queue (R297). -/
def Launch.level (l : Launch) : Nat :=
  if l.record.cls = 1 && l.promoted then min 7 (l.record.prio + 1) else l.record.prio

/-! ### Dispatch -/

/-- Class-2 launches dispatch onto their reserved partitions, one after another, at most n tasks (R296, R297). -/
def State.dispatchHeld (s : State) : Nat → State
  | 0 => s
  | n + 1 =>
    match s.launches.findSome? fun l =>
      if l.record.cls = 2 && s.hasWork l then (s.nextSpot l (some l)).map fun x => (l, x) else none with
    | none => s
    | some (l, x) => (s.place1 l x).dispatchHeld n

/-- Relocated tasks of a level, each with its launch and a partition (R45). -/
def State.movedAt (s : State) (lv : Nat) : Option (Task × Launch × Nat × List Task) :=
  s.tasks.findSome? fun t =>
    if !t.relocated || !s.resumable t then none
    else
      match s.launch t.lid with
      | none => none
      | some l => if l.record.prio ≠ lv then none else (s.spot l none none).map fun x => (t, l, x)

/-- Relocated tasks of a level dispatched, at most n. -/
def State.dispatchMoved (s : State) (lv : Nat) : Nat → State
  | 0 => s
  | n + 1 =>
    match s.movedAt lv with
    | none => s
    | some (t, l, p, out) => (((out.foldl State.evict s).resume l p t)).dispatchMoved lv n

/-- A trap-service launch of a level with something to dispatch (R319). -/
def State.serviceAt (s : State) (lv : Nat) : Option (Launch × Option Task × Nat × List Task) :=
  s.launches.findSome? fun l =>
    if l.q.isNone && l.record.prio = lv && s.hasWork l then (s.nextSpot l none).map fun x => (l, x) else none

/-- Trap-service launches of a level dispatched, at most n. -/
def State.dispatchService (s : State) (lv : Nat) : Nat → State
  | 0 => s
  | n + 1 =>
    match s.serviceAt lv with
    | none => s
    | some (l, x) => (s.place1 l x).dispatchService lv n

/-- The next task of a queue and its partition, among those that nobody has reserved (R296): a class-2 launch whose reserved partitions
are taken goes there too. -/
def State.queueNext (s : State) (q : Nat) : Option (Launch × Option Task × Nat × List Task) :=
  match s.queueLaunch q with
  | none => none
  | some l => (s.nextSpot l none).map fun x => (l, x)

/-- A visited queue dispatches while its deficit and the partitions last (R296). -/
def State.drainQueue (s : State) (q : Nat) : Nat → State
  | 0 => s
  | n + 1 =>
    match s.queueNext q with
    | none => s
    | some (l, x) => ((s.place1 l x).updQueue q fun y => { y with deficit := n }).drainQueue q n

/-- One visit of a queue (R296). -/
def State.visit (s : State) (q : Nat) : State :=
  let w := s.qWeight q
  let d := min ((s.queue q).deficit + w) (4 * w)
  let s := (s.updQueue q fun x => { x with deficit := d }).drainQueue q d
  if (s.queueLaunch q).isNone then s.updQueue q fun x => { x with deficit := 0 } else s

/-- The queues of a level whose next task fits a free partition, from the level's pointer on (R296). -/
def State.queuesAt (s : State) (lv : Nat) : List Nat :=
  let qs := ((s.launches.filterMap Launch.q).eraseDups).filter fun q =>
    match s.queueNext q with
    | some x => x.1.level = lv
    | none => false
  let ptr := KMap.get 0 s.levelPtr lv
  sortBy (fun a b => (a + 4096 - ptr) % 4096 < (b + 4096 - ptr) % 4096) qs

/-- The levels below lv in turn, the first with work served and the rest left (R296). -/
def State.dispatchFrom (s : State) : Nat → State
  | 0 => s
  | lv + 1 =>
    if (s.movedAt lv).isSome || (s.serviceAt lv).isSome then
      (s.dispatchMoved lv s.tasks.length).dispatchService lv s.launches.length
    else
      match s.queuesAt lv with
      | [] => s.dispatchFrom lv
      | qs =>
        let s := qs.foldl (fun s q => s.visit q) s
        { s with levelPtr := KMap.set s.levelPtr lv ((qs.getLastD 0 + 1) % 4096) }

/-- A task given up: it runs no further, and everything it holds is freed (R46); a rerun pair that it leaves open is recorded
(R344). -/
def State.giveUp (s : State) (t : Task) : State :=
  let s := (((s.logLeft t).exitEntries t.id).freeHandles t.id).poolFree (t.images ++ s.blockUnits t.block)
  match t.st with
  | .running p => (s.updPart p Part.freed).dropSlots p
  | _ => s

/-- A launch with a task to dispatch that fits nowhere any more completes at once with OVERCAP, and what is left of it is given up
(R46). -/
def State.overcapLaunch (s : State) (l : Launch) : State :=
  let ts := s.tasks.filter fun t => t.lid == l.lid
  let open_ := l.next < l.count || ts.any fun t => t.core.isNone && t.st ≠ .trapped
  if !open_ || s.fitsAnywhere l.record then s
  else
    let s := ts.foldl State.giveUp s
    ({ s with tasks := s.tasks.filter fun t => t.lid != l.lid } : State).endLaunch { l with triggered := true } 65

/-! ### Pre-emption -/

/-- A task of a launch would find room on the core of a running task once that one is saved: beside it, or after evictions, its own
among them if R325 lets it be evicted (R298); a new index finds a context block too (R324). -/
def State.roomAfter (s : State) (l : Launch) (resident : Option Nat) (p : Nat) (t : Task) : Bool :=
  let c := coreOf p
  let saved := s.updTask t.id fun t => { t with st := .saved, savedAt := s.dseq }
  s.inService c (p % 4) && (s.core c).accepting && !(s.core c).quar &&
  (match resident with
    | some d => d = c
    | none =>
      saved.coreOpen c l &&
      match saved.evictSet c l.record l.lid 1 with
      | none => false
      | some out => !(s.toResume l).isEmpty || (out.foldl State.evict saved).blockTake.isSome) &&
  !s.launches.any fun m => m.reserved.contains p

/-- The tasks that may be stopped for a task of level lv: class 0 or 1, a lower level, and but for a task of guaranteed class a datum since
their restore (R136, R298). -/
def State.stoppable (s : State) (lv : Nat) (l : Launch) (resident : Option Nat) : List (Nat × Task) :=
  s.tasks.filterMap fun t =>
    match t.st with
    | .running p =>
      let P := s.part p
      let r := s.recOf t
      if r.cls ≠ 2 && r.prio < lv && P.exiting.isNone && (!P.lastRestore || l.record.cls = 2) &&
          s.roomAfter l resident p t then some (p, t) else none
    | _ => none

/-- Pre-emption is asked of partition p (R134, R321). -/
def State.preemptPart (s : State) (p : Nat) : State :=
  s.updPart p fun P => { P.raiseStop s.cyc with preempt := true }

/-- A task of level lv that fits no free partition stops one running task, unless a stop that will serve it is on its way
(R298). -/
def State.preemptFor (s : State) (lv : Nat) (l : Launch) (resident : Option Nat) : Option State :=
  let vs := s.stoppable lv l resident
  if (vs.any fun v => (s.part v.1).preempt) || l.reserved.any fun p => (s.part p).preempt then none
  else
    let first (x y : Nat × Task) : Bool :=
      let a := (s.recOf x.2).prio
      let b := (s.recOf y.2).prio
      a < b || (a = b && y.2.dispatchedAt < x.2.dispatchedAt)
    (pick first vs).map fun v => s.preemptPart v.1

/-- What waits at a level for a partition: each launch with the core that a task of it is resident on. -/
def State.waiting (s : State) (lv : Nat) : List (Launch × Option Nat) :=
  (s.tasks.filterMap fun t =>
    if t.relocated && s.resumable t then
      match s.launch t.lid with
      | some l => if l.record.prio = lv then some (l, none) else none
      | none => none
    else none) ++
  (s.launches.filter fun l =>
    s.hasWork l &&
    match l.q with
    | none => l.record.prio = lv
    | some q => (s.queueLaunch q).map Launch.lid == some l.lid && l.level = lv).flatMap fun l =>
      match s.toResume l with
      | [] => [(l, none)]
      | ts => ts.map fun t => (l, t.core)

/-- The highest level below n at which a waiting task finds a task to stop (R298). -/
def State.preemptFrom (s : State) : Nat → State
  | 0 => s
  | lv + 1 =>
    match (s.waiting lv).findSome? fun x =>
      if (s.spot x.1 x.2 none).isSome then none else s.preemptFor lv x.1 x.2 with
    | some s => s
    | none => s.preemptFrom lv

/-- R296, R297, R298, R325. Meridian hands out tasks: reserved partitions first, then the highest level that has a task for a
free partition; a task that fits none has a lower one stopped. Terminated tasks that can end do so, and launches that fit
nowhere complete. -/
def execDispatch (s : State) : Out :=
  let s := s.finishEndings
  let s := s.launches.foldl State.overcapLaunch s
  let s := s.dispatchHeld (s.launches.map fun l => l.reserved.length).sum
  .next ((s.dispatchFrom 8).preemptFrom 8)

/-- R297. The oldest launch of a class-1 queue has waited longer than BOUND: the queue's level rises by one. -/
def execAgeingPromotion (q : Nat) (s : State) : Out :=
  .next (
    match s.queueLaunch q with
    | none => s
    | some l =>
      if l.record.cls = 1 && s.qBound q ≠ 0 && l.readyAt + 2250 * s.qBound q < s.cyc then
        s.updLaunch l.lid fun l => { l with promoted := true }
      else s)

/-! ### Admission -/

/-- Partitions a class-2 launch may reserve: in service, in its placement, held by no other; free ones and those that run a task
it may stop (R297). -/
def State.holdable (s : State) (c : Nat) : List Nat :=
  ((List.range 4).map (4 * c + ·)).filter fun p =>
    s.inService c (p % 4) && !(s.launches.any fun m => m.reserved.contains p) &&
    match s.taskOn p with
    | none => (s.part p).task.isNone
    | some t => (s.recOf t).cls ≠ 2 && (s.part p).exiting.isNone

/-- How many tasks of the launch a core has room for, at most n, and the evictions they need (R297, R326). -/
def State.roomFor (s : State) (l : Launch) (c : Nat) : Nat → Nat × List Task
  | 0 => (0, [])
  | n + 1 =>
    match s.evictions c l.record l.lid (n + 1) with
    | some ts => (n + 1, ts)
    | none => s.roomFor l c n

/-- Partitions and evictions on the cores from a list until k are found (R297). -/
def State.holdOn (s : State) (l : Launch) : Nat → List Nat → List Nat × List Task
  | _, [] => ([], [])
  | k, c :: cs =>
    if k = 0 then ([], [])
    else if !s.coreOpen c l then s.holdOn l k cs
    else
      let ps := s.holdable c
      let free := (ps.filter fun p => (s.part p).task.isNone) ++ ps.filter fun p => (s.part p).task.isSome
      let (n, out) := s.roomFor l c (min k free.length)
      let got := free.take n
      let (more, outs) := s.holdOn l (k - got.length) cs
      (got ++ more, (if got.isEmpty then [] else out) ++ outs)

/-- A class-2 launch reserves its partitions (R297, R326): the evictions are made, and the lower-class tasks that run there are
asked to stop; none when it must wait. -/
def State.hold (s : State) (l : Launch) : Option (State × List Nat) :=
  let (ps, out) := s.holdOn l l.record.parts (List.range 384)
  if ps.length < l.record.parts || s.poolUnits < s.poolUsed.length + s.imageCost out then none
  else
    let s := out.foldl State.evict s
    some (ps.foldl (fun s p => if (s.part p).task.isSome then s.preemptPart p else s) s, ps)

/-- A record that is admitted and runs no task: its stamp is delivered (R291). -/
def State.rejectRec (s : State) (l : Launch) (status : Nat) : State :=
  (({ s with lastLid := s.nextLid } : State).completionStamp l.record l.lid l.asid l.ticket status).dropGen l.asid l.gen

/-- A record copied from a queue is admitted (R293), with its ticket and attachment; none when a class-2 record must wait at the
head (R297). From its admission on it holds the partitions it reserves, whether or not its waits are met (assumption 95). -/
def State.admitRec (s : State) (q ticket : Nat) (bs attach : List Byte) : Option State :=
  let r := Rec.ofBytes bs
  let asid := s.qAsid q
  if r.ver = 0 then some s
  else
    let (g, s) := s.curGen asid
    let l := { s.newLaunch (some q) ticket r asid g.gen with attach := attach }
    if g.bad then some (s.rejectRec l 64)
    else if !s.recOk q r bs || 4096 * r.sprows < attach.length then some (s.rejectRec l 66)
    else
      match s.readWait asid r 0, s.readWait asid r 1 with
      | some w0, some w1 =>
        if !s.fitsAnywhere r then some (s.rejectRec l 65)
        else
          let l : Launch := { l with waits := [w0, w1], ready := w0.kind = 0 && w1.kind = 0 }
          let add (s : State) (ps : List Nat) : State :=
            ({ s with launches := s.launches ++ [{ l with reserved := ps }], lastLid := s.nextLid } : State).settleLaunch l.lid
          if r.cls = 2 then (s.hold l).map fun x => add x.1 x.2 else some (add s [])
      | _, _ => some (s.rejectRec l 67)

/-- The head of a queue passes an entry once its record has been admitted; a class-2 record that cannot reserve its partitions waits
there, and no task is stopped for it before it is admitted (R288, R297). -/
def State.consume1 (s : State) (q next : Nat) (bs attach : List Byte) : State :=
  let h := (s.queue q).head
  match (s.setHead q next).admitRec q h bs attach with
  | some s => s.watermarks q
  | none => s

/-- What Meridian reads to admit a record of queue q is asked for, the reads named and those of the record's waits, and the record goes on
as `f`; while a lane that one of them takes is shut it stays at the head (R359, R360). -/
def State.asked (s : State) (q : Nat) (reads : List (Nat × Nat)) (rec_ : List Byte) (f : State → State) : State :=
  let reads := reads ++ s.waitReads (s.qAsid q) (Rec.ofBytes rec_)
  if s.mShut (s.qAsid q) reads then s else f (s.mAsk (s.qAsid q) reads)

/-- The record at the head of a reorder ring, when it is published (R288); an access that fails sets ERR. -/
def State.takeSlot (s : State) (q : Nat) : State :=
  let asid := s.qAsid q
  let h := (s.queue q).head
  let k := h % s.qSize q
  match s.mWord asid (s.qBlock q + 0x80 + 8 * k) with
  | none => s.queueErr q
  | some x =>
    if x ≠ h then s
    else
      let at_ := s.qRing q + 64 * k
      match s.mRead asid at_ 64 with
      | none => s.queueErr q
      | some bs => s.asked q [(at_, 64)] bs fun s => s.consume1 q (h + 1) bs []

/-- The entry at the head of a byte ring, when it is whole (R289); one that breaks its rules sets ERR. Record and attachment are read
in one access (assumption 77). -/
def State.takeEntry (s : State) (q : Nat) : State :=
  let asid := s.qAsid q
  let h := (s.queue q).head
  let n := s.qSize q
  let at_ := h % n
  match s.mWord asid (s.qBlock q) with
  | none => s.queueErr q
  | some tail =>
    if tail ≤ h then s
    else
      match s.mWord asid (s.qRing q + at_) with
      | none => s.queueErr q
      | some w =>
        let len := w % 2 ^ 32
        if w.testBit 63 then
          if len ≠ n - at_ then s.queueErr q else if tail < h + len then s else (s.setHead q (h + len)).watermarks q
        else if len < 72 || 65608 < len || len % 8 ≠ 0 || n < at_ + len then s.queueErr q
        else if tail < h + len then s
        else
          match s.mRead asid (s.qRing q + at_ + 8) (len - 8) with
          | none => s.queueErr q
          | some bs =>
            s.asked q [(s.qRing q + at_, len)] (bs.take 64) fun s =>
              s.consume1 q (h + len) (bs.take 64) (bs.drop 64)

/-- R288, R289, R293. Meridian looks for the next published record of queue q, copies it and admits or rejects its launch. -/
def execAdmission (q : Nat) (s : State) : Out :=
  .next (
    if 4096 ≤ q || !s.qOn q then s
    else
      let poll := [(s.qBlock q + (if s.qBytes q then 0 else 0x80 + 8 * ((s.queue q).head % s.qSize q)), 8)]
      if s.mShut (s.qAsid q) poll then s
      else
        let s := s.mAsk (s.qAsid q) poll
        if s.qBytes q then s.takeEntry q else s.takeSlot q)

/-- The stamp that a wait reads, through the generation its launch keeps (R292). -/
def State.waitLoc (s : State) (l : Launch) (w : Wait) : Option Loc :=
  if w.kind ≠ 1 then none
  else
    match translate (s.entsOf l.asid l.gen) s.regs.podid true s.hatom .load w.a.toNat 8 with
    | .error _ => none
    | .ok x => some x.loc

/-- A wait tested (R292); a stamp in another package is not read while its lane is shut (R359, R360). -/
def State.waitNow (s : State) (l : Launch) (w : Wait) : Bool :=
  if w.kind ≠ 1 then s.waitHolds w
  else (s.waitLoc l w).any fun x => s.wayOpen x && !s.poisonedAt x 8 && stampMet (leNat (s.readHome x 8)) w.b.toNat

/-- The request for the stamp of a wait that has not been met is sent to a home in another package (R16, R359). -/
def State.waitAsk (s : State) (l : Launch) (w : Wait) : State :=
  match w.met, s.waitLoc l w with
  | false, some x => if s.wayOpen x then s.sent x fun a => .read a 8 else s
  | _, _ => s

/-- R292. The waits of a launch are tested; once each has been met the launch is dispatchable. -/
def execWaitMet (lid : BitVec 32) (s : State) : Out :=
  .next (
    match s.launch lid with
    | none => s
    | some l =>
      if l.ready then s
      else
        let ws := l.waits.map fun w => { w with met := w.met || s.waitNow l w }
        ((l.waits.foldl (fun s w => s.waitAsk l w) s).updLaunch lid fun l =>
          { l with waits := ws, ready := ws.all Wait.met, readyAt := s.cyc }).settleLaunch lid)

end Sys2Proof.Machine
end

