-- ==== Sys2Proof/Machine/Issue.lean ====
section
/-! DEFINITION. The issue of a bundle (R115 to R122, R316): the datums that stand before it (R123, R125, R130), the stalls
(R120, R121, R223, R258), its debit (R305), its operations one after another, and its end with the passes of loops (R131 to
R134, R183). -/

namespace Sys2Proof

/-- A plain or release store to global memory of one store-buffer entry (R130). -/
def Instr.isStore1 : Instr → Bool
  | .stB .. | .stH .. | .stW .. | .stD .. | .stBMq .. | .stHMq .. | .stWMq .. | .stDMq .. | .stRelB .. | .stRelH ..
  | .stRelW .. | .stRelD .. => true
  | _ => false

/-- The accumulator tile an operation writes (R127). -/
def Instr.tileWrite? : Instr → Option Nat
  | .mxmac t .. | .mxmul t .. => some t.toNat
  | .ast _ t .. | .aadd _ t .. | .azero t .. | .ascl _ t .. | .acks t .. => some t.toNat
  | .aadam _ t _ z _ => if z = 1 then some t.toNat else none
  | _ => none

/-- The class of an access to a local space or of one that performs as its bundle issues (R74, R76). What the matrix engine and the A
slot do for the partition are accesses of class 0 (R67, R151). -/
def Instr.immClass? : Instr → Option Nat
  | .ldAcqB _ _ c .. | .ldAcqBu _ _ c .. | .ldAcqH _ _ c .. | .ldAcqHu _ _ c .. | .ldAcqW _ _ c .. | .ldAcqWu _ _ c ..
  | .ldAcqD _ _ c .. | .atomW _ _ c .. | .atomD _ _ c .. | .casW _ _ c .. | .casD _ _ c .. => some c.toNat
  | .ldxSp _ _ _ c _ | .stxSp _ _ _ c _ => some c.toNat
  | .mwait .. | .tld .. | .tst .. | .ctstat .. | .hqry .. | .sstat .. | .chartq .. => some 0
  | i => if i.isMx || i.cls? = some .a then some 0 else i.spAcc.map fun x => x.2.2.2.2.2

/-- The size in bytes and the address register of an acquire load (R253). -/
def Instr.acqRead? : Instr → Option (BitVec 5 × Nat)
  | .ldAcqB _ a .. | .ldAcqBu _ a .. => some (a, 1)
  | .ldAcqH _ a .. | .ldAcqHu _ a .. => some (a, 2)
  | .ldAcqW _ a .. | .ldAcqWu _ a .. => some (a, 4)
  | .ldAcqD _ a .. => some (a, 8)
  | _ => none

/-- The operation may access memory: it stands in the M or the A slot. -/
def Instr.inMA (i : Instr) : Bool := i.cls? = some .m || i.cls? = some .a

/-- The accumulator tile an operation of the A slot or a product names (R120, R127). -/
def Instr.tile? : Instr → Option Nat
  | .ald _ t .. | .acvt _ t .. | .aadam _ t .. | .mxchk t .. => some t.toNat
  | i => i.tileWrite?

end Sys2Proof

namespace Sys2Proof.Machine

/-! ### What an operation needs -/

/-- The operation's guard holds as the bundle would read it (R116). -/
def State.live (s : State) (i : Instr) : Bool :=
  match i.guard? with
  | some g => s.guardOk g
  | none => true

/-- The store-buffer entries an operation of the bundle takes (R130). -/
def State.entriesOf (s : State) (i : Instr) : Nat :=
  if !s.live i then 0
  else if i.isCommand || i.isStore1 then 1
  else
    match i with
    | .stv .. | .stvMq .. => 32
    | .stx _ a b _ _ =>
      ((gatherElems (s.rdS 0 a) (s.rdV 1 b.toNat)).map fun e => e.2.toNat / 128).eraseDups.length
    | _ => 0

/-- The scratchpad lines an operation touches, as the linear view names them, and whether it writes them (R22, R126). -/
def State.spLines (s : State) (i : Instr) : List Nat × Bool :=
  if !s.live i then ([], false)
  else
    match i with
    | .tst _ a _ f _ _ => ((linesOf (s.rdS 0 a).toNat (imageSize f)).map (viewLine true), true)
    | .ldxSp _ a b _ _ => (((gatherElems (s.rdS 0 a) (s.rdV 1 b.toNat)).map fun e => e.2.toNat / 128).eraseDups, false)
    | .stxSp _ a b _ _ => (((gatherElems (s.rdS 0 a) (s.rdV 1 b.toNat)).map fun e => e.2.toNat / 128).eraseDups, true)
    | _ =>
      match i.spAcc with
      | some (a, o, sz, n, w, _) => (linesOf (s.eaMO a o sz).toNat n, w)
      | none => ([], false)

/-- The lines of a tile operation that has not completed, as the linear view names them (R22). -/
def TileOp.lines (o : TileOp) : List Nat := (linesOf o.off o.size).map (viewLine true)

/-- Journal lines an interval has with the tile images it will write and the operation (R130). -/
def State.journalWith (s : State) (p : Nat) (ops : List Instr) : Nat :=
  let P := s.part p
  let has := P.journal.map JLine.line
  let tst := (P.tq.filter TileOp.store).flatMap TileOp.lines
  let own := ops.flatMap fun i => let x := s.spLines i; if x.2 then x.1 else []
  (has ++ tst ++ own).eraseDups.length

/-- Remaps an interval has with those of the bundle (R28, R130). -/
def State.remapsWith (s : State) (p : Nat) (ops : List Instr) : Nat :=
  (((s.part p).remaps.map Remap.tile) ++ (ops.filter s.live).filterMap Instr.tileWrite?).eraseDups.length

/-- A consumer of the open interval has popped the ring, or will (R128). -/
def State.popsOpen (s : State) (p q : Nat) : Bool :=
  let P := s.part p
  0 < (s.ring p q).popped || (P.mxq.any fun c => c.q = q && c.pop && c.kind.onRing) ||
  P.tq.any fun o => o.store && o.pop && o.q = q

/-- An operation that by itself asks for a datum before its bundle (R78, R88, R125, R128, R224, R258). -/
def State.datumBefore (s : State) (p : Nat) (i : Instr) : Bool :=
  i.isDatumOp ||
  (s.live i &&
    match i with
    | .tld q .. => s.ringNamed p q.toNat && s.emptySlots p q.toNat = 0 && s.popsOpen p q.toNat
    | .mxw .. => (s.res p).stat.loaded || (s.part p).mxq.any fun c => c.kind = .mxw
    | .ifence .. => true
    | .fence m sc _ =>
      sc ≠ 0 && (s.part p).sb.any fun d => match d with | .store g => m.getLsbD g.cls | .cmd c => m.getLsbD c.cls
    | _ => false)

/-- Bundles an interval may hold (R130, R337). -/
def Part.bundleLimit (P : Part) : Nat := if P.rerun.isSome then 1024 else 4096

/-- The bundle forces a datum before itself (R125, R130). -/
def State.needsDatum (s : State) (p : Nat) (ops : List Instr) : Bool :=
  let P := s.part p
  ops.any (s.datumBefore p) || 128 < P.sbn + (ops.map s.entriesOf).sum || 256 < s.journalWith p ops ||
  3 < s.remapsWith p ops || P.bundleLimit ≤ P.nb

/-! ### Stalls -/

/-- The registers whose results are on their way without a bound (R120). -/
def Part.pendingRegs (P : Part) : List Reg :=
  let drains : List Reg := P.mxq.flatMap fun c =>
    if c.kind = .mxdrv then (List.range 4).map fun k => Reg.v (c.t + k) else []
  let acc : List Reg := P.aq.flatMap fun o => o.kind.dests.map Reg.v
  ((P.pend.map Pend.dst) ++ (P.rsq.map fun r => Reg.s r.t) ++ acc ++ drains).filter fun r => r != .s 0

/-- The task's released stores that overlap an access of n bytes at a virtual address (R72). -/
def State.ownStore (s : State) (p : Nat) (va : W64) (n : Nat) : Bool :=
  match s.xlate p ⟨false, false, false, false⟩ va.toNat n with
  | .error _ => false
  | .ok x => s.released.any fun g => some g.task == (s.part p).task && !(g.cover x.loc n).isEmpty

/-- The task has a released store that has not performed (R88, R300). -/
def State.storesOut (s : State) (p : Nat) : Bool := s.released.any fun g => some g.task == (s.part p).task

/-- A pending read of partition p overlaps an access of n bytes at a virtual address (R72). -/
def State.ownRead (s : State) (p : Nat) (va : W64) (n : Nat) : Bool :=
  match s.xlate p ⟨false, false, false, false⟩ va.toNat n with
  | .error _ => false
  | .ok x => (s.part p).pend.any fun y =>
      y.loc.isHost == x.loc.isHost && y.loc.addr < x.loc.addr + n && x.loc.addr < y.loc.addr + y.size

/-- A pending read in one of the classes of a mask (R78). -/
def Part.reads (P : Part) (f : Nat → Bool) : Bool := P.pend.any fun x => f x.cls

/-- An earlier operation of the partition on a ring, whichever, has not completed (R229). -/
def Part.onRings (P : Part) : Bool := (P.mxq.any fun c => c.kind.onRing) || !P.tq.isEmpty || !P.rsq.isEmpty

/-- An accumulator tile that a product has yet to write (R120). -/
def Part.tilePending (P : Part) (t : Nat) : Bool := P.mxq.any fun c => (c.kind = .mxmac || c.kind = .mxmul) && c.t = t

/-- One operation keeps the bundle from issuing (R72, R77 to R79, R88, R120, R223, R229, R241, R258, R264, R300). -/
def State.blocked (s : State) (p : Nat) (i : Instr) : Bool :=
  let P := s.part p
  let regs := P.pendingRegs
  ((i.srcs ++ i.dests).any fun r => regs.contains r) ||
  (s.live i &&
    ((i.isMx && 2 ≤ P.mxq.length) || (i.isTile && 4 ≤ P.tq.length) ||
    (match i.tile? with
      | some t => P.tilePending t
      | none => false) ||
    (i.inMA && P.pend.any Pend.acq) ||
    (let x := s.spLines i;
      P.tq.any fun o => (o.store || x.2) && o.lines.any fun l => x.1.contains l) ||
    (match i.immClass? with
      | some c => s.fenceHolds P.task c || P.reads fun k => k = c
      | none => false) ||
    (match i.acqRead? with
      | some (a, n) => s.ownRead p (s.rdS 0 a) n
      | none => false) ||
    (match i with
      | .vjoin .. => !P.tq.isEmpty
      | .ringcfg .. => P.onRings
      | .sset _ n _ => n = 0x022 && (P.busy || P.flight.any fun f => f.wr == .sat || f.wr == .quant)
      | .fence m .. => (P.reads fun k => m.getLsbD k) || (m.getLsbD 0 && P.busy)
      | .atomW _ a .. | .casW _ a .. => s.ownStore p (s.rdS 0 a) 4
      | .atomD _ a .. | .casD _ a .. | .mwait _ a .. => s.ownStore p (s.rdS 0 a) 8
      | .enq a .. =>
        let q := (s.rdS 0 a).toNat
        s.storesOut p || s.mShut (s.qAsid q) [(s.qBlock q, 128)]
      | .ifence .. => s.storesOut p
      | _ => false)))

/-- The bundle stalls: one of its operations does, or an `mxwait` before it still waits (R122, R240). -/
def State.stalls (s : State) (p : Nat) (ops : List Instr) : Bool :=
  ((s.part p).waitAll && (s.part p).busy) || ops.any (s.blocked p)

/-! ### The issue -/

/-- The first cycle at or after t at which Isobar lets a bundle issue (R367): the cycles withheld are the last of each 16. -/
def throttled (rate t : Nat) : Nat := if t % 16 < rate then t else (t / 16 + 1) * 16

/-- The cycle at which the bundle can issue (R115, R121, R243, R367). -/
def State.issueCycle (s : State) (p : Nat) (ops : List (Slot × Instr)) : Nat :=
  let P := s.part p
  let has (sl : Slot) : Bool := ops.any fun o => o.1 = sl
  throttled s.isobar.rate
    (max (max s.cyc P.next) (max (max (if has .v0 then P.v0 else 0) (if has .v1 then P.v1 else 0)) (if has .a then P.aNext else 0)))

/-- Values of the format latch that come into force with the bundle (R227). -/
def Regs.ageFmt (r : Regs) : Regs :=
  let q := r.fmtq.map fun (a, b, w, n) => (a, b, w, n + 1)
  let r := (q.filter fun e => 4 ≤ e.2.2.2).foldl (fun r e => { r with fa := e.1, fb := e.2.1, w := e.2.2.1 }) r
  { r with fmtq := q.filter fun e => e.2.2.2 < 4 }

/-- The partition at the cycle a bundle would issue, with every result due landed (R116, R118). -/
def State.arm (s : State) (p len t : Nat) : State :=
  s.updPart p fun P =>
    let Q := P.land t
    { Q with issT := t, ix := s.fresh, issA := Q.regs.pc, issLen := len, regs := Q.regs.ageFmt }

/-- The M operation of a datum bundle, tried on the state at issue: it would raise a trap (R125). -/
def State.wouldTrap (s : State) (i : Instr) : Bool :=
  let r : Out :=
    match i with
    | .atomW t a c sc o g => execAtomW t a c sc o g s
    | .atomD t a c sc o g => execAtomD t a c sc o g s
    | .casW t a c sc g => execCasW t a c sc g s
    | .casD t a c sc g => execCasD t a c sc g s
    | .mwait t a b sc g => execMwait t a b sc g s
    | .enq a b g => execEnq a b g s
    | _ => .next s
  match r with
  | .next t => t.me.rb != s.me.rb
  | _ => false

/-- The order in which the operations execute (R116, R125): slot order, but an operation that makes its bundle a datum comes
last, unless it traps, when the trap of the lower slot is the one delivered (R316). -/
def State.orderOps (s : State) (ops : List (Slot × Instr)) : List (Slot × Instr) :=
  match ops.find? fun o => o.2.isDatumOp with
  | none => ops
  | some m => if ops.getLast? == some m || s.wouldTrap m.2 then ops else (ops.filter fun o => o != m) ++ [m]

/-- The bundle issues (R115, R121, R125, R243, R305): its cadences, its debit, and its operations in their order. -/
def State.start (s : State) (p skip : Nat) (ops : List (Slot × Instr)) : State :=
  let s := s.updPart p fun P =>
    let t := P.issT
    let has (f : Slot × Instr → Bool) : Bool := ops.any f
    { P with
      regs := { P.regs with pc := P.regs.pc + BitVec.ofNat 64 P.issLen }
      next := t + 1 + skip
      v0 := if has fun o => o.1 = .v0 then t + 8 else P.v0
      v1 := if has fun o => o.1 = .v1 then t + 8 else P.v1
      aNext := if has fun o => o.1 = .a then t + (if has fun o => match o.2 with | .aadam .. => true | _ => false then 8 else 4)
        else P.aNext
      nb := P.nb + 1, waitAll := false
      datumAfter := has fun o => o.2.isDatumOp
      bal0 := P.balance s.isobar.use
      rpoison := P.rpoison.filter fun r => match r with | .v n => !(ops.any fun o => o.2.wholeV.contains n && s.live o.2) | _ => true }
  let s := ({ s with cyc := max s.cyc (s.part p).issT } : State).debitBundle ops
  let s := s.updPart p fun P => { P with bal1 := P.balance s.isobar.use }
  { s with slots := s.orderOps ops }

/-! ### Poisoned registers -/

/-- The granule of the register file that holds a register (R331). -/
def Reg.granule : Reg → RegBank
  | .s n => .ctl (.s n)
  | .p n => .ctl (.p n)
  | .v n => .v n
  | .m n => .m n

/-- The granules that an operation of the bundle uses: its guard's predicate, and when it is live its operands, but for a value that it
carries to memory as it stands (R331, R332). -/
def State.usesOf (s : State) (i : Instr) : List RegBank :=
  (match i.guard? with
    | some g => [.ctl (.p (g.toNat % 16))]
    | none => []) ++
  (if s.live i then
    i.flagSrcs ++ i.used.map Reg.granule
  else [])

/-- The bundle consumes a poisoned register (R332): an operand of an operation, a balance that it debits, or the counter of a loop whose
pass ends with it. -/
def State.usesPoison (s : State) (p : Nat) (ops : List Instr) : Bool :=
  let P := s.part p
  let ends (k : Nat) : Bool := P.regs.loops[k]?.any fun l => l.endA = P.regs.pc + BitVec.ofNat 64 P.issLen
  P.rpoison.any fun r =>
    (ops.any fun i => (s.usesOf i).contains r) ||
    match r with
    | .ctl .bgi | .ctl .bgm => !ops.isEmpty
    | .ctl (.lc k) => ends k
    | _ => false

/-- Internal operations and reads of a partition whose bundle stalls go on (R120). -/
def State.unstall (s : State) (p : Nat) : State := (s.performReady p (s.part p).pend.length).settle p

/-- A stop request stands whatever the open interval has done (R134, R321). -/
def Part.stopStands (P : Part) : Bool := P.preempt || P.relocate.isSome || (P.exh && !P.regs.cm) || P.gl || P.yieldD

/-- A trap of decode, with nothing debited (R305, R316). -/
def State.decodeTrap (s : State) (p : Nat) (pc : W64) : DecodeTrap → State
  | .illegal r sl w => s.trap p ⟨1, pc, BitVec.ofNat 64 (r * 2 ^ 56 + sl * 2 ^ 53 + w.toNat)⟩
  | .priv sl w => s.trap p ⟨2, pc, BitVec.ofNat 64 (sl * 2 ^ 53 + w.toNat)⟩

/-- The first operation, in slot order, that needs a right the task does not have and whose guard holds in the state at issue
(R116, R316). -/
def State.privFault (s : State) (env : DecEnv) (f : Fetched) : Option DecodeTrap :=
  ((privSlots env (slotWords f.hdr Slot.all f.words)).find? fun x => s.live x.2.2).map fun x => .priv x.1.num x.2.1

/-- The decode of a fetched bundle (R159, R316): PRIV is judged under the guards as the bundle would read them. -/
def State.decoded (s : State) (p : Nat) (f : Fetched) : Except DecodeTrap Bundle :=
  let env := s.decEnv p
  let len := bundleLen f.hdr
  match decodeBundle { env with waive := true } f.hdr f.words with
  | .ok b =>
    match (({ s.arm p len (s.issueCycle p b.ops) with focus := p } : State)).privFault env f with
    | some e => .error e
    | none => .ok b
  | .error e =>
    let early := match e with | .illegal r .. => r ≤ 2 && (f.hdr &&& 0xF != 0 || (hdrL f.hdr && !slotPresent f.hdr .s0)) | _ => false
    if early then .error e
    else
      match (({ s.arm p len (s.issueCycle p []) with focus := p } : State)).privFault env f with
      | some e => .error e
      | none => .error e

/-- The Vane copy comes to another decode outcome than the partition, by a guard that it reads otherwise (R328). -/
def State.privDiffers (s : State) (p : Nat) (f : Fetched) : Bool :=
  !(s.part p).vdiff.isEmpty &&
  match s.decoded p f, (s.updPart p Part.vaneCopy).decoded p f with
  | .ok _, .ok _ => false
  | .error x, .error y => x != y
  | _, _ => true

/-- A fetched bundle is decoded and goes on as `k`, or takes the trap of its decode, on which both copies agree (R316, R328). -/
def State.judged (s : State) (p : Nat) (f : Fetched) (k : Bundle → State) : State :=
  if s.privDiffers p f then s.mismatch p 6
  else
    match s.decoded p f with
    | .error e => s.decodeTrap p (s.part p).regs.pc e
    | .ok b => k b

/-- The bundle could issue only once its stop's deadline has passed, held back by its cadence or by Isobar: the stop is abandoned at that
deadline at the latest, and the bundle does not issue (R134, R368). -/
def State.pastStop (s : State) (p : Nat) : Bool :=
  (s.part p).stopAt.any fun t => t + 4136 ≤ (s.part p).issT

/-- A decoded bundle: the datum it needs, the stall it meets, the stop whose deadline comes first (R368), the rollback of a poisoned
register that it would consume (R332), or its issue. A bundle that has stalled is judged again as it issues: its guards read one choice for PRIV and for execution (R116). -/
def State.issueBundle (s : State) (p : Nat) (f : Fetched) (b : Bundle) : State :=
  let ops := b.ops.map Prod.snd
  let P := s.part p
  let due := P.nb ≠ 0 || P.stopOpen
  let len := bundleLen f.hdr
  let armed (s : State) : State := s.arm p len (s.issueCycle p b.ops)
  let regs := P.pendingRegs
  let known := !(ops.flatMap Instr.srcs).any fun r => regs.contains r
  let go (s : State) : State :=
    if (armed s).pastStop p then s.abandon p
    else if (armed s).usesPoison p ops then (s.rollback p).dropSlots p
    else ((armed s).cacheFetch (coreOf p) f.loc len f.pol).start p (hdrSkip f.hdr) b.ops
  if due && known && (armed s).needsDatum p ops then s.datum p
  else if !(armed s).stalls p ops then go s
  else
    let s' := s.unstall p
    if (s'.part p).rb ≠ P.rb then s'
    else if (armed s').stalls p ops then { s' with cyc := s'.cyc + 1 }
    else if due && (armed s').needsDatum p ops then s'.datum p
    else s'.judged p f fun _ => go s'

/-- The bundle at the program counter: its fetch, the datum its header asks for, its decoding, and its issue (R123, R139, R141,
R249, R316). An odd address, from a CONT that a supervisor or a trap service left odd too (R312), raises ALIGN here (the model's
choice, assumption 100). -/
def State.nextBundle (s : State) (p : Nat) : State :=
  let P := s.part p
  let pc := P.regs.pc
  if pc.getLsbD 0 then s.trap p ⟨4, pc, detailWord 1 pc.toNat⟩
  else
    match s.fetch p pc.toNat with
    | .error r => s.trap p ⟨3, pc, detailWord r pc.toNat⟩
    | .ok f =>
      match s.fetchPoison pc.toNat f with
      | some a => s.consumeAt p pc 0 a
      | none =>
        if hdrD f.hdr && (P.nb ≠ 0 || P.stopOpen) then s.datum p
        else
          s.judged p f (s.issueBundle p f)

/-- A wait that a stop left outstanding returns REARMED before the next bundle (R261, R309). -/
def State.rearmed (s : State) (p : Nat) (m : Monitor) : State :=
  match (s.mwaitSee m).mwaitRead m with
  | none => s.consumeAt p (s.part p).regs.pc m.loc.space (m.va.toNat / 128 * 128)
  | some x => (s.mwaitSee m).mwaitReturn p m x 1

/-- The operation that waits for the rest of its bundle comes to its turn once nothing of the bundle is left (R125). -/
def State.resumeHeld (s : State) (p : Nat) (o : Slot × Instr) : State :=
  let rb := (s.part p).rb
  let s := s.settle p
  if (s.part p).rb ≠ rb then s
  else if (s.part p).busy then { s with cyc := s.cyc + 1 }
  else { s.updPart p fun P => { P with held := none } with slots := [o] }

/-- Once the M operation of a datum bundle has performed and the bundle is over, its interval commits at once: nothing comes between
(R125, R342). -/
def State.closeSealed (s : State) (p : Nat) : State :=
  let P := s.part p
  if P.sealed && P.datumAfter && P.issLen = 0 then s.datum p else s

/-- What partition p does next at a bundle boundary: poison of its own that a restore has met (R332), a mismatch of the Vane copy
(R328), a late fault (R377), the retirement of an exit (R303), a stop it gives up (R134, R337), a wait (R259, R261), a datum that is
due, or its next bundle. -/
def State.issueOn (s : State) (p : Nat) : State :=
  let P := s.part p
  match s.taskOn p with
  | none => s
  | some t =>
    let ended := P.exiting.isSome && !P.datumAfter
    if P.ownBad.isSome then s.trapNow p ⟨9, P.regs.pc, 0⟩
    else if P.vane && !ended then s.mismatch p 6
    else if !t.late.isEmpty then s.deliverLate p
    else if ended then s.retireExit p
    else if P.stopAt.isSome && ((P.rerun.isSome && P.stopStands) || (P.stopAt.getD 0) + 4136 ≤ s.cyc) then s.abandon p
    else
      match P.regs.mon with
      | some m =>
        if P.dup.mon.isSome then s.rearmed p m
        else if P.stopAt.isSome then (s.updPart p fun P => { P with stopHere := true }).datum p
        else { s with cyc := s.cyc + 1 }
      | none =>
        match P.held with
        | some o => s.resumeHeld p o
        | none => if P.datumAfter then s.datum p else s.nextBundle p

/-- R115. Partition p comes to its next bundle. -/
def execBundleIssue (p : Nat) (s : State) : Out :=
  .next (if 1536 ≤ p then s else (({ s with focus := p } : State).issueOn p).draw)

/-! ### Operations and the end of the bundle -/

/-- Before an operation that makes its bundle a datum, the bundle's other operations complete, or hold it back until they have, and pass
their checks, and run 1 of a rerun pair ends (R125, R337). From there on the interval of an atomic or `enq` can only commit (R342). -/
def State.beforeOp (s : State) (sl : Slot) (i : Instr) : State :=
  if !i.isDatumOp then s
  else
    let p := s.focus
    let rb := s.me.rb
    let s := s.settle p
    if s.me.rb ≠ rb then s
    else if s.me.busy then s.updMe fun P => { P with held := some (sl, i) }
    else
      let s := s.serveChecks p
      let waits := match i with | .mwait .. => true | _ => false
      if s.me.rb ≠ rb || waits then s else s.updMe fun P => { P with sealed := true }

/-- The innermost loop holds its first stage while a stop that found a loop active is pending (R134; a loop begun meanwhile:
assumption 64). -/
def holdLoops (ls : List Loop) : List Loop :=
  ls.dropLast ++ ls.getLast?.toList.map fun l =>
    if l.ns.isSome || l.stopNs.isSome then l else { l with stopNs := some l.started }

/-- A loop that ends takes with it the loop around it whose body ends before its own (R182, R179). -/
def Regs.endOuter (r : Regs) (l : Loop) : Regs :=
  match r.loops.getLast? with
  | some o => if o.endA < l.endA then r.endLoop else r
  | none => r

/-- The end of a body (R131 to R134, R183): the next pass, the re-entry of a loop that a stop has drained, or the end of the
loop, with the datum of R133; at most n loops end at one place. A drain that has started every iteration ends the loop (assumption 80). -/
def Part.endPass (P : Part) : Nat → Part
  | 0 => P
  | n + 1 =>
    match P.regs.loops.getLast? with
    | none => P
    | some l =>
      if P.regs.pc ≠ l.endA then P
      else if l.pass < l.lastPass then
        { P with regs := { P.regs with pc := l.body, loops := P.regs.loops.dropLast ++ [{ l with pass := l.pass + 1 }] } }
      else if l.ns.isNone && l.stopNs.isSome && l.stopNs.getD 0 < l.n then
        { P with
          regs := { P.regs with
            pc := l.body
            loops := P.regs.loops.dropLast ++ [{ l with n := l.n - l.stopNs.getD 0, pass := 0, stopNs := none }] }
          datumAfter := true, stopHere := true }
      else
        let P' : Part :=
          { P with regs := { P.regs.endLoop.endOuter l with pc := l.target }, datumAfter := true
                   stopHere := P.stopHere || P.stopAt.isSome }
        P'.endPass n

/-- The bundle has executed (R115, R116): the loops its control operation leaves come into force, and a pass may end. -/
def Part.finishBundle (P : Part) : Part :=
  if P.issLen = 0 then P
  else
    let ls := P.loopsNext.getD P.regs.loops
    let ls := if P.stopAt.isSome && !P.stopAny then holdLoops ls else ls
    ({ P with regs := { P.regs with loops := ls }, loopsNext := none, issLen := 0 } : Part).endPass 2

/-- The operation writes elements of a vector register, which carry a residue (R330). -/
def State.checked (s : State) (sl : Slot) (i : Instr) : Bool :=
  (sl = .v0 || sl = .v1) && s.live i && i.dests.any fun r => match r with | .v _ => true | _ => false

/-- The operations that wait are executed by `ex`, at most n of them, until the bundle ends or is given up. -/
def State.runSlots (ex : Instr → State → Out) : Nat → State → Out
  | 0, s => .next s
  | n + 1, s =>
    match s.slots with
    | [] => .next (s.updMe Part.finishBundle)
    | (sl, i) :: rest =>
      let s := ({ s with slots := rest } : State).beforeOp sl i
      if s.me.issLen = 0 || s.me.held.isSome then .next { s with slots := [] }
      else
        match ex i s with
        | .next t => State.runSlots ex n (if s.checked sl i then t.residueCheck t.focus else t).draw
        | r => r

/-! ### Other events of a partition -/

/-- R130. The limit on the bundles of an interval is reached: a datum stands before the next. -/
def execBundleLimitDatum (p : Nat) (s : State) : Out :=
  .next (
    let P := s.part p
    if P.task.isSome && P.bundleLimit ≤ P.nb && !P.datumAfter && P.regs.mon.isNone then (s.datum p).draw else s)

/-- R120. The k-th pending read of partition p performs and its result lands. -/
def execInterlockedResult (p k : Nat) (s : State) : Out :=
  .next (if s.pendReady p k then ((s.performPend p k).closeSealed p).draw else s)

/-- R124. The datum that stands at partition p's boundary commits. -/
def execDatumCommit (p : Nat) (s : State) : Out :=
  .next (
    let P := s.part p
    if P.task.isSome && P.datumAfter && P.regs.mon.isNone && P.held.isNone then (s.datum p).draw else s)

/-- R308. EXH latches at a debit that leaves a balance below zero. -/
def execBudgetExhaustion (p : Nat) (s : State) : Out :=
  .next (if (s.part p).task.isSome then s.updPart p Part.balanced else s)

/-- R310. The grace latch is set once GRACE is 0 while a balance is negative. -/
def execGraceExhaustion (p : Nat) (s : State) : Out :=
  .next (
    let P := s.part p
    if P.task.isSome && P.regs.cm && P.grace = 0 && (!P.gl || P.stopAt.isNone) && (P.bgi < 0 || P.bgm < 0)
    then s.updPart p fun P => { P.raiseStop s.cyc with gl := true } else s)

/-- R134, R321. Meridian's stop request reaches partition p. -/
def execStopRequest (p : Nat) (src : StopSource) (s : State) : Out :=
  .next (
    let P := s.part p
    if P.task.isNone || (P.exiting.isSome && !P.datumAfter) then s
    else
      match src with
      | .preempt guaranteed =>
        let cls := match s.launchOn p with | some l => l.record.cls | none => 0
        if cls = 2 || (P.lastRestore && !guaranteed) then s else s.preemptPart p
      | .relocate reg => s.updPart p fun P => { P.raiseStop s.cyc with relocate := some (reg.toNat) })

/-- R134. A stop that has reached no commit within 4,136 cycles is abandoned. -/
def execStopAbandon (p : Nat) (s : State) : Out :=
  .next (
    let P := s.part p
    if P.task.isSome && P.stopAt.isSome && (P.stopAt.getD 0) + 4136 ≤ s.cyc && !(P.exiting.isSome && !P.datumAfter)
    then s.abandon p else s)

/-- A waiting monitor of partition p finds value x: the `mwait` returns when the target is reached (R259). -/
def State.wake (s : State) (p : Nat) (m : Monitor) (x : W64) : State :=
  if mwaitMet x m.target then s.mwaitReturn p m x 0 else s

/-- The monitor of an `mwait` that waits in its own interval. -/
def Part.waitsOn (P : Part) : Option Monitor := if P.dup.mon.isNone then P.regs.mon else none

/-- The waiting monitor of partition p reads its word again (R259, R260). -/
def State.monitorRead (s : State) (p : Nat) (m : Monitor) : State :=
  match (s.mwaitSee m).mwaitRead m with
  | none => s.consumeAt p (s.part p).issA m.loc.space (m.va.toNat / 128 * 128)
  | some x => (s.mwaitSee m).wake p m x

/-- R259. The home reads the watched word again for partition p. -/
def execMonitorWake (p : Nat) (s : State) : Out :=
  .next (
    match (s.part p).waitsOn with
    | none => s
    | some m => s.monitorRead p m)

/-- An answer of a home outside the package is in hand while `f` runs (R348, R359). -/
def State.answering (s : State) (a : Answer) (f : State → State) : State :=
  { f { s with ans := some a } with ans := none }

/-- A place has its home in host memory, or in another package (R16). -/
def State.farFrom (s : State) (host : Bool) (l : Loc) : Bool := !s.localHome l && l.isHost == host

/-- A home outside the package answers the monitor of partition p: a wait in its own interval ends when the word meets its target, and
one that a stop left outstanding returns REARMED with it (R260, R261). -/
def State.monitorAnswer (s : State) (p : Nat) (host : Bool) (a : Answer) : State :=
  let P := s.part p
  match P.regs.mon with
  | none => s
  | some m =>
    if P.task.isNone || !s.farFrom host m.loc then s
    else s.answering a fun s => if P.dup.mon.isSome then s.rearmed p m else s.monitorRead p m

/-- A word read at a home outside the package for the monitor of partition p (R260). -/
def State.farWord (s : State) (p : Nat) (host : Bool) (x : W64) : State := s.monitorAnswer p host (.done (leBytes 8 x.toNat))

/-- R260. A remote home is read again and returns x. -/
def execMwaitRemoteRecheck (p : Nat) (x : W64) (s : State) : Out := .next (s.farWord p false x)

/-- R260. The UCIe module reads the watched host word and finds x. -/
def execMwaitHostPoll (p : Nat) (x : W64) (s : State) : Out := .next (s.farWord p true x)

/-! ### Stores that perform -/

/-- Two stores overlap (R72). -/
def GStore.meets (x y : GStore) : Bool := !(x.cover y.loc y.data.length).isEmpty

/-- Store x must perform before store y of the same task (R72, R77, R78, R79, R86). The pieces of one access keep no order but at one
place, where the later one wins (R87; assumption 57). The order holds for every observer, whatever scope the store named (R80; the
model's choice, assumption 99). -/
def State.storeBefore (s : State) (x y : GStore) : Bool :=
  let far (l : Loc) : Bool := !s.localHome l
  let sameLine := match x.loc, y.loc with | .hbm _, .hbm _ | .host _, .host _ => x.loc.line = y.loc.line | _, _ => false
  x.task == y.task && x.seq < y.seq &&
  (y.rel || x.meets y || (x.op ≠ y.op && x.cls = y.cls && (sameLine || x.rel || !(far x.loc && far y.loc))) ||
    x.before.any fun f => f.1.getLsbD y.cls && f.2 ≤ y.seq)

/-- A released store may perform (R83, R359). -/
def State.storeReady (s : State) (y : GStore) : Bool := (!s.released.any fun x => s.storeBefore x y) && s.wayOpen y.loc

/-- A released store performs at its home (R69, R30, R78), with the poison it carries (R331); L1 follows on the core that issued it and,
where the task has moved on, on the core that runs it now (R72). One whose home cannot be reached is lost,
and one an arena turns away does not perform; both reach the task later (R109, R362, R377). -/
def State.performStore (s : State) (g : GStore) : State :=
  let s := { s with released := s.released.filter fun x => x.seq != g.seq }
  let cs := (coreOf g.part :: ((s.runsOn g.task).map coreOf).toList).eraseDups
  let inL1 (s : State) (f : Core → Core) : State := cs.foldl (fun s c => s.updCore c f) s
  let drained (s : State) : State := if g.inval then inL1 s Core.cinv else s
  (drained (
    if !s.takes g.loc then
      s.lateFault g.task (.poison (BitVec.ofNat 8 g.loc.space) ((BitVec.ofNat 56 (g.va.toNat / 128 * 128))))
    else
      let s := s.sent g.loc fun a => .write a g.data g.bad
      match (s.touch g.loc g.data.length true g.pol).writeHome g.loc g.data with
      | none => s.lateFault g.task (.shadowfull (BitVec.ofNat 64 (g.va.toNat / 128 * 128)))
      | some s => inL1 (if g.bad then s.spoilHome g.loc else s) fun x => x.l1Store g.pol g.loc g.data)).trigs

/-- R69. The k-th released store of partition p performs at its home, when no store before it is left. -/
def execStorePerform (p k : Nat) (s : State) : Out :=
  .next (
    match (s.released.filter fun g => g.part = p)[k]? with
    | none => s
    | some g => if s.storeReady g then s.performStore g else s)

end Sys2Proof.Machine
end

