-- ==== Sys2Proof/Machine/Retire.lean ====
section
/-! DEFINITION. Retirement and evacuation (R25 to R29, R40 to R43, R285), self-tests (R339, R340), the patrol scrubber (R331)
and the faults that strike (R327). Scratchpads, rings and tiles are kept by the names a task uses, so a copy under a cursor
changes the Chart alone (R41, R110). -/

namespace Sys2Proof.Machine

/-! ### Retirement -/

/-- A bank of the core is evacuating, or its reservations await compaction (R40, R43). -/
def State.evacuating (s : State) (c : Nat) : Bool :=
  (s.core c).evac.isSome || (s.core c).compact.isSome || (List.range 4).any fun p => (s.part (4 * c + p)).bank.isSome

/-- Lines, rows or tile rows of a resource of a class (R24, R63). -/
def classLines (cl : Nat) : Nat :=
  match cl with
  | 1 => 1024 | 2 => 256 | 3 => 65 | _ => 0

/-- The capacity register a retirement of a class lowers, as its number minus 0x040 (R25 to R29, R44, R317). -/
def classReg (cl : Nat) : Nat :=
  match cl with
  | 0 => 5 | 1 => 1 | 2 => 2 | 3 => 3 | _ => 4

/-- Victims of a retirement are removed (R45). -/
def State.shrink (s : State) (c reg : Nat) : State := s.removeVictims c reg (s.residents c).length

/-- The copy of a retired resource begins under a cursor (R40, R43). -/
def State.beginEvac (s : State) (c idx spare logical : Nat) (fold : Bool) : State :=
  s.updCore c fun x => { x with evac := some ⟨idx, spare, 0, fold, logical⟩ }

/-- A resource with no spare is retired (R43): state 3, victims, and for a tier of storage the compaction and the fold copy. A way of a
cache gives up its lines (R30, R31). -/
def State.retireLast (s : State) (c idx : Nat) : State :=
  let cl := chartClass idx
  let l := (s.chartAt c idx).logical
  let s := s.setChart c idx fun e => { e with state := 3, logical := 0x7F, cursor := 0 }
  if 6 ≤ cl then s.dropLines c idx
  else
    let s := s.shrink c (classReg cl)
    if 1 ≤ cl && cl ≤ 3 then s.updCore c fun x => { x with compact := some (idx, l) } else s

/-- The spare a retirement uses: the lowest one that serves nothing and is good, none that a self-test has yet to pass (R24, R39, R40). -/
def State.spareFor (s : State) (c idx : Nat) : Option Nat :=
  (classIdx (chartClass idx) (chartPart idx)).find? fun i => i ≠ idx && (s.chartAt c i).state = 0 && (s.chartAt c i).spare

/-- The only spares a retirement could use are in quarantine: it waits for their self-test, since they count as spares that remain (R39,
R40). -/
def State.spareTested (s : State) (c idx : Nat) : Bool :=
  let e := s.chartAt c idx
  (e.state = 0 || e.state = 4) && e.logical ≠ 0x7F && (s.spareFor c idx).isNone &&
  (classIdx (chartClass idx) (chartPart idx)).any fun i => i ≠ idx && (s.chartAt c i).state = 4 && (s.chartAt c i).spare

/-- A resource is retired (R285): nothing in states 1 to 3, a spare at once, an accumulator tile while 76 good ones are left as
under R40, and the others by a spare or under R43. -/
def State.retireRes (s : State) (c idx : Nat) : State :=
  let e := s.chartAt c idx
  let cl := chartClass idx
  if e.state ≠ 0 && e.state ≠ 4 then s
  else if cl = 3 then
    if 76 < s.goodOf c 3 0 then (s.setChart c idx fun e => { e with state := 1, cursor := 0 }).beginEvac c idx idx e.logical false
    else s.retireLast c idx
  else if e.logical = 0x7F then s.setChart c idx fun e => { e with state := 3, cursor := 0 }
  else
    match s.spareFor c idx with
    | none => s.retireLast c idx
    | some i =>
      let s := s.setChart c i fun x => { x with logical := e.logical }
      let p := 4 * c + chartPart idx
      if cl = 0 && (s.part p).task.isSome then
        (s.setChart c idx fun e => { e with state := 1, cursor := 0 }).updPart p fun P => { P with bank := some (idx, i) }
      else if cl = 1 || cl = 2 then (s.setChart c idx fun e => { e with state := 1, cursor := 0 }).beginEvac c idx i e.logical false
      else s.setChart c idx fun e => { e with state := 2, logical := 0x7F, cursor := 0 }

/-- A retirement begins, or waits for the evacuation in progress (R40). A spare in quarantine that is retired has nothing to copy, and what
waits for its self-test can go on (R39). -/
def State.retireOrWait (s : State) (c idx : Nat) : State :=
  if (s.chartAt c idx).state = 4 && (s.chartAt c idx).spare then s.retireRes c idx
  else if s.evacuating c || !(s.core c).waiting.isEmpty || s.spareTested c idx then s.updCore c fun x => { x with waiting := x.waiting ++ [idx] }
  else s.retireRes c idx

/-- The retirements that wait begin, until one has lines to copy; at most n of them (R40). -/
def State.nextRetire (s : State) (c : Nat) : Nat → State
  | 0 => s
  | n + 1 =>
    if s.evacuating c then s
    else
      match (s.core c).waiting with
      | [] => s
      | i :: is => if s.spareTested c i then s else ((s.updCore c fun x => { x with waiting := is }).retireRes c i).nextRetire c n

/-- R285. The k-th released command, an evac, retires its resource, in the order of its core's retirements. -/
def execRetirement (k : Nat) (s : State) : Out :=
  .next (
    match s.cmds[k]? with
    | some c =>
      match c.kind with
      | .evac core idx =>
        let earlier := (s.cmds.take k).any fun d => match d.kind with | .evac x _ => x = core | _ => false
        if earlier || s.heldBy c then s else (s.endCmd k true).retireOrWait core idx
      | _ => s
    | none => s)

/-! ### Copies under the cursor -/

/-- The lowest logical index of a class that nothing serves (R27). -/
def State.unserved (s : State) (c cl : Nat) : Option Nat :=
  (List.range (logicalCount cl)).find? fun l => !s.served c cl 0 l

/-- The physical bank that serves the highest logical index of a class (R27). -/
def State.topBank (s : State) (c cl : Nat) : Option Nat :=
  pick (fun i j => (s.chartAt c j).logical < (s.chartAt c i).logical)
    ((classIdx cl 0).filter fun i => (s.chartAt c i).good && (s.chartAt c i).logical ≠ 0x7F)

/-- The removal copy of a tile-store bank has ended: the bank that served the highest logical index serves the index that was
left without one (R27). -/
def State.relabel (s : State) (c : Nat) : State :=
  match s.topBank c 2, s.unserved c 2 with
  | some i, some l => if l < (s.chartAt c i).logical then s.setChart c i fun e => { e with logical := l } else s
  | _, _ => s

/-- The cursor passes one more line; the last one ends the evacuation, and a bank that had a spare enters state 2 (R40). -/
def State.copyLine (s : State) (c : Nat) (fold : Bool) : State :=
  match (s.core c).evac with
  | none => s
  | some v =>
    if v.fold ≠ fold then s
    else
      let cl := chartClass v.idx
      let k := v.cursor + 1
      if k < classLines cl then
        let s := s.updCore c fun x => { x with evac := some { v with cursor := k } }
        if fold then s else s.setChart c v.idx fun e => { e with cursor := k }
      else
        let s := s.updCore c fun x => { x with evac := none }
        if !fold then s.setChart c v.idx fun e => { e with state := 2, logical := 0x7F, cursor := 0 }
        else if cl = 2 then s.relabel c
        else s

/-- R40. The evacuation engine of a core copies one line, or takes up a retirement that waits. The line is copied whole in the event, so
no access ever meets a line half copied (R41). -/
def execEvacuationLineCopy (core : Nat) (s : State) : Out :=
  .next (if 384 ≤ core then s else (s.copyLine core false).nextRetire core 1)

/-- R43. The reservations of a core move to the lowest rows, units and tiles, and the fold or removal copy begins; while they fit only
without a task that is exiting, both wait for its `exit` to retire (R376). -/
def execCompaction (core : Nat) (s : State) : Out :=
  .next (
    match (s.core core).compact with
    | none => s
    | some (i, l) =>
      let s := s.shrink core (classReg (chartClass i))
      if s.overfull core (s.residents core) then s
      else ((s.packCore core).updCore core fun x => { x with compact := none }).beginEvac core i i l true)

/-- R26, R43. A line of a folded or removed bank is copied to its new place. -/
def execFoldCopy (core : Nat) (s : State) : Out := .next (s.copyLine core true)

/-! ### Where a line lies -/

/-- The physical bank that serves a logical scratchpad bank when no evacuation runs (R26). -/
def State.bankOf (s : State) (c l : Nat) : Option Nat :=
  (classIdx 1 0).find? fun i => (s.chartAt c i).state ≠ 1 && (s.chartAt c i).good && (s.chartAt c i).logical = l

/-- The folded logical banks of a core, in ascending order (R26). -/
def State.foldedBanks (s : State) (c : Nat) : List Nat := (List.range 32).filter fun l => !s.served c 1 0 l

/-- The unfolded logical banks, in ascending order: G of R26. -/
def unfolded (fs : List Nat) : List Nat := (List.range 32).filter (!fs.contains ·)

/-- Where the placement of R26 with folded banks `fs` holds the line of a logical bank and row, the physical banks being as `bank` says: a
bank's own place, or for a folded bank a row from ROWS up in another. -/
def placedBy (bank : Nat → Option Nat) (fs : List Nat) (l r : Nat) : Option (Nat × Nat) :=
  let gs := unfolded fs
  let rows := 1024 - 32 * fs.length
  match fs.findIdx? (· = l) with
  | none => (bank l).map fun b => (b, r)
  | some j =>
    let n := j * rows + r
    (bank (nth 0 gs (n % gs.length))).map fun b => (b, rows + n / gs.length)

/-- A scratchpad bank that lines are leaving: its Chart index, the logical index it serves or served, and the row of the cursor; none of
them has left while it awaits compaction, which its last part says (R41, R43). -/
def State.leaving (s : State) (c : Nat) : Option (Nat × Nat × Nat × Bool) :=
  match (s.core c).evac, (s.core c).compact with
  | some v, _ => if chartClass v.idx = 1 then some (v.idx, v.logical, v.cursor, false) else none
  | none, some (i, l) => if chartClass i = 1 then some (i, l, 0, true) else none
  | none, none => none

/-- The placement before the bank of Chart index i, which served logical bank l, was retired (R26, R376). -/
def State.placedBefore (s : State) (c i l : Nat) (x r : Nat) : Option (Nat × Nat) :=
  placedBy (fun k => if k = l then some i else s.bankOf c k) ((s.foldedBanks c).filter (· ≠ l)) x r

/-- The physical bank and row of a scratchpad line of a core (R41): as before a retirement while its copy waits (R376), and then below the
cursor the new place, from it on the old one in the bank that is left. When a second bank is folded, lines of banks folded before move to
their new places at once (R26; the model's choice, assumption 96). -/
def State.locate (s : State) (c line : Nat) : Option (Nat × Nat) :=
  let now := placedBy (s.bankOf c) (s.foldedBanks c) (line % 32) (line / 32)
  match s.leaving c with
  | none => now
  | some (i, l, k, waits) =>
    let old := s.placedBefore c i l (line % 32) (line / 32)
    if waits then old
    else
      match old with
      | some (b, r) => if b = i && k ≤ r then old else now
      | none => now

/-- The lines that may lie in a row of a placement with folded banks `fs`: those of the row, and for a row from ROWS up those of the folded
banks that it holds (R26). -/
def rowLines (fs : List Nat) (row : Nat) : List Nat :=
  let rows := 1024 - 32 * fs.length
  let gs := unfolded fs
  (List.range 32).map (fun l => 32 * row + l) ++
  if row < rows then []
  else (List.range gs.length).map fun k =>
    let n := (row - rows) * gs.length + k
    32 * (n % rows) + nth 0 fs (n / rows)

/-- The line of a core that lies at a physical bank and row. -/
def State.lineAt (s : State) (c bank row : Nat) : Option Nat :=
  let fs := s.foldedBanks c
  let before := match s.leaving c with | some (_, l, _) => rowLines (fs.filter (· ≠ l)) row | none => []
  (rowLines fs row ++ before).find? fun x => s.locate c x = some (bank, row)

/-! ### Quarantine and self-test -/

/-- R340. ERRS of an entry has risen by 64 within 2^32 cycles: its core is quarantined. -/
def execErrsThreshold (core idx : Nat) (s : State) : Out :=
  .next (
    let e := s.chartAt core idx
    match e.recent[63]? with
    | none => s
    | some t =>
      if 2 ^ 32 < e.recent.headD 0 - t then s
      else (s.setChart core idx fun e => { e with recent := [] }).quarantine core [idx])

/-- Entries in state 4 that the self-test passes return to state 0 (R339). -/
def State.passEntries (s : State) (c : Nat) (failing : List Nat) : State :=
  (List.range 324).foldl (fun s i =>
    if (s.chartAt c i).state = 4 && !failing.contains i then s.setChart c i fun e => { e with state := 0 } else s) s

/-- The images of tasks kept on the core are restored (R339). -/
def State.restoreKept (s : State) (c : Nat) : State :=
  ((s.residents c).filter fun t => !t.images.isEmpty).foldl State.dropImages s

/-- The rows and columns of the array that the diagnostic takes out for its faulty processing elements (R341): the columns and the rows
with more than one, and for each element left a row while spare rows last, otherwise its column (assumption 71). -/
def spareChoice (srow : Nat) (pes : List (Nat × Nat)) : List Nat × List Nat :=
  let many (l : List Nat) : List Nat := (l.filter fun x => 1 < l.count x).eraseDups
  let pes := pes.eraseDups
  let cols := many (pes.map Prod.snd)
  let left := pes.filter fun e => !cols.contains e.2
  let rows := many (left.map Prod.fst)
  let one := left.filter fun e => !rows.contains e.1
  (rows ++ (one.take (srow - rows.length)).map Prod.fst, (cols ++ (one.drop (srow - rows.length)).map Prod.snd).eraseDups)

/-- The Chart entries of the array that a self-test takes out (R341). -/
def State.arrayFailing (s : State) (c : Nat) (res : SelfTest) : List Nat :=
  let (rows, cols) := spareChoice (s.sparesOf c 4 0) res.pes
  (rows.filterMap fun r => (classIdx 4 0)[r]?) ++ cols.filterMap fun j => (classIdx 5 0)[j]?

/-- Chart entries that fail, the spares among them first: none of them replaces another (R39). -/
def State.sparesFirst (s : State) (c : Nat) (is : List Nat) : List Nat :=
  (is.filter fun i => (s.chartAt c i).logical = 0x7F) ++ is.filter fun i => (s.chartAt c i).logical ≠ 0x7F

/-- R339, R341. The self-test of a quarantined core ends: entries return to service or are retired, failing logic takes partitions or
the matrix engine out, suspended tasks may run again or fall under R45, and the result is logged. -/
def execSelfTestComplete (core : Nat) (res : SelfTest) (s : State) : Out :=
  .next (
    if !(s.core core).quar then s
    else
      let out := s.sparesFirst core (res.failing ++ s.arrayFailing core res).eraseDups
      let s := ((s.passEntries core out).restoreKept core).updCore core fun x => { x with quar := false }
      let s := out.foldl (fun s i => if i < 324 then s.retireOrWait core i else s) s
      let s :=
        if res.checker then (s.updCore core fun x => { x with mxOut := true }).shrink core 4 else s
      let ps := if res.shared then 0xF else res.parts
      let s := if ps = 0 then s else (s.updCore core fun x => { x with partsOut := x.partsOut ||| ps }).shrink core 5
      let bad := !out.isEmpty || res.checker || res.shared || res.parts != 0
      s.log 15 (if bad then 4 else 6) (coreIsland core 0) core 0 (out.headD 0x1FF) 0 0)

/-! ### Faults -/

/-- The island whose counter an entry's errors go to (R343, R365). -/
def classIsland (core idx : Nat) : Nat :=
  match chartClass idx with
  | 2 | 3 => coreIsland core 2
  | 4 | 5 => coreIsland core 1
  | 7 => 1152 + clusterOf core
  | _ => coreIsland core 0

/-- The last word of a record that holds an ECC syndrome, to which the spec gives no value (R345): a free one. -/
def State.syndrome (s : State) : Nat := (Config.freeBits (s.freeIx 302) 32).toNat * 2 ^ 32

/-- An island of a core that no resource in service needs is powered down (R366). -/
def State.unpowered (s : State) (core k : Nat) : Bool :=
  !s.coreServes core || (k = 1 && !s.capMx core)

/-- The stack that holds a local address is absent, and the island of its controller powered down (R366, R369 step 4). -/
def State.stackOff (s : State) (a : Nat) : Bool := s.absent.getLsbD (a % 2 ^ 39 / 2 ^ 36)

/-- The Chart index of the good resource of a class that serves a logical index, or 0x1FF (R38, R345). -/
def State.indexOf (s : State) (core cl part l : Nat) : Nat :=
  ((classIdx cl part).find? fun i => (s.chartAt core i).good && (s.chartAt core i).logical = l).getD 0x1FF

/-- The Chart index of the physical accumulator tile that stands for a logical one, which the Chart does not record (R28, R345): a free
choice among the good ones. -/
def State.someTile (s : State) (core : Nat) : Nat :=
  let is := (classIdx 3 0).filter fun i => (s.chartAt core i).good
  nth 0x1FF is ((Config.freeBits (s.freeIx 305) 8).toNat % max 1 is.length)

/-- The partition field of a record for what a task keeps on its core: the partition that runs the task (R345; assumption 87). -/
def Task.partField (t : Task) : Nat := match t.st with | .running p => p % 4 | _ => 0

/-- A granule of HBM4 that cannot be corrected is poisoned, counted and logged (R331, R343, R345). -/
def State.poisonLine (s : State) (l : Nat) : State :=
  let isl := memIsland (128 * l)
  if s.stackOff (128 * l) then s
  else
    let s := { s with mem := s.mem.addPoison (s.own (128 * l) / 128) }
    ((s.countErr isl 1 0 0).log 4 (s.openOutcome 300) isl 0x1FF 0 0x1FF (128 * l) s.syndrome).draw

/-- The data of a line in the memory-side cache, at a local address, cannot be corrected: the line is poisoned, and counted and logged for
the slice's SRAM and the way that holds it (R31, R327, R331, R345; assumption 93). -/
def State.poisonCached (s : State) (a : Nat) : State :=
  let line := s.own a / 128
  let cl := sliceOf line
  match (s.slice cl).find? fun e => e.line = line with
  | none => s
  | some e =>
    let isl := classIsland (8 * cl) (308 + e.way)
    let s := { s with mem := s.mem.addPoison line }
    ((s.countErr isl 1 0 0).log 2 (s.openOutcome 300) isl (8 * cl) 0 (308 + e.way) a s.syndrome).draw

/-- A granule of a core's SRAM, a partition's when one is named, cannot be corrected: unless its island is powered down (R366) it is
poisoned as f says, counted and logged (R331, R343, R345). -/
def State.poisonSram (s : State) (core k part idx : Nat) (f : State → State) : State :=
  if s.unpowered core k then s
  else
    ((f s).countErr (coreIsland core k) 1 0 0 |>.log 2 (s.openOutcome 300) (coreIsland core k) core part idx 0 s.syndrome).draw

/-- A granule of partition p's registers, duplicate set or journal is poisoned; `idx` is the Chart index of what holds it. -/
def State.poisonPart (s : State) (p idx : Nat) (f : Part → Part) : State :=
  if (s.part p).task.isSome then s.poisonSram (coreOf p) 0 (p % 4) idx fun s => s.updPart p f else s

/-- A word of a core's SRAM is corrected, counted and logged (R343, R345). -/
def State.correctSram (s : State) (core k part idx : Nat) : State :=
  if s.unpowered core k then s
  else ((s.countErr (coreIsland core k) 0 0 1).log 1 0 (coreIsland core k) core part idx 0 s.syndrome).draw

/-- The Chart index of the register bank that holds a granule of partition p; scalars, predicates and masks lie in none (R24, R25). -/
def State.bankIndex (s : State) (p : Nat) (r : RegBank) : Nat :=
  match r with
  | .v n => s.indexOf (coreOf p) 0 (p % 4) (n / 4)
  | _ => 0x1FF

/-- The Chart index of the tile-store bank where a slot of a ring begins (R27, R229). -/
def State.slotIndex (s : State) (core : Nat) (t : Task) (q i : Nat) : Nat :=
  match KMap.find t.res.rings q with
  | some r => s.indexOf core 2 0 ((t.res.unit0 + r.base + i * slotBytes r.sz / 8192) / 4)
  | none => 0x1FF

/-- R331. The patrol scrubber reads a line: one it cannot correct is poisoned. -/
def execPatrolScrub (line : Nat) (bad : Bool) (s : State) : Out :=
  .next (
    let l := line % 2 ^ 32
    if bad && !s.mem.poison.contains (s.own (128 * l) / 128) then s.poisonLine l else s)

/-- The task whose reservation holds the line of a physical scratchpad bank and row, numbered bank by bank, with the line's place in it
(R22, R26, R41). -/
def State.ownerOfLine (s : State) (core x : Nat) : Option (Task × Nat) :=
  match (classIdx 1 0)[x / 1024]?.bind fun b => s.lineAt core b (x % 1024) with
  | none => none
  | some line =>
    (s.residents core).findSome? fun t =>
      if 32 * t.res.row0 ≤ line && line < 32 * (t.res.row0 + t.res.rows) then some (t, line - 32 * t.res.row0) else none

/-- A ring slot or its data marked poisoned (R331). -/
def Ring.spoil (r : Ring) (i : Nat) : Ring :=
  match KMap.find r.slots i with
  | some x => { r with slots := KMap.set r.slots i { x with data := { x.data with poison := true } } }
  | .none => r

/-- A bit of a stored byte inverted (R327). -/
def Store.flipBit (st : Store) (a bit : Nat) : Store :=
  { st with cells := Mem.writeN st.cells a [Mem.read st.cells a ^^^ BitVec.twoPow 8 (bit % 8)] }

/-- A partition of a running task changed; nothing where none runs, nor where the interval can only commit or has (R342, R303). -/
def State.strikePart (s : State) (p : Nat) (f : Part → Part) : State :=
  let P := s.part p
  if P.task.isSome && !P.sealed && (P.exiting.isNone || P.datumAfter) then s.updPart p f else s

/-- The k-th withheld store of a partition holds poisoned bytes. -/
def Part.spoilStore (P : Part) (k : Nat) : Part :=
  { P with sb := P.sb.mapIdx fun i d => match d with | .store g => if i = k then .store { g with bad := true } else d | .cmd _ => d }

/-- A granule of the register file or of the duplicate set that a strike can reach: s0, p0 and m0 hold nothing (R114). -/
def bankReal : RegBank → Bool
  | .v n => n < 32
  | .m n => 0 < n && n < 8
  | .ctl r => ctlReal r

/-- R327. A soft error or hardware fault strikes; the checks of the SV9 find it later, or the ECC at once. -/
def execSoftError (e : SoftErr) (s : State) : Out :=
  .next (
    match e with
    | .vane p => s.strikePart p fun P => { P with vane := true }
    | .residue p => s.strikePart p fun P => { P with residue := true }
    | .flip p r bit own => s.strikePart p fun P => P.flipCtl r bit own
    | .bufCorrected p => s.correctSram (coreOf p) 0 (p % 4) 0x1FF
    | .journal p line =>
      s.poisonPart p 0x1FF fun P => { P with journal := P.journal.map fun j => if j.line = line then { j with bad := true } else j }
    | .storeBuf p k => s.poisonPart p 0x1FF fun P => P.spoilStore k
    | .dupReg p r => if bankReal r then s.poisonPart p (s.bankIndex p r) fun P => { P with dpoison := r :: P.dpoison } else s
    | .mreg p r => if bankReal (.m r) then s.poisonPart p 0x1FF fun P => { P with rpoison := .m r :: P.rpoison } else s
    | .rowRepair addr => (s.log 5 (s.openOutcome 304) (memIsland addr) 0x1FF 0 0x1FF addr 0).draw
    | .ucieFlit m => if !s.ucie.getLsbD (m % 4) then s else (s.countErr (1236 + m % 4) 0 0 1).log 12 0 (1236 + m % 4) 0x1FF 0 0x1FF 0 0
    | .drain core row col bit => s.updCore core fun x => { x with flips := x.flips ++ [(row, col, bit)] }
    | .corrected core idx =>
      if 324 ≤ idx then s
      else if chartClass idx = 7 then
        (((s.addErr core idx).countErr (classIsland core idx) 0 0 1).log 1 0 (classIsland core idx) core 0 idx 0 s.syndrome).draw
      else
        let k := classIsland core idx - coreIsland core 0
        if s.unpowered core k then s else (s.addErr core idx).correctSram core k (chartPart idx) idx
    | .memCorrected addr => if s.stackOff addr then s else ((s.countErr (memIsland addr) 0 0 1).log 3 0 (memIsland addr) 0x1FF 0 0x1FF addr s.syndrome).draw
    | .memLine addr => s.poisonLine (addr % 2 ^ 39 / 128)
    | .cacheLine addr => s.poisonCached (addr % 2 ^ 39)
    | .spLine core line =>
      match s.ownerOfLine core line with
      | none => s
      | some (t, l) =>
        s.poisonSram core 0 t.partField (36 + line / 1024) fun s => s.updResOf t.id fun r => { r with sp := r.sp.addPoison l }
    | .slot core ring idx =>
      match (s.residents core).find? fun t => t.res.rmask.getLsbD ring with
      | none => s
      | some t => s.poisonSram core 2 t.partField (s.slotIndex core t ring idx) fun s => s.updRingBoth t.id ring fun r => r.spoil idx
    | .statBuf p b =>
      let spoil : Option TileData → Option TileData := Option.map fun d => { d with poison := true }
      s.poisonSram (coreOf p) 1 (p % 4) 0x1FF fun s => s.updRes p fun r =>
        { r with stat := if b = 0 then { r.stat with b0 := spoil r.stat.b0 } else { r.stat with b1 := spoil r.stat.b1 } }
    | .accRow core tile row =>
      match (s.residents core).find? fun t => t.res.tmask.getLsbD tile with
      | none => s
      | some t => s.poisonSram core 2 t.partField (s.someTile core) fun s => s.updResOf t.id fun r => { r with tpoison := (tile, row % 65) :: r.tpoison }
    | .vreg p r => s.poisonPart p (s.bankIndex p (.v (r % 32))) fun P => { P with rpoison := .v (r % 32) :: P.rpoison }
    | .ctlReg p r => if ctlReal r then s.poisonPart p 0x1FF fun P => { P with rpoison := .ctl r :: P.rpoison } else s
    | .cacheParity core => s.updCore core fun x => { x.cinv with ic := [] }
    | .tileData core line bit =>
      match s.ownerOfLine core line with
      | none => s
      | some (t, l) =>
        s.updResOf t.id fun r => { r with sp := r.sp.flipBit (128 * l + bit / 8 % 128) bit })

end Sys2Proof.Machine
end

