-- ==== Sys2Proof/Machine/Host.lean ====
section
/-! DEFINITION. What the host does: accesses to device memory (R348 to R350), the host register space (R352 to R357, R286, R17),
and completions of the package's own accesses to host memory (R348, R362). -/

namespace Sys2Proof.Machine

/-- The host attachment is up: a module is in the hash, a version is agreed, and bring-up has opened the register space (R346,
R347, R369). -/
def State.hostUp (s : State) : Bool := s.ucie != 0 && s.bhp != 0 && (s.sideband = 0 || s.sideband = 4)

/-! ### Accesses of the host -/

/-- A completion goes to a requester (R348). -/
def State.reply (s : State) (rq status : Nat) (bs : List Byte) : State := { s with cpls := ⟨rq, status, bs⟩ :: s.cpls }

/-- The access breaks a rule of its message (R348): its address is not aligned to `al`, or it crosses a line. -/
def bhpBad (addr n al : Nat) : Bool := n = 0 || 128 < n || addr % al ≠ 0 || 128 < addr % 128 + n

/-- A local address the message names is HBM4 (R348). -/
def bhpIn (addr n : Nat) : Bool := addr + n ≤ 2 ^ 39

/-- A host access under its rules: UNSUP for one that breaks them, ADDR outside HBM4, LINKDOWN for a stack that is absent, and
otherwise what `f` does at the home. -/
def State.bhp1 (s : State) (rq addr n : Nat) (bad : Bool) (f : Loc → State) : State :=
  let l : Loc := .hbm (s.own addr)
  if !s.hostUp then s
  else if bad then s.reply rq 4 []
  else if !bhpIn addr n then s.reply rq 1 []
  else if !s.reachable l then s.reply rq 5 []
  else f l

/-- A read of the host completes with the bytes of the line, and with POISON when it is poisoned (R350). -/
def State.bhpRead (s : State) (rq : Nat) (l : Loc) (n : Nat) : State :=
  (s.reply rq (if s.poisonedAt l n then 3 else 0) (s.readHome l n)).draw

/-- The bytes a mask selects, as runs of offset and bytes; `o` is the place of the first byte. -/
def maskRuns (mask : BitVec 128) : Nat → List Byte → List (Nat × List Byte)
  | _, [] => []
  | o, b :: bs =>
    let rest := maskRuns mask (o + 1) bs
    if !mask.getLsbD o then rest
    else
      match rest with
      | (k, xs) :: rs => if k = o + 1 then (o, b :: xs) :: rs else (o, [b]) :: rest
      | [] => [(o, [b])]

/-- Runs of bytes applied at their home; none when the snapshot logic refuses the line (R350). -/
def State.writeRuns (s : State) (l : Loc) : List (Nat × List Byte) → Option State
  | [] => some s
  | (o, bs) :: rs =>
    match s.writeBy (l.add o) bs with
    | none => none
    | some s => s.writeRuns l rs

/-- A write of the host completes, or is refused with ARENA and does not perform (R350). -/
def State.bhpWrite (s : State) (rq : Nat) (l : Loc) (runs : List (Nat × List Byte)) : State :=
  match s.writeRuns l runs with
  | none => s.reply rq 2 []
  | some s => s.reply rq 0 []

/-- R348. RD of n words at a local address. -/
def execBhpRd (rq addr n : Nat) (s : State) : Out :=
  .next (s.bhp1 rq addr (8 * n) (bhpBad addr (8 * n) 8) fun l => s.bhpRead rq l (8 * n))

/-- R348, R350. WR of n words under a byte mask. -/
def execBhpWr (rq addr n : Nat) (mask : BitVec 128) (data : BitVec 1024) (s : State) : Out :=
  .next (s.bhp1 rq addr (8 * n) (bhpBad addr (8 * n) 8) fun l =>
    s.bhpWrite rq l (maskRuns mask 0 (lineBytes data 0 (8 * n))))

/-- R348, R349. RD.AQ of 8 bytes, a message from version 2 on. -/
def execBhpRdAq (rq addr : Nat) (s : State) : Out :=
  .next (s.bhp1 rq addr 8 (bhpBad addr 8 8 || s.bhp < 2) fun l => s.bhpRead rq l 8)

/-- R348, R349. WR.RL of 8 bytes: every earlier access of its requester has performed, each as its own event. -/
def execBhpWrRl (rq addr : Nat) (data : BitVec 64) (s : State) : Out :=
  .next (s.bhp1 rq addr 8 (bhpBad addr 8 8 || s.bhp < 2) fun l => s.bhpWrite rq l [(0, leBytes 8 data.toNat)])

/-- R349. FENCE: the requester's earlier accesses have performed, each as its own event, and its later ones follow. -/
def execBhpFence (rq : Nat) (s : State) : Out :=
  .next (if s.hostUp then s.reply rq 0 [] else s)

/-- What a host atomic writes (R348). -/
def atNew (size : Nat) (op : AtOp) (y e old : Nat) : Option Nat :=
  match op with
  | .add => some ((old + y) % 2 ^ (8 * size))
  | .xchg => some y
  | .cas => if old = e then some y else none
  | .bad => none

/-- R348, R350. AT of 4 or 8 bytes, indivisible; it completes with the value read. One on a poisoned line returns its bytes
with POISON and writes nothing. -/
def execBhpAt (rq addr size : Nat) (op : AtOp) (y e : BitVec 64) (s : State) : Out :=
  .next (s.bhp1 rq addr size ((size ≠ 4 && size ≠ 8) || bhpBad addr size size || op = .bad) fun l =>
    if s.poisonedAt l size then s.bhpRead rq l size
    else
      let bs := s.readHome l size
      match atNew size op (y.toNat % 2 ^ (8 * size)) (e.toNat % 2 ^ (8 * size)) (leNat bs) with
      | none => (s.reply rq 0 bs).draw
      | some x =>
        match s.writeBy l (leBytes size x) with
        | none => s.reply rq 2 []
        | some s => (s.reply rq 0 bs).draw)

/-! ### Answers of homes outside the package -/

/-- What a status of CPL or RSP says of a read or a write (R348, R359): done, refused by an arena, poisoned, or refused. -/
def answerOf (status : Nat) (write : Bool) (bs : List Byte) : Answer :=
  match status with
  | 0 => .done bs
  | 2 => .arena
  | 3 => .poison
  | _ => .refused write

/-- The places outside the package that a released command reads, and those that it writes. -/
def Cmd.farPlaces (c : Cmd) : List Loc × List Loc :=
  let glob : Place → Option Loc := fun pl => match pl with | .glob l _ => some l | _ => none
  let stamp : Option Spot → List Loc := fun x => match x with | some x => [x.loc] | none => []
  match c.kind with
  | .copy d st _ =>
    if c.done then ([], match st with | .global x => [x.loc] | _ => [])
    else (d.runs.filterMap fun r => glob r.1, d.runs.filterMap fun r => glob r.2)
  | .stamp st _ => ([], match st with | .global x => [x.loc] | _ => [])
  | .sacc _ st _ | .srej _ st _ => ([], stamp st)
  | .snap _ d => ([], stamp d.stamp)
  | .ctarm _ _ d => ([], stamp (if d.rx then d.cstamp else d.sstamp))
  | _ => ([], [])

/-- The lines that a copy has yet to read or write outside the package, each by a place in it (R73, R335). -/
def Cmd.farLines (c : Cmd) : List Loc :=
  let lines (pl : Place) (n : Nat) : List Loc :=
    match pl with
    | .glob l _ => (piecesFrom l.addr n).map fun x => l.add x.1
    | _ => []
  match c.kind with
  | .copy d _ _ =>
    ((d.runs.zipIdx).filter fun x => !c.did.contains x.2).flatMap fun x =>
      (match c.runAt x.2 with
        | some y => y.gets.flatMap fun g => lines (x.1.1.add g.1) g.2
        | none => lines x.1.1 d.sizes.1) ++ lines x.1.2 d.sizes.2
  | _ => []

/-- The event that a released command performs next, for a copy the turn that is named. -/
def Cmd.act (c : Cmd) (x : CopyTurn) (s : State) : Out :=
  match c.kind with
  | .copy .. => if c.done then execCopyStamp x.k s else execCopyExecute x s
  | .stamp .. => execStampWrite x.k s
  | .sacc .. => execSnapshotAccept x.k s
  | .srej .. => execSnapshotReject x.k s
  | .snap .. => execSnapInstall x.k s
  | .ctarm .. => execCollectiveArm x.k s
  | _ => .next s

/-- An act whose outcome is a next state, as every event's is. -/
def runOn (s : State) (f : State → Out) : State :=
  match f s with
  | .next t => t
  | _ => s

/-- A home outside the package, the host's when `host`, answers an access of this package (R16, R69, R348, R359): the access performs at
that home with the answer in hand, as soon as nothing else holds it. For a copy between two such homes `write` says which of the two
answers. An arrival that completes a tile is answered for what the entry then writes, a send for its source image, for what an entry of this
package writes that it has completed, and at its end for its stamp, a prefetch by its line, a read of Meridian's by what it finds, and a pin by whether the page's count had room (R19, R100, R101, R262). -/
def State.farAnswered (s : State) (host : Bool) (who : Asker) (write : Bool) (status : Nat) (bs : List Byte) : State :=
  match who with
  | .read p k =>
    match (s.part p).pend[k]? with
    | none => s
    | some x =>
      if !s.farFrom host x.loc then s
      else
        (s.answering (answerOf status false bs) fun s => if s.pendReady p k then (s.performPend p k).draw else s).closeSealed p
  | .store p k =>
    match (s.released.filter fun g => g.part = p)[k]? with
    | none => s
    | some g =>
      if !s.farFrom host g.loc then s
      else s.answering (answerOf status true bs) fun s => if s.storeReady g then s.performStore g else s
  | .cmd x =>
    match s.cmds[x.k]? with
    | none => s
    | some c =>
      let reads := c.farPlaces.1.any (s.farFrom host)
      let writes := c.farPlaces.2.any (s.farFrom host)
      if !reads && !writes then s
      else
        let w := write || !reads
        s.answering (answerOf status w (if w then [] else bs)) fun s => runOn s (c.act x)
  | .send sd e =>
    let x := s.entry sd e
    match x.desc with
    | none => s
    | some d =>
      if x.half then
        match d.peers.find? fun p => x.sent ≤ p.idx with
        | some p =>
          if !(((s.entry p.sd p.entry).farWrites true).any (s.farFrom host)) then s
          else s.answering (answerOf status true []) fun s => runOn s (execCollectiveSend sd e)
        | none => s
      else if d.peers.any fun p => x.sent ≤ p.idx then
        match d.source with
        | some (.glob l _) =>
          if !s.farFrom host l then s
          else s.answering (answerOf status false bs) fun s => runOn s (execCollectiveSend sd e)
        | _ => s
      else if !(d.sstamp.any fun y => s.farFrom host y.loc) then s
      else s.answering (answerOf status true []) fun s => runOn s (execSendComplete sd e)
  | .arrival sd e c =>
    if !(((s.entry sd e).farWrites c.isSome).any (s.farFrom host)) then s
    else
      s.answering (answerOf status true []) fun s =>
        runOn s (match c with | some c => execContributionArrival sd e c | none => execCollectiveTimeout sd e)
  | .prefetch core k =>
    match (s.core core).pf[k]? with
    | none => s
    | some l =>
      if !s.farFrom host l then s
      else
        let s := s.updCore core fun c => { c with pf := c.pf.eraseIdx k }
        if status = 0 then
          s.answering (.done bs) fun s => let s := s.told l 128; s.l1Put core l (leWord 1024 (s.readHome l 128))
        else s
  | .pin page => if host then s else (s.pinAnswered page (status = 0)).flush
  | .meridian asid va =>
    match s.xlateMeridian asid .load va 1 with
    | .ok l =>
      if !s.farFrom host l then s
      else if status = 0 then s.outside l bs
      else if status = 3 then s.spoilHome l
      else s
    | .error _ => s
  | .wait p => s.monitorAnswer p host (answerOf status false bs)

/-- R348. The host answers an access of this package. -/
def execBhpCpl (who : Asker) (write : Bool) (status : Nat) (data : List (BitVec 8)) (s : State) : Out :=
  .next (s.farAnswered true who write status data)

/-! ### The register space -/

/-- A field of a register word as written, with its reserved bits zero (R7). -/
def keepBits (v : W64) (fields : List (Nat × Nat)) : W64 :=
  fields.foldl (fun r f => r ||| ((BitVec.ofNat 64 (bitsAt v.toNat f.1 f.2)) <<< f.1)) 0

/-- The host registers changed. -/
def State.updRegs (s : State) (f : HostRegs → HostRegs) : State := { s with regs := f s.regs }

/-- Queue registers that a write may change (R286). -/
def qctlFields (v : W64) : W64 := keepBits v [(62, 1), (48, 12), (40, 8), (32, 5), (0, 32)]

/-- WEIGHT and LOG2N are in range (R286). -/
def qctlInRange (v : W64) : Bool :=
  let n := (v.extractLsb' 32 5).toNat
  (v.extractLsb' 40 8).toNat ≠ 0 && if v.getLsbD 62 then 12 ≤ n && n ≤ 24 else n ≤ 16

/-- QCTL of a queue replaced. -/
def State.setQctl (s : State) (q : Nat) (v : W64) : State :=
  s.updRegs fun r => { r with qctl := KMap.set r.qctl q v }

/-- EN is set on queue q, whose fields are in QCTL (R286): Meridian's head comes from HEAD, the watermarks stand at the lowest
ticket that is left, and the queue's bit of QSUP takes effect (R352). -/
def State.loadHead (s : State) (q : Nat) : State :=
  if !qctlInRange (s.qctl q) then s.queueErr q
  else
    let s := s.mAsk (s.qAsid q) [(s.qBlock q + 0x40, 8)]
    match s.mWord (s.qAsid q) (s.qBlock q + 0x40) with
    | none => s.queueErr q
    | some h =>
      let w : W64 := KMap.get 0 s.regs.qsup (q / 64)
      let s := s.updQueue q fun _ => ⟨h, h, h, 0, w.getLsbD (q % 64)⟩
      s.updQueue q fun x =>
        { x with tdone := s.lowTicket q fun l => !l.triggered, cdone := s.lowTicket q fun _ => true }

/-- A write of QCTL (R286, R353): while the queue takes part only EN can be cleared; setting EN before LOCK sets ERR instead. -/
def State.writeQctl (s : State) (q : Nat) (v : W64) : State :=
  let cur := s.qctl q
  let en : W64 := BitVec.twoPow 64 63
  if s.qOn q then (if v.getLsbD 63 then s else s.setQctl q (cur &&& ~~~en))
  else if !v.getLsbD 63 then s.setQctl q (qctlFields v ||| (cur &&& BitVec.twoPow 64 61))
  else if !s.regs.lock then (s.setQctl q (qctlFields v)).queueErr q
  else (s.setQctl q (qctlFields v ||| en)).loadHead q

/-- A base register of a queue, written only while EN = 0 (R286). -/
def State.writeQbase (s : State) (q : Nat) (f : HostRegs → HostRegs) : State := if s.qOn q then s else s.updRegs f

/-- A write of QSUP. What it changes for a queue takes effect when the queue is next enabled (R352; assumption 61). -/
def State.writeQsup (s : State) (i : Nat) (v : W64) : State := s.updRegs fun r => { r with qsup := KMap.set r.qsup i v }

/-- A write of WBASE (R17): the generation rises by one, modulo 2^15. A read of an older table under the new number that no
launch keeps is forgotten. -/
def State.writeWbase (s : State) (a : Nat) (v : W64) : State :=
  let g := (((KMap.get 0 s.regs.wbase a).extractLsb' 48 15).toNat + 1) % 2 ^ 15
  let s := s.updRegs fun r =>
    { r with wbase := KMap.set r.wbase a (keepBits v [(63, 1), (14, 28)] ||| (BitVec.ofNat 64 g <<< 48)) }
  if s.launches.any fun l => l.asid = a && l.gen = g then s
  else { s with gens := s.gens.filter fun x => x.asid ≠ a || x.gen ≠ g }

/-- A byte address in the numbering of another package number (R16, R361). -/
def swapPkg (old new a : Nat) : Nat :=
  if a / 2 ^ 42 = old then new * 2 ^ 42 + a % 2 ^ 42 else if a / 2 ^ 42 = new then old * 2 ^ 42 + a % 2 ^ 42 else a

/-- The pod's memory once this package's number changes from old to new. -/
def Store.renumber (st : Store) (old new : Nat) : Store :=
  { cells := st.cells.foldl (fun m c => Mem.writeN m (swapPkg old new c.1) [c.2]) []
    poison := st.poison.map fun l => swapPkg old new (128 * l) / 128
    undef := st.undef.map fun r => (swapPkg old new r.1, swapPkg old new r.1 + (r.2 - r.1)) }

/-- A write of PODID (R361): ignored above 767 and once LOCK is set. -/
def State.writePodid (s : State) (v : W64) : State :=
  let n := v.toNat % 1024
  if s.regs.lock || 767 < n || n = s.regs.podid then s
  else { s with mem := s.mem.renumber s.regs.podid n, regs := { s.regs with podid := n } }

/-- A write of FEATACC (R353): ANDed with what is offered, until LOCK. -/
def State.writeFeat (s : State) (i : Nat) (v : W64) : State :=
  if s.regs.lock then s
  else s.updRegs fun r => { r with featacc := setNth r.featacc i (v &&& nth 0 r.featoff i) }

/-- A write of FEATCTL (R353): 1 in LOCK sets it for good. -/
def State.writeFeatctl (s : State) (v : W64) : State :=
  if v.getLsbD 63 then s.updRegs fun r => { r with lock := true } else s

/-- A write of QUIESCE (R304): every halt line is cleared, and every core accepts dispatch again. -/
def State.writeQuiesce (s : State) (v : W64) : State :=
  let s := s.updRegs fun r => { r with quiesce := keepBits v [(63, 1), (3, 36)] }
  { s with cores := s.cores.map fun e => (e.1, { e.2 with halted := false, accepting := true }) }

/-- A write of INTCAUSE (R354): 1 clears a bit. -/
def State.writeCause (s : State) (v : W64) : State := s.updRegs fun r => { r with intcause := r.intcause &&& ~~~v }

/-- A write of HTOPUP (R357, R315): the amount goes to the task of HTSEL as a supervisor bgadd. -/
def State.writeTopup (s : State) (v : W64) : State := s.credit s.regs.htsel (v.getLsbD 63) (v.toNat % 2 ^ 47)

/-- The word of a ring register (R344, R355). -/
def ringWord (v : W64) : W64 := keepBits v [(63, 1), (40, 4), (12, 27)]

/-- A place of the register space: its array and number. -/
def regAt (off base n : Nat) : Option Nat := if base ≤ off && off < base + 8 * n then some ((off - base) / 8) else none

/-- A REGWR to an offset of the register space (R352): read-only registers and unlisted offsets ignore it. -/
def State.regWrite (s : State) (off : Nat) (v : W64) : State :=
  if !s.hostUp then s
  else if let some i := regAt off 0x20 4 then s.writeFeat i v
  else if let some i := regAt off 0x1000 64 then s.writeQsup i v
  else if let some a := regAt off 0x10000 4096 then s.writeWbase a v
  else if let some a := regAt off 0x20000 4096 then
    s.updRegs fun r => { r with traph := KMap.set r.traph a (keepBits v [(63, 1), (56, 3), (0, 49)]) }
  else if let some a := regAt off 0x28000 4096 then
    s.updRegs fun r => { r with trapv := KMap.set r.trapv a (keepBits v [(18, 38)]) }
  else if let some q := regAt off 0x40000 4096 then s.writeQctl q v
  else if let some q := regAt off 0x48000 4096 then
    s.writeQbase q fun r => { r with qring := KMap.set r.qring q (keepBits v [(7, 49)]) }
  else if let some q := regAt off 0x50000 4096 then
    s.writeQbase q fun r => { r with qblk := KMap.set r.qblk q (keepBits v [(7, 49)]) }
  else
    match off with
    | 0x40 => s.writeFeatctl v
    | 0x48 => s.updRegs fun r => { r with spill := keepBits v [(40, 24), (18, 21)] }
    | 0x50 => s.writeQuiesce v
    | 0x58 => s.updRegs fun r => { r with logq := ringWord v }
    | 0x60 => s.updRegs fun r => { r with htrapq := ringWord v }
    | 0x68 => s.updRegs fun r => { r with intctl := keepBits v [(0, 7)] }
    | 0x70 => s.writeCause v
    | 0x78 => s.updRegs fun r => { r with pinq := keepBits v [(62, 2), (18, 34)] }
    | 0x80 => s.updRegs fun r => { r with poolq := keepBits v [(63, 1), (0, 32)] }
    | 0x88 => s.writeTopup v
    | 0x90 => s.applyAct v
    | 0x98 => s.writePodid v
    | 0xA0 => s.updRegs fun r => { r with htsel := v }
    | _ => s

/-- COUNT of PINQ (R356); an HBM4 page is named by its local address (R15, R348). -/
def State.pinqCount (s : State) : Nat :=
  let tgt := (s.regs.pinq.extractLsb' 62 2).toNat
  let page := (s.regs.pinq.extractLsb' 18 34).toNat
  if tgt = 0 then s.pinCount (false, s.own (2 ^ 18 * (page % 2 ^ 24)) / 2 ^ 18) else if tgt = 2 then s.pinCount (true, page) else 0

/-- The pool POOLQ names (R357). -/
def State.poolRead (s : State) : W64 :=
  match s.launch (s.regs.poolq.extractLsb' 0 32) with
  | some l => BitVec.ofInt 64 (if s.regs.poolq.getLsbD 63 then l.poolM else l.poolI)
  | none => 0

/-- ERRC of an island (R343). -/
def State.errcWord (s : State) (i : Nat) : W64 :=
  let e := s.errc i
  BitVec.ofNat 64 (e.1 * 2 ^ 48 + e.2.1 * 2 ^ 32 + e.2.2)

/-- What REGRD of an aligned offset returns (R352); write-only registers and unlisted offsets read 0. -/
def State.regRead (s : State) (off : Nat) : W64 :=
  if let some i := regAt off 0 4 then nth 0 s.regs.featoff i
  else if let some i := regAt off 0x20 4 then nth 0 s.regs.featacc i
  else if let some i := regAt off 0x1000 64 then KMap.get 0 s.regs.qsup i
  else if let some a := regAt off 0x10000 4096 then KMap.get 0 s.regs.wbase a
  else if let some a := regAt off 0x20000 4096 then KMap.get 0 s.regs.traph a
  else if let some a := regAt off 0x28000 4096 then KMap.get 0 s.regs.trapv a
  else if let some q := regAt off 0x40000 4096 then s.qctl q
  else if let some q := regAt off 0x48000 4096 then KMap.get 0 s.regs.qring q
  else if let some q := regAt off 0x50000 4096 then KMap.get 0 s.regs.qblk q
  else if let some i := regAt off 0x60000 1241 then s.errcWord i
  else
    match off with
    | 0x40 => (if s.regs.lock then BitVec.twoPow 64 63 else 0) ||| 3
    | 0x48 => s.regs.spill
    | 0x50 => s.regs.quiesce
    | 0x58 => s.regs.logq
    | 0x60 => s.regs.htrapq
    | 0x68 => s.regs.intctl
    | 0x70 => s.regs.intcause
    | 0x78 => BitVec.ofNat 64 s.pinqCount
    | 0x80 => s.poolRead
    | 0x98 => BitVec.ofNat 64 s.regs.podid
    | _ => 0

/-- A REGWR or REGRD of requester `rq` once the register space is open (R369 step 6): it completes with OK, or with UNSUP and nothing
done when its offset is not 8-aligned (R348). -/
def State.regAccess (s : State) (rq off : Nat) (bs : List Byte) (t : State) : State :=
  if !s.hostUp then s else if off % 8 ≠ 0 then s.reply rq 4 [] else t.reply rq 0 bs

/-- A REGWR to a register of the space, which `t` follows (R348). -/
def State.regWritten (s : State) (w : RegWr) (t : State) : State := s.regAccess w.rq 0 [] t

/-- R352, R348. REGWR of a value to a register, or REGRD of one. -/
def execRegisterWrite (off : Nat) (m : RegMsg) (s : State) : Out :=
  .next (match m.v with
    | some x => s.regAccess m.rq off [] (s.regWrite off x)
    | none => s.regAccess m.rq off (leBytes 8 (s.regRead off).toNat) s)

/-- R17. Write WBASE[a]. -/
def execWbaseWrite (a : Nat) (w : RegWr) (s : State) : Out :=
  .next (s.regWritten w (if a < 4096 then s.writeWbase a w.v else s))

/-- R286. A write of QCTL[q] that sets EN, with the other fields given. -/
def execQueueEnable (q : Nat) (w : RegWr) (s : State) : Out :=
  .next (s.regWritten w (if q < 4096 then s.writeQctl q (w.v ||| BitVec.twoPow 64 63) else s))

/-- R286. A write of QCTL[q] with EN clear: admission from the queue stops. -/
def execQueueDisable (q : Nat) (w : RegWr) (s : State) : Out :=
  .next (s.regWritten w (if q < 4096 then s.writeQctl q (w.v &&& ~~~(BitVec.twoPow 64 63)) else s))

/-- R353. A write of FEATCTL. -/
def execFeatctlLock (w : RegWr) (s : State) : Out := .next (s.regWritten w (s.writeFeatctl w.v))

/-- R304. A write of QUIESCE. -/
def execQuiesceClear (w : RegWr) (s : State) : Out := .next (s.regWritten w (s.writeQuiesce w.v))

/-- R354. A write of INTCAUSE. -/
def execIntcauseClear (w : RegWr) (s : State) : Out := .next (s.regWritten w (s.writeCause w.v))

/-- R355, R320. A write of HTRET: TCTL.ACT is applied to the trapped task of that TASKID. -/
def execHtret (w : RegWr) (s : State) : Out := .next (s.regWritten w (s.applyAct w.v))

/-- R357, R315. A write of HTOPUP. -/
def execHtopup (w : RegWr) (s : State) : Out := .next (s.regWritten w (s.writeTopup w.v))

end Sys2Proof.Machine
end

