-- ==== Sys2Proof/Machine/Link.lean ====
section
/-! DEFINITION. Galtum Link (R358 to R363, R335): ports, requests of other packages at this package's homes (R16, R109), answers
to this package's own requests, and the loss of a UCIe module (R346). -/

namespace Sys2Proof.Machine

/-- A port (R358). -/
def State.port (s : State) (n : Nat) : Port := KMap.get Port.down s.ports n

/-- A port changed. -/
def State.updPort (s : State) (n : Nat) (f : Port → Port) : State := { s with ports := KMap.set s.ports n (f (s.port n)) }

/-- Some port is up. -/
def State.anyPort (s : State) : Bool := (List.range 16).any fun n => (s.port n).up

/-- OUTCOME of a port's log record, to which the list of R345 gives no code: a free value. -/
def State.portOutcome (s : State) : Nat := (Config.freeBits (s.freeIx 301) 8).toNat % 7

/-- The version that a port runs: the highest that both ends offer, of which the SV9 offers 1 to 3; 0 when they share none (R363). -/
def sharedLink (o : LinkOffer) : Nat := if max 1 o.low ≤ min 3 o.high then min 3 o.high else 0

/-- R361, R363. A port trains and joins its plane at the highest version that both ends offer, with the packages it reaches; before PODID
and LOCK are written, with no common version, or on a plane that holds its number, it stays down. -/
def execLinkTrain (port : Nat) (offer : LinkOffer) (conflict : Bool) (members : List Nat) (s : State) : Out :=
  let ver := sharedLink offer
  .next (
    if 16 ≤ port || !s.regs.lock || !s.hostUp || ((s.port port).up && !(s.port port).training) then s
    else if conflict then s.raise 4
    else if ver = 0 then s
    else
      let s := s.updPort port fun x => { x with up := true, training := false, ver := ver, fails := 0, rfails := 0 }
      ({ s with pod := (s.pod ++ members.filter fun m => m < 768 && m ≠ s.regs.podid).eraseDups } : State).flush)

/-- An answer to another package, sent or held back until its port has room (R359, R360): status 0 done, 2 refused by an arena (R109), 3
poisoned (R331). -/
def State.respond (s : State) (src status : Nat) (bs : List Byte) : State :=
  s.peerSend (.rsp ⟨src, status, bs⟩)

/-- A request reads n bytes at this package's home. -/
def State.reqRead (s : State) (src addr n : Nat) : State :=
  let l : Loc := .hbm (s.own addr)
  (s.respond src (if s.poisonedAt l n then 3 else 0) (s.readHome l n)).draw

/-- A request changes an operand of `size` bytes at this package's home, indivisibly (R82): `f` gives what it writes. -/
def State.reqAtom (s : State) (src addr size : Nat) (f : Nat → Option Nat) : State :=
  let l : Loc := .hbm (s.own addr)
  if s.poisonedAt l size then s.reqRead src addr size
  else
    let bs := s.readHome l size
    match f (leNat bs) with
    | none => (s.respond src 0 bs).draw
    | some y =>
      match s.writeBy l (leBytes size y) with
      | none => s.respond src 2 []
      | some s => (s.respond src 0 bs).draw

/-- R16. A request of another package performs at its home here as a local access; one outside HBM4, or to a stack that is
absent, finds no home (R362). -/
def State.serveReq (s : State) (src : Nat) (r : RemoteReq) : State :=
  let at_ (addr n : Nat) (f : State) : State :=
    if 2 ^ 39 < addr + n || !s.reachable (.hbm (s.own addr)) then s.respond src 5 [] else f
  match r with
  | .read addr n => at_ addr n (s.reqRead src addr n)
  | .write addr data bad =>
    at_ addr data.length (
      match s.writeBy (.hbm (s.own addr)) data with
      | none => s.respond src 2 []
      | some s => (if bad then s.spoilHome (.hbm (s.own addr)) else s).respond src 0 [])
  | .atom addr size op y =>
    if size ≠ 4 && size ≠ 8 then s
    else at_ addr size (s.reqAtom src addr size fun old => some (atomNew (8 * size) op old (y.toNat % 2 ^ (8 * size))))
  | .cas addr size e y =>
    if size ≠ 4 && size ≠ 8 then s
    else
      at_ addr size (s.reqAtom src addr size fun old =>
        if old = e.toNat % 2 ^ (8 * size) then some (y.toNat % 2 ^ (8 * size)) else none)
  | .pin page up =>
    let pg := (false, s.own (2 ^ 18 * page) / 2 ^ 18)
    if 2 ^ 21 ≤ page then s
    else (s.setPin pg (if up then s.pinCount pg + 1 else s.pinCount pg - 1)).respond src 0 []
  | .monitor addr =>
    at_ addr 8 (
      let m := (src, s.own addr / 128)
      let s := { s with rmons := if s.rmons.contains m then s.rmons else m :: s.rmons }
      s.reqRead src (addr / 8 * 8) 8)

/-- A request received on a lane of a port waits in the lane's buffer; past three quarters full the lane is paused (R359). -/
def State.holdReq (s : State) (port lane src : Nat) (r : RemoteReq) : State :=
  let x := s.port port
  let q := KMap.get [] x.held lane ++ [(src, r)]
  if !x.up || 16 ≤ lane || Config.laneBuffer < q.length then s
  else
    let s := s.updPort port fun x => { x with held := KMap.set x.held lane q, rfails := 0 }
    if 3 * Config.laneBuffer < 4 * q.length && !x.pausing.getLsbD lane then
      { s.updPort port fun x => { x with pausing := x.pausing ||| BitVec.twoPow 16 lane } with lmsgs := .pause port lane :: s.lmsgs }
    else s

/-- The oldest request of a lane's buffer leaves it to be served; below one quarter full a paused lane is resumed (R359). -/
def State.takeReq (s : State) (port lane : Nat) : State :=
  let x := s.port port
  let q := (KMap.get [] x.held lane).drop 1
  let s := s.updPort port fun x => { x with held := KMap.set x.held lane q }
  if 4 * q.length < Config.laneBuffer && x.pausing.getLsbD lane then
    { s.updPort port fun x => { x with pausing := x.pausing &&& ~~~(BitVec.twoPow 16 lane) } with lmsgs := .resume port lane :: s.lmsgs }
  else s

/-- A pin on a page whose count stands at 65,535 waits at its home until one is released (R19; assumption 83). -/
def State.pinFull (s : State) (r : RemoteReq) : Bool :=
  match r with
  | .pin page up => up && 0xFFFF ≤ s.pinCount (false, s.own (2 ^ 18 * page) / 2 ^ 18)
  | _ => false

/-- R16, R359. A request of another package: it performs as it comes, or waits in the buffer of its lane until its turn; a pin waits for
room in its page's count (R19). -/
def execReq (who : Sender) (r : RemoteReq) (s : State) : Out :=
  let src := who.src
  .next (
    if !s.anyPort || src = s.regs.podid then s
    else
      match who.way with
      | .now => if s.pinFull r then s else s.serveReq src r
      | .queued port lane => if port < 16 then s.holdReq port lane src r else s
      | .oldest port lane =>
        if port < 16 && (KMap.get [] (s.port port).held lane).head? = some (src, r) && !s.pinFull r then
          (s.takeReq port lane).serveReq src r
        else s)

/-- R359. A home in another package answers an access of this package. -/
def execRsp (who : Asker) (write : Bool) (status : Nat) (data : List (BitVec 8)) (s : State) : Out :=
  .next (s.farAnswered false who write status data)

/-- R260. A wake message: the waiting partition reads the watched word again and finds x. -/
def execWakeMessage (p : Nat) (x : BitVec 64) (s : State) : Out := .next (s.farWord p false x)

/-- R359. PAUSE for a request lane. -/
def execPause (port lane : Nat) (s : State) : Out :=
  .next (
    if 16 ≤ port || 16 ≤ lane || !(s.port port).up then s
    else s.updPort port fun x => { x with paused := x.paused ||| BitVec.twoPow 16 lane })

/-- R359. RESUME for a request lane: the requests that waited for it go out. -/
def execResume (port lane : Nat) (s : State) : Out :=
  .next (
    if 16 ≤ port || 16 ≤ lane || !(s.port port).up then s
    else (s.updPort port fun x => { x with paused := x.paused &&& ~~~(BitVec.twoPow 16 lane) }).flush)

/-- R360. n flits are acknowledged and leave the replay buffer. -/
def execAck (port n : Nat) (s : State) : Out :=
  .next (
    if 16 ≤ port || !(s.port port).up then s
    else (s.updPort port fun x => { x with replay := x.replay - n, fails := if n = 0 then x.fails else 0 }).flush)

/-- A replay on a port is counted and logged (R335, R343, R345). -/
def State.replayed (s : State) (port : Nat) : State :=
  (s.countErr (portIsland port) 0 0 1).log 12 0 (portIsland port) 0x1FF 0 0x1FF 0 0

/-- R360, R101. NAK: the flits before the n-th of the replay buffer are acknowledged by it, and the rest are sent again. -/
def execNak (port n : Nat) (s : State) : Out :=
  .next (
    if 16 ≤ port || !(s.port port).up then s
    else
      ((s.updPort port fun x =>
        { x with replay := x.replay - n, resend := x.replay - n, fails := if n = 0 then x.fails + 1 else 1 }).replayed port).flush)

/-- R335, R360. A received flit fails its CRC: it is answered with NAK and comes again. -/
def execFlitCrcFail (port : Nat) (s : State) : Out :=
  .next (
    if 16 ≤ port || !(s.port port).up then s
    else
      let s := (s.updPort port fun x => { x with rfails := x.rfails + 1 }).replayed port
      { s with lmsgs := .nak port :: s.lmsgs })

/-- R335. A flit sent or received has failed as it first came and in 8 replays in a row: the port retrains. -/
def execPortRetrain (port : Nat) (s : State) : Out :=
  .next (
    if 16 ≤ port || !(s.port port).up || ((s.port port).fails < 9 && (s.port port).rfails < 9) then s
    else s.updPort port fun x => { x with training := true })

/-- A copy that has begun and reaches another package through a port ends with LINK as the port goes down (R268, R335). -/
def State.loseCmd (s : State) (port : Nat) (c : Cmd) : Cmd :=
  match c.kind with
  | .copy .. =>
    if !c.done && c.begun && c.farLines.any fun l => s.portFor l = some port then { c with status := firstStatus c.status 4, prog := [], done := true } else c
  | _ => c

/-- A port is down: its lanes move to the ports that are left, where the requests that waited go out; those to a package out of reach are
lost (R335, R360, R362). -/
def State.leavePort (s : State) (port : Nat) : State :=
  ({ s with routes := s.routes.filter fun e => e.2 ≠ port, outbox := s.outbox.filter fun x => s.reachable x.1
            peerq := s.peerq.filter fun x => s.pod.contains x.pkg } : State).flush

/-- R335. Retraining has not succeeded: the port is down, the commands under way through it end, PORT is raised and the event logged (R345,
R354); with no port left every other package is out of reach (R362). -/
def execPortDown (port : Nat) (s : State) : Out :=
  .next (
    if 16 ≤ port || !(s.port port).training then s
    else
      let s := { s with cmds := s.cmds.map (s.loseCmd port) }
      let s := ((s.updPort port fun _ => Port.down).raise 4).log 13 s.portOutcome (portIsland port) 0x1FF 0 0x1FF 0 0
      ((if s.anyPort then s else { s with pod := [] }).leavePort port).draw)

/-- R346, R354. A UCIe module fails training and leaves the hash; BHP is raised. -/
def execUcieModuleFail (m : Nat) (s : State) : Out :=
  .next (
    if 4 ≤ m || !s.ucie.getLsbD m then s
    else ({ s with ucie := s.ucie &&& ~~~(BitVec.twoPow 4 m) } : State).raise 5)

end Sys2Proof.Machine
end

