-- ==== Sys2Proof/Machine/Bringup.lean ====
section
/-! DEFINITION. Package reset and bring-up (R369), attestation (R370, R371) and Isobar's window (R367). -/

namespace Sys2Proof.Machine

/-! ### The Chart across a reset -/

/-- An entry of a Chart as a reset leaves it: an evacuation it cuts short has nothing left to copy, and CYC starts again (R39,
R40). -/
def ChartEnt.cold (e : ChartEnt) : ChartEnt :=
  if e.state = 1 then { e with state := 2, logical := 0x7F, cursor := 0, recent := [] } else { e with recent := [] }

/-- The Chart as step 2 loads it (R39, R369). -/
def State.loadChart (s : State) : State := { s with chart := s.chart.map fun e => (e.1, e.2.cold) }

/-- A resource fails the test of step 3, with nothing resident (R40, R43, R369). -/
def State.coldRetire (s : State) (c idx : Nat) : State :=
  let e := s.chartAt c idx
  let cl := chartClass idx
  let gone (st : Nat) (s : State) : State := s.setChart c idx fun e => { e with state := st, logical := 0x7F }
  if e.state ≠ 0 && e.state ≠ 4 then s
  else if cl = 3 then gone (if 76 < s.goodOf c 3 0 then 2 else 3) s
  else if e.logical = 0x7F then gone 3 s
  else
    match s.spareFor c idx with
    | some i => gone 2 (s.setChart c i fun x => { x with logical := e.logical })
    | none => (if cl = 2 then fun s => s.relabel c else id) (gone 3 s)

/-- A resource in state 2 or 3 passes the re-test of mode 1: it serves the lowest logical index that is left without one, or is a
spare (R39, R369). -/
def State.coldReturn (s : State) (c idx : Nat) : State :=
  let cl := chartClass idx
  let p := chartPart idx
  let free := (List.range (logicalCount cl)).find? fun l => !s.served c cl p l
  s.setChart c idx fun e => { e with state := 0, logical := free.getD 0x7F }

/-- Step 3 on one listed entry of the Chart: what passes returns to state 0, from state 4 in either mode and from state 2 or 3
in mode 1, which also counts errors anew (R38, R369). -/
def State.testEntry (s : State) (mode : Bool) (failing : List (Nat × Nat)) (key : Nat) : State :=
  let c := key / 324
  let i := key % 324
  let s := if mode then s.setChart c i fun e => { e with errs := 0 } else s
  let st := (s.chartAt c i).state
  if failing.contains (c, i) then s
  else if st = 4 then s.setChart c i fun e => { e with state := 0 }
  else if mode && (st = 2 || st = 3) then s.coldReturn c i
  else s

/-- Step 3 of bring-up (R369); the spares that fail go first, so that none of them replaces another (R39). -/
def State.testChart (s : State) (mode : Bool) (failing : List (Nat × Nat)) : State :=
  let s := (s.chart.map Prod.fst).foldl (fun s k => s.testEntry mode failing k) s
  let spare (f : Nat × Nat) : Bool := (s.chartAt f.1 f.2).logical = 0x7F
  (failing.filter spare ++ failing.filter (!spare ·)).foldl (fun s f => if f.1 < 384 && f.2 < 324 then s.coldRetire f.1 f.2 else s) s

/-! ### Reset -/

/-- The bytes a memory holds outside this package (R16). -/
def Store.others (st : Store) (pkg : Nat) : Store :=
  { cells := st.cells.filter fun c => c.1 / 2 ^ 42 ≠ pkg
    poison := st.poison.filter fun l => 128 * l / 2 ^ 42 ≠ pkg
    undef := st.undef.filter fun r => r.1 / 2 ^ 42 ≠ pkg }

/-- Partitions and matrix engines that a self-test took out of service stay out across a reset until one tests them again (R39, R369). -/
def Core.acrossReset (c : Core) : Core := { Core.idle with partsOut := c.partsOut, mxOut := c.mxOut }

/-- What the self-tests of mode 1 find on a core outside its Chart (R339, R369). -/
def testedCore (r : BringUp) (c : Nat) : Core :=
  let parts := (r.parts.filter fun e => e.1 = c).foldl (fun x e => x ||| e.2) (0 : BitVec 4)
  { Core.idle with partsOut := if r.shared.contains c then 0xF else parts, mxOut := r.checkers.contains c }

/-- The cores after step 3: in mode 1 as their self-tests have found them, in mode 0 as they were (R339, R369). -/
def State.testCores (s : State) (mode : Bool) (r : BringUp) : State :=
  if !mode then s
  else
    let named := (r.parts.map Prod.fst ++ r.checkers ++ r.shared).filter fun c => c < 384
    { s with cores := named.foldl (fun m c => KMap.set m c (testedCore r c)) [] }

/-- The package in reset, with what a reset keeps: its Chart, what is outside it, and the model's own fields (R39, R369). The measurement
register stands at what has been measured when bring-up stops in step 1 or 2 (R370). A removal copy that a reset cuts short is forgotten,
and nothing is relabelled (R27; assumption 73). -/
def State.inReset (s : State) (code : Nat) : State :=
  { State.reset with
    fresh := s.fresh + 1, agenda := s.agenda, turn := s.turn, chart := s.chart, hostMem := s.hostMem
    mem := s.mem.renumber s.regs.podid 0
    cores := s.cores.map fun e => (e.1, e.2.acrossReset)
    measure := measuredOf (if code = 1 then 0 else 3) [], sideband := code }

/-- HBM4 once step 4 has written every line with zero (R369). -/
def State.scrub (s : State) : State := { s with mem := s.mem.others s.regs.podid }

/-- The version that a link to a host runs at: the highest that both sides offer, or 0 when they share none (R347). -/
def sharedVersion (r : BringUp) : Nat :=
  let v := min r.bhp 3
  if max r.bhpLow 1 ≤ v then v else 0

/-- Steps 2 to 6 of bring-up (R369): the Chart is loaded and measured, tested, HBM4 trained and scrubbed, and the attachment
brought up at the version that both sides offer (R347); a failure of that step is code 5. -/
def State.bringUp (s : State) (mode : Bool) (r : BringUp) : State :=
  let s := s.loadChart
  let lost := r.code = 5 || sharedVersion r = 0
  let s := (({ s with measure := measuredOf (if lost then 4 else 5) s.chart } : State).testChart mode r.failing).testCores mode r
  let s := s.scrub
  { s with absent := r.failed, sideband := if lost then 5 else if r.failed = 0 then 0 else 4
           bhp := sharedVersion r, hatom := r.hatom }

/-- R369. Package reset with a mode. Codes 1 and 2 stop bring-up in steps 1 and 2, before the Chart is loaded. -/
def execPackageReset (mode : Bool) (res : BringUp) (s : State) : Out :=
  .next (
    let s := s.inReset res.code
    if res.code = 1 || res.code = 2 then s else s.bringUp mode res)

/-! ### Attestation -/

/-- The report's bytes 0x000 to 0x0AF (R371). -/
def State.reportHead (s : State) (nonce : BitVec 256) : List Byte :=
  let dig := Config.digestBytes (Config.shake256 (Config.chartBytes (chartNums s.chart)))
  (List.range 32).map (fun k => nonce.extractLsb' (8 * k) 8) ++
  Config.digestBytes s.measure ++
  leBytes 8 (3 + s.regs.podid * 2 ^ 16 + s.regs.lock.toNat * 2 ^ 63) ++
  (List.range 4).flatMap (fun i => leBytes 8 (nth 0 s.regs.featoff i).toNat) ++
  leBytes 8 (if s.regs.lock then (nth 0 s.regs.featacc 0).toNat else 0) ++
  dig.take 32

/-- R371. An attestation report is returned for a nonce: the bytes laid out there, the 3,309 bytes of an ML-DSA-65 signature over them,
and Baulaka's certificate. -/
def execAttestationRequest (nonce : BitVec 256) (s : State) : Out :=
  .next (
    if s.sideband ≠ 0 && s.sideband ≠ 4 then s
    else
      let h := s.reportHead nonce
      { s with report := h ++ (List.range 3309).map (Config.identitySign h) ++ Config.certificate })

/-! ### Isobar -/

/-- 2.5 J in picojoules: 2,500 W for 1 ms (R367). -/
def isobarBudget : Int := 2500000000000

/-- E_w of the window that ends, in picojoules (R367). -/
def Isobar.energy (x : Isobar) : Int := (((x.use.map fun e => Config.kappa e.1 * e.2).sum : Nat) : Int)

/-- f of the next window from its reserve and its predicted energy (R367): 16 when nothing is predicted. -/
def isobarRate (reserve energy : Int) : Nat :=
  if energy ≤ 0 then 16 else (max 4 (min 16 (16 * reserve / energy))).toNat

/-- The plan for the next window (R367). -/
def Isobar.plan (x : Isobar) : Isobar :=
  let e := x.energy
  let r := isobarBudget - max 0 (e - x.reserve)
  { use := [], reserve := r, rate := isobarRate r e, windows := x.windows + 1 }

/-- Cycles of a window of 1 ms (R367). -/
def windowCycles : Nat := 2250000

/-- R367. A window of 1 ms ends, once its cycles have passed, and the next is planned. -/
def execIsobarWindow (s : State) : Out :=
  .next (if (s.isobar.windows + 1) * windowCycles ≤ s.cyc then { s with isobar := s.isobar.plan } else s)

end Sys2Proof.Machine
end

