-- ==== Sys2Proof/Machine/Scalar.lean ====
section
/-! DEFINITION. The scalar family: integer arithmetic and logic (R168 to R170), compare, select and predicate logic (R171
to R173), scalar fp32 (R174 to R177) and system registers (R186 to R189). -/

namespace Sys2Proof.Machine

/-! ### The operations of R169 -/

/-- The shift amount k: y[5:0], or y[4:0] in a 32-bit operation (R169). -/
def shiftAmt (w : Nat) (y : Int) : Nat := wrapNat (if w = 64 then 6 else 5) y

/-- sdiv: rounded toward zero; 2^w - 1 when y = 0 (R169). -/
def opDiv (w : Nat) (x y : Int) : Int := if y = 0 then 2 ^ w - 1 else Int.tdiv x y

/-- srem: x - q*y; x when y = 0 (R169). -/
def opRem (_w : Nat) (x y : Int) : Int := if y = 0 then x else x - Int.tdiv x y * y

/-- A bitwise operation on the w-bit patterns (R169). -/
def opBits (f : Nat → Nat → Nat) (w : Nat) (x y : Int) : Int := (f (wrapNat w x) (wrapNat w y) : Nat)

/-- sandn: x AND NOT y (R169). -/
def opAndn (w : Nat) (x y : Int) : Int := opBits (fun a b => a &&& (2 ^ w - 1 - b)) w x y

/-- sshl: x * 2^k (R169). -/
def opShl (w : Nat) (x y : Int) : Int := x * (2 ^ shiftAmt w y : Nat)

/-- sshr: the w-bit pattern read as unsigned, shifted right (R169). -/
def opShr (w : Nat) (x y : Int) : Int := (wrapNat w x / 2 ^ shiftAmt w y : Nat)

/-- ssra: the w-bit pattern read as signed, shifted right (R169). -/
def opSra (w : Nat) (x y : Int) : Int := sintOf w (wrapNat w x) / (2 ^ shiftAmt w y : Nat)

/-- srot: the w-bit pattern rotated right by k (R169). -/
def opRot (w : Nat) (x y : Int) : Int :=
  let k := shiftAmt w y
  let v := wrapNat w x
  (v / 2 ^ k + v * 2 ^ (w - k) % 2 ^ w : Nat)

/-- smulh: floor(x * y / 2^w) (R169). -/
def opMulh (w : Nat) (x y : Int) : Int := x * y / (2 ^ w : Nat)

/-! ### Integer binary instructions -/

/-- R169. s[d] := a + b. -/
def execSadd (d a b : BitVec 5) (u w : BitVec 1) (g : BitVec 5) (s : State) : Out :=
  guarded g s fun s => s.opSR d a b u w 2 fun _ x y => x + y

/-- R169. s[d] := a - b. -/
def execSsub (d a b : BitVec 5) (u w : BitVec 1) (g : BitVec 5) (s : State) : Out :=
  guarded g s fun s => s.opSR d a b u w 2 fun _ x y => x - y

/-- R169. s[d] := a * b, low bits. -/
def execSmul (d a b : BitVec 5) (u w : BitVec 1) (g : BitVec 5) (s : State) : Out :=
  guarded g s fun s => s.opSR d a b u w 4 fun _ x y => x * y

/-- R169. s[d] := high half of a * b. -/
def execSmulh (d a b : BitVec 5) (u w : BitVec 1) (g : BitVec 5) (s : State) : Out :=
  guarded g s fun s => s.opSR d a b u w 4 fun w x y => opMulh w x y

/-- R169. s[d] := a / b. -/
def execSdiv (d a b : BitVec 5) (u w : BitVec 1) (g : BitVec 5) (s : State) : Out :=
  guarded g s fun s => s.opSR d a b u w 20 fun w x y => opDiv w x y

/-- R169. s[d] := remainder. -/
def execSrem (d a b : BitVec 5) (u w : BitVec 1) (g : BitVec 5) (s : State) : Out :=
  guarded g s fun s => s.opSR d a b u w 20 fun w x y => opRem w x y

/-- R169. s[d] := smaller. -/
def execSmin (d a b : BitVec 5) (u w : BitVec 1) (g : BitVec 5) (s : State) : Out :=
  guarded g s fun s => s.opSR d a b u w 2 fun _ x y => min x y

/-- R169. s[d] := larger. -/
def execSmax (d a b : BitVec 5) (u w : BitVec 1) (g : BitVec 5) (s : State) : Out :=
  guarded g s fun s => s.opSR d a b u w 2 fun _ x y => max x y

/-- R169. Bitwise AND. -/
def execSand (d a b : BitVec 5) (u w : BitVec 1) (g : BitVec 5) (s : State) : Out :=
  guarded g s fun s => s.opSR d a b u w 2 fun w x y => opBits (· &&& ·) w x y

/-- R169. Bitwise OR. -/
def execSor (d a b : BitVec 5) (u w : BitVec 1) (g : BitVec 5) (s : State) : Out :=
  guarded g s fun s => s.opSR d a b u w 2 fun w x y => opBits (· ||| ·) w x y

/-- R169. Bitwise XOR. -/
def execSxor (d a b : BitVec 5) (u w : BitVec 1) (g : BitVec 5) (s : State) : Out :=
  guarded g s fun s => s.opSR d a b u w 2 fun w x y => opBits (· ^^^ ·) w x y

/-- R169. Bitwise a AND NOT b. -/
def execSandn (d a b : BitVec 5) (u w : BitVec 1) (g : BitVec 5) (s : State) : Out :=
  guarded g s fun s => s.opSR d a b u w 2 fun w x y => opAndn w x y

/-- R169. Shift left. -/
def execSshl (d a b : BitVec 5) (u w : BitVec 1) (g : BitVec 5) (s : State) : Out :=
  guarded g s fun s => s.opSR d a b u w 2 fun w x y => opShl w x y

/-- R169. Logical shift right. -/
def execSshr (d a b : BitVec 5) (u w : BitVec 1) (g : BitVec 5) (s : State) : Out :=
  guarded g s fun s => s.opSR d a b u w 2 fun w x y => opShr w x y

/-- R169. Arithmetic shift right. -/
def execSsra (d a b : BitVec 5) (u w : BitVec 1) (g : BitVec 5) (s : State) : Out :=
  guarded g s fun s => s.opSR d a b u w 2 fun w x y => opSra w x y

/-- R169. Rotate right. -/
def execSrot (d a b : BitVec 5) (u w : BitVec 1) (g : BitVec 5) (s : State) : Out :=
  guarded g s fun s => s.opSR d a b u w 2 fun w x y => opRot w x y

/-- R169. s[d] := a + b, b the immediate (R145). -/
def execSaddSi (d a : BitVec 5) (i : Imm 10) (g : BitVec 5) (s : State) : Out :=
  guarded g s fun s => s.opSI d a i 2 fun _ x y => x + y

/-- R169. s[d] := a * b, low bits, b the immediate (R145). -/
def execSmulSi (d a : BitVec 5) (i : Imm 10) (g : BitVec 5) (s : State) : Out :=
  guarded g s fun s => s.opSI d a i 4 fun _ x y => x * y

/-- R169. Bitwise AND, b the immediate (R145). -/
def execSandSi (d a : BitVec 5) (i : Imm 10) (g : BitVec 5) (s : State) : Out :=
  guarded g s fun s => s.opSI d a i 2 fun w x y => opBits (· &&& ·) w x y

/-- R169. Bitwise OR, b the immediate (R145). -/
def execSorSi (d a : BitVec 5) (i : Imm 10) (g : BitVec 5) (s : State) : Out :=
  guarded g s fun s => s.opSI d a i 2 fun w x y => opBits (· ||| ·) w x y

/-- R169. Bitwise XOR, b the immediate (R145). -/
def execSxorSi (d a : BitVec 5) (i : Imm 10) (g : BitVec 5) (s : State) : Out :=
  guarded g s fun s => s.opSI d a i 2 fun w x y => opBits (· ^^^ ·) w x y

/-- R169. s[d] := smaller, b the immediate (R145). -/
def execSminSi (d a : BitVec 5) (i : Imm 10) (g : BitVec 5) (s : State) : Out :=
  guarded g s fun s => s.opSI d a i 2 fun _ x y => min x y

/-- R169. s[d] := larger, b the immediate (R145). -/
def execSmaxSi (d a : BitVec 5) (i : Imm 10) (g : BitVec 5) (s : State) : Out :=
  guarded g s fun s => s.opSI d a i 2 fun _ x y => max x y

/-- R169. Shift left, b the immediate (R145). -/
def execSshlSi (d a : BitVec 5) (i : Imm 10) (g : BitVec 5) (s : State) : Out :=
  guarded g s fun s => s.opSI d a i 2 fun w x y => opShl w x y

/-- R169. Logical shift right, b the immediate (R145). -/
def execSshrSi (d a : BitVec 5) (i : Imm 10) (g : BitVec 5) (s : State) : Out :=
  guarded g s fun s => s.opSI d a i 2 fun w x y => opShr w x y

/-- R169. Arithmetic shift right, b the immediate (R145). -/
def execSsraSi (d a : BitVec 5) (i : Imm 10) (g : BitVec 5) (s : State) : Out :=
  guarded g s fun s => s.opSI d a i 2 fun w x y => opSra w x y

/-- R169. Rotate right, b the immediate (R145). -/
def execSrotSi (d a : BitVec 5) (i : Imm 10) (g : BitVec 5) (s : State) : Out :=
  guarded g s fun s => s.opSI d a i 2 fun w x y => opRot w x y

/-! ### Unary, field and move instructions -/

/-- Leading zero bits of a w-bit pattern (R170). -/
def clz (w x : Nat) : Nat := if x = 0 then w else w - 1 - Nat.log2 x

/-- Trailing zero bits of a pattern, among w from bit k on (R170). -/
def ctzFrom (x : Nat) : Nat → Nat → Nat
  | 0, _ => 0
  | w + 1, k => if x.testBit k then 0 else 1 + ctzFrom x w (k + 1)

/-- One bits of a w-bit pattern (R170). -/
def popc (w x : Nat) : Nat := ((List.range w).filter fun k => x.testBit k).length

/-- A count over the low w bits of register a (R170). -/
def State.opCount (s : State) (d a : BitVec 5) (w : BitVec 1) (f : Nat → Nat → Nat) : State :=
  s.putS d (BitVec.ofNat 64 (f (opWidth w) ((s.rdS 0 a).toNat % 2 ^ opWidth w))) 2

/-- R170. s[d] := leading zero bits of a. -/
def execSclz (d a : BitVec 5) (_u w : BitVec 1) (g : BitVec 5) (s : State) : Out :=
  guarded g s fun s => s.opCount d a w clz

/-- R170. s[d] := trailing zero bits of a. -/
def execSctz (d a : BitVec 5) (_u w : BitVec 1) (g : BitVec 5) (s : State) : Out :=
  guarded g s fun s => s.opCount d a w fun w x => ctzFrom x w 0

/-- R170. s[d] := one bits of a. -/
def execSpopc (d a : BitVec 5) (_u w : BitVec 1) (g : BitVec 5) (s : State) : Out :=
  guarded g s fun s => s.opCount d a w popc

/-- R170. s[d] := the low 8, 16 or 32 bits of a, extended. -/
def execSext (d a : BitVec 5) (z : BitVec 1) (n : BitVec 2) (g : BitVec 5) (s : State) : Out :=
  guarded g s fun s =>
    let w := 8 * 2 ^ n.toNat
    s.putS d (extOf w (z == 1) ((s.rdS 0 a).toNat % 2 ^ w : Nat)) 2

/-- The field that s[b] names: lo, n, hi (R170). -/
def fieldOf (b : W64) : Nat × Nat × Nat :=
  let lo := bitsAt b.toNat 0 6
  let n := bitsAt b.toNat 6 6 + 1
  (lo, n, min 63 (lo + n - 1))

/-- R170. s[d] := the field of a that b names, extended. -/
def execSbfx (d a b : BitVec 5) (u : BitVec 1) (g : BitVec 5) (s : State) : Out :=
  guarded g s fun s =>
    let (lo, n, hi) := fieldOf (s.rdS 1 b)
    s.putS d (extOf n (u == 1) (bitsAt (s.rdS 0 a).toNat lo (hi - lo + 1) : Nat)) 2

/-- R170. s[d] := d with the field that b names replaced by low bits of a. -/
def execSbfi (d a b : BitVec 5) (g : BitVec 5) (s : State) : Out :=
  guarded g s fun s =>
    let (lo, _, hi) := fieldOf (s.rdS 1 b)
    let m : W64 := BitVec.ofNat 64 ((2 ^ (hi - lo + 1) - 1) * 2 ^ lo)
    s.putS d ((s.rdS 2 d &&& ~~~m) ||| ((s.rdS 0 a <<< lo) &&& m)) 2

/-- R170. s[d] := a. -/
def execSmov (d a : BitVec 5) (g : BitVec 5) (s : State) : Out :=
  guarded g s fun s => s.putS d (s.rdS 0 a) 2

/-- R170. s[d] := the immediate (R145). -/
def execSmovi (d : BitVec 5) (i : Imm 15) (g : BitVec 5) (s : State) : Out :=
  guarded g s fun s => s.putS d i.val 2

/-! ### Compare, select, predicates -/

/-- R171. p[d] := condition c of a and b. -/
def execScmp (d a b : BitVec 5) (w : BitVec 1) (c : BitVec 3) (g : BitVec 5) (s : State) : Out :=
  guarded g s fun s =>
    let n := opWidth w
    s.putP d (scond c.toNat n ((s.rdS 0 a).toNat % 2 ^ n) ((s.rdS 1 b).toNat % 2 ^ n)) 2

/-- R171. p[d] := condition c of a and the immediate, on 64 bits. -/
def execScmpSi (d a : BitVec 5) (i : Imm 7) (c : BitVec 3) (g : BitVec 5) (s : State) : Out :=
  guarded g s fun s => s.putP d (scond c.toNat 64 (s.rdS 0 a).toNat i.val.toNat) 2

/-- R172. s[d] := a or b, as predicate p, inverted by n, chooses. -/
def execSsel (d a b : BitVec 5) (n : BitVec 1) (p : BitVec 4) (g : BitVec 5) (s : State) : Out :=
  guarded g s fun s => s.putS d (if s.rdP 3 p.toNat != (n == 1) then s.rdS 0 a else s.rdS 1 b) 2

/-- R173. p[d] := TT[2*p[a] + p[b]]. -/
def execPset (d a b : BitVec 5) (t : BitVec 4) (g : BitVec 5) (s : State) : Out :=
  guarded g s fun s => s.putP d (truth t (s.rdP 0 a.toNat) (s.rdP 1 b.toNat)) 2

/-! ### Scalar fp32 -/

/-- The fp32 value in the low half of a scalar register (R174). -/
def lowF (x : W64) : FV := f32 (x.setWidth 32)

/-- An fp32 result, zero-extended (R174). -/
def State.putF (s : State) (d : BitVec 5) (v : FV) (L : Nat) : State := s.putS d ((rne32 v).setWidth 64) L

/-- R175. s[d] := a + b, or a - b with s = 1, in fp32. -/
def execSfadd (d a b : BitVec 5) (sub : BitVec 1) (g : BitVec 5) (s : State) : Out :=
  guarded g s fun s =>
    let y := lowF (s.rdS 1 b)
    s.putF d ((lowF (s.rdS 0 a)).add (if sub = 1 then y.neg else y)) 4

/-- R175. s[d] := a * b in fp32. -/
def execSfmul (d a b : BitVec 5) (g : BitVec 5) (s : State) : Out :=
  guarded g s fun s => s.putF d ((lowF (s.rdS 0 a)).mul (lowF (s.rdS 1 b))) 4

/-- R175. s[d] := a * b + d, or -(a * b) + d with n = 1, in fp32. -/
def execSffma (d a b : BitVec 5) (n : BitVec 1) (g : BitVec 5) (s : State) : Out :=
  guarded g s fun s =>
    let p := (lowF (s.rdS 0 a)).mul (lowF (s.rdS 1 b))
    s.putF d ((if n = 1 then p.neg else p).add (lowF (s.rdS 2 d))) 4

/-- The format F of sfcvt: the code's, or i64 and n64 with w = 1 (R176). -/
def sfcvtFmt (f : BitVec 4) (w : BitVec 1) : AnyFmt :=
  if w = 1 then .int ⟨64, f = 13⟩ else fmtOf f

/-- A conversion's result in a 64-bit register: an integer extended by its signedness, a floating one by zeros (R176). -/
def cvtResult (f : AnyFmt) (x : Nat) : W64 :=
  match f with
  | .fl _ => BitVec.ofNat 64 x
  | .int i => extOf i.w (!i.signed) x

/-- R176. s[d] := a converted between fp32 and F. -/
def execSfcvt (d a : BitVec 5) (f : BitVec 4) (k : BitVec 1) (m : BitVec 2) (t w : BitVec 1) (g : BitVec 5)
    (s : State) : Out :=
  guarded g s fun s =>
    let src := if k = 1 then .fl .fp32 else sfcvtFmt f w
    let dst := if k = 1 then sfcvtFmt f w else .fl .fp32
    let x := (s.rdS 0 a).toNat % 2 ^ src.width
    s.putS d (cvtResult dst (convert src dst (RMode.of m) (t == 1) x)) 4

/-- R177. p[d] := condition c of two fp32 values. -/
def execSfcmp (d a b : BitVec 5) (c : BitVec 3) (g : BitVec 5) (s : State) : Out :=
  guarded g s fun s => s.putP d (fcond c.toNat (lowF (s.rdS 0 a)) (lowF (s.rdS 1 b))) 2

/-! ### System registers -/

/-- R186. s[d] := system register n. -/
def execSget (d : BitVec 5) (n : BitVec 10) (g : BitVec 5) (s : State) : Out :=
  guarded g s fun s => s.putS d (s.sysRead n.toNat) 2

/-- A written system register (R187, R188): MXSTAT, BGI, BGM or CONT. A balance left below zero latches EXH (R308). -/
def State.sysWrite (s : State) (n : Nat) (x : W64) : State :=
  let s := s.keepOld n
  match n with
  | 0x022 => s.updMe fun P => { P with regs := { P.regs with mxstat := x.setWidth 5 } }
  | 0x030 => s.updMe fun P => ({ P.wrote .bgi with bgi := (x.setWidth 48).toInt }).balanced
  | 0x031 => s.updMe fun P => ({ P.wrote .bgm with bgm := (x.setWidth 48).toInt }).balanced
  | 0x032 => s.updMe fun P => { P.wrote .cont with regs := { P.regs with cont := x } }
  | _ => s

/-- R186, R188. System register n := d. -/
def execSset (d : BitVec 5) (n : BitVec 10) (g : BitVec 5) (s : State) : Out :=
  guarded g s fun s => s.sysWrite n.toNat (s.rdS 2 d)

end Sys2Proof.Machine
end

