-- ==== Sys2Proof/Machine/Vector.lean ====
section
/-! DEFINITION. The vector family (spec/10): element-wise arithmetic, compares and moves (R209 to R212), conversions,
packing and quantising (R213 to R215), row-axis and column-axis operations (R216 to R218), moves between scalar and vector
(R219), masks (R220) and special functions (R221). -/

namespace Sys2Proof.Machine

/-! ### Sub-elements, masks -/

/-- Sub-element k of width w (R53). -/
def sub (x : W32) (w k : Nat) : Nat := bitsAt x.toNat (w * k) w

/-- An element from its sub-elements of width w (R53). -/
def packSubs (w : Nat) (f : Nat → Nat) : W32 :=
  BitVec.ofNat 32 ((List.range (32 / w)).map fun k => f k % 2 ^ w * 2 ^ (w * k)).sum

/-- The floating format that ty selects (R149). -/
def tyFloat (ty : BitVec 2) : FloatFmt := if ty = 0 then .fp32 else if ty = 1 then .bf16 else .fp16

/-- The integer width that ty selects (R149). -/
def tyWidth (ty : BitVec 2) : Nat := if ty = 0 then 32 else if ty = 1 then 16 else 8

/-- A mask from its bits by element index. -/
def Mask.build (f : Nat → Bool) : Mask :=
  BitVec.ofNat 1024 ((List.range 1024).foldr (fun e n => (f e).toNat + 2 * n) 0)

/-- A masked result (R208): a destination element whose mask bit is false keeps its value at issue. -/
def State.putMasked (s : State) (d : BitVec 5) (m : BitVec 3) (x : Vec) (L : Nat) : State :=
  if m = 0 then s.putV d.toNat x L
  else
    let k := s.rdM 3 m.toNat
    let old := s.rdV 2 d.toNat
    s.putV d.toNat (Vec.build fun e => if k.getLsbD e then x.el e else old.el e) L

/-! ### Floating-point element-wise instructions -/

/-- A unary operation on each sub-element in a floating format, rounded once to nearest even. -/
def mapF (f : FloatFmt) (op : FV → FV) (a : Vec) : Vec :=
  a.map fun x => packSubs f.width fun k => rne f (op (fpvalue f (sub x f.width k)))

/-- A binary operation on each sub-element in a floating format, rounded once to nearest even (R209). -/
def zipF (f : FloatFmt) (op : FV → FV → FV) (a b : Vec) : Vec :=
  List.zipWith (fun x y => packSubs f.width fun k =>
    rne f (op (fpvalue f (sub x f.width k)) (fpvalue f (sub y f.width k)))) a b

/-- A ternary operation on each sub-element in a floating format, rounded once (R209). -/
def zip3F (f : FloatFmt) (op : FV → FV → FV → FV) (a b c : Vec) : Vec :=
  Vec.build fun e => packSubs f.width fun k =>
    let v (z : Vec) := fpvalue f (sub (z.el e) f.width k)
    rne f (op (v a) (v b) (v c))

/-- A masked binary floating operation (R208, R209). -/
def State.vecF2 (s : State) (d a b : BitVec 5) (m : BitVec 3) (t : BitVec 2) (op : FV → FV → FV) : State :=
  s.putMasked d m (zipF (tyFloat t) op (s.rdV 0 a.toNat) (s.rdV 1 b.toNat)) 12

/-- A masked unary floating operation with a bound (R208, R209, R221). -/
def State.vecF1 (s : State) (d a : BitVec 5) (m : BitVec 3) (t : BitVec 2) (op : FV → FV) (L : Nat) : State :=
  s.putMasked d m (mapF (tyFloat t) op (s.rdV 0 a.toNat)) L

/-- R209. Each sub-element: a + b. -/
def execVaddF (d a b : BitVec 5) (m : BitVec 3) (t : BitVec 2) (g : BitVec 5) (s : State) : Out :=
  guarded g s fun s => s.vecF2 d a b m t (FV.add)

/-- R209. Each sub-element: a - b. -/
def execVsubF (d a b : BitVec 5) (m : BitVec 3) (t : BitVec 2) (g : BitVec 5) (s : State) : Out :=
  guarded g s fun s => s.vecF2 d a b m t (fun x y => x.add y.neg)

/-- R209. Each sub-element: a * b. -/
def execVmulF (d a b : BitVec 5) (m : BitVec 3) (t : BitVec 2) (g : BitVec 5) (s : State) : Out :=
  guarded g s fun s => s.vecF2 d a b m t (FV.mul)

/-- R209. Each sub-element: the smaller of a and b. -/
def execVminF (d a b : BitVec 5) (m : BitVec 3) (t : BitVec 2) (g : BitVec 5) (s : State) : Out :=
  guarded g s fun s => s.vecF2 d a b m t (FV.min)

/-- R209. Each sub-element: the larger of a and b. -/
def execVmaxF (d a b : BitVec 5) (m : BitVec 3) (t : BitVec 2) (g : BitVec 5) (s : State) : Out :=
  guarded g s fun s => s.vecF2 d a b m t (FV.max)

/-- R209. Each sub-element: a * b + d, rounded once. -/
def execVfma (d a b : BitVec 5) (m : BitVec 3) (t : BitVec 2) (g : BitVec 5) (s : State) : Out :=
  guarded g s fun s =>
    s.putMasked d m (zip3F (tyFloat t) (fun x y z => (x.mul y).add z) (s.rdV 0 a.toNat) (s.rdV 1 b.toNat)
      (s.rdV 2 d.toNat)) 12

/-- R209. Each sub-element: -(a * b) + d, rounded once. -/
def execVfnma (d a b : BitVec 5) (m : BitVec 3) (t : BitVec 2) (g : BitVec 5) (s : State) : Out :=
  guarded g s fun s =>
    s.putMasked d m (zip3F (tyFloat t) (fun x y z => (x.mul y).neg.add z) (s.rdV 0 a.toNat) (s.rdV 1 b.toNat)
      (s.rdV 2 d.toNat)) 12

/-- R209. Each sub-element: a with its sign cleared. -/
def execVabsF (d a : BitVec 5) (m : BitVec 3) (t : BitVec 2) (g : BitVec 5) (s : State) : Out :=
  guarded g s fun s => s.vecF1 d a m t FV.abs 12

/-- R209. Each sub-element: a with its sign inverted. -/
def execVnegF (d a : BitVec 5) (m : BitVec 3) (t : BitVec 2) (g : BitVec 5) (s : State) : Out :=
  guarded g s fun s => s.vecF1 d a m t FV.neg 12

/-- A compare that writes every bit of mask d: true where the condition holds of every sub-element (R211). -/
def State.vecCmp (s : State) (d : BitVec 3) (a b : BitVec 5) (w : Nat) (c : Nat → Nat → Bool) : State :=
  let x := s.rdV 0 a.toNat
  let y := s.rdV 1 b.toNat
  s.putM d.toNat (Mask.build fun e => (List.range (32 / w)).all fun k => c (sub (x.el e) w k) (sub (y.el e) w k)) 12

/-- R211. m[d] := condition c of floating sub-elements. -/
def execVcmpF (d : BitVec 3) (a b : BitVec 5) (c : BitVec 3) (t : BitVec 2) (g : BitVec 5) (s : State) : Out :=
  guarded g s fun s =>
    let f := tyFloat t
    s.vecCmp d a b f.width fun x y => fcond c.toNat (fpvalue f x) (fpvalue f y)

/-! ### Integer element-wise instructions -/

/-- A binary operation on each integer sub-element of width w, reduced modulo 2^w (R210). -/
def zipI (w : Nat) (op : Nat → Nat → Int) (a b : Vec) : Vec :=
  List.zipWith (fun x y => packSubs w fun k => wrapNat w (op (sub x w k) (sub y w k))) a b

/-- A masked binary integer operation (R208, R210). -/
def State.vecI2 (s : State) (d a b : BitVec 5) (m : BitVec 3) (w : Nat) (op : Nat → Nat → Int) : State :=
  s.putMasked d m (zipI w op (s.rdV 0 a.toNat) (s.rdV 1 b.toNat)) 12

/-- A masked unary integer operation (R208, R210). -/
def State.vecI1 (s : State) (d a : BitVec 5) (m : BitVec 3) (w : Nat) (op : Nat → Int) : State :=
  let x := s.rdV 0 a.toNat
  s.putMasked d m (x.map fun y => packSubs w fun k => wrapNat w (op (sub y w k))) 12

/-- R210. Each sub-element: a + b modulo 2^w. -/
def execVaddI (d a b : BitVec 5) (m : BitVec 3) (t : BitVec 2) (g : BitVec 5) (s : State) : Out :=
  guarded g s fun s => s.vecI2 d a b m (tyWidth t) (fun x y => x + y)

/-- R210. Each sub-element: a - b modulo 2^w. -/
def execVsubI (d a b : BitVec 5) (m : BitVec 3) (t : BitVec 2) (g : BitVec 5) (s : State) : Out :=
  guarded g s fun s => s.vecI2 d a b m (tyWidth t) (fun x y => (x : Int) - y)

/-- R210. Each sub-element: the low w bits of a * b. -/
def execVmulI (d a b : BitVec 5) (m : BitVec 3) (t : BitVec 2) (g : BitVec 5) (s : State) : Out :=
  guarded g s fun s => s.vecI2 d a b m (tyWidth t) (fun x y => x * y)

/-- R210. Each sub-element: the smaller, signed. -/
def execVminI (d a b : BitVec 5) (m : BitVec 3) (t : BitVec 2) (g : BitVec 5) (s : State) : Out :=
  guarded g s fun s => s.vecI2 d a b m (tyWidth t) (fun x y => min (sintOf (tyWidth t) x) (sintOf (tyWidth t) y))

/-- R210. Each sub-element: the larger, signed. -/
def execVmaxI (d a b : BitVec 5) (m : BitVec 3) (t : BitVec 2) (g : BitVec 5) (s : State) : Out :=
  guarded g s fun s => s.vecI2 d a b m (tyWidth t) (fun x y => max (sintOf (tyWidth t) x) (sintOf (tyWidth t) y))

/-- R210. Each sub-element: the smaller, unsigned. -/
def execVminN (d a b : BitVec 5) (m : BitVec 3) (t : BitVec 2) (g : BitVec 5) (s : State) : Out :=
  guarded g s fun s => s.vecI2 d a b m (tyWidth t) (fun x y => min x y)

/-- R210. Each sub-element: the larger, unsigned. -/
def execVmaxN (d a b : BitVec 5) (m : BitVec 3) (t : BitVec 2) (g : BitVec 5) (s : State) : Out :=
  guarded g s fun s => s.vecI2 d a b m (tyWidth t) (fun x y => max x y)

/-- R210. Each sub-element: a shifted left by k. -/
def execVshl (d a b : BitVec 5) (m : BitVec 3) (t : BitVec 2) (g : BitVec 5) (s : State) : Out :=
  guarded g s fun s => s.vecI2 d a b m (tyWidth t) (fun x y => x * 2 ^ (y % tyWidth t))

/-- R210. Each sub-element: a shifted right by k, zeros in. -/
def execVshr (d a b : BitVec 5) (m : BitVec 3) (t : BitVec 2) (g : BitVec 5) (s : State) : Out :=
  guarded g s fun s => s.vecI2 d a b m (tyWidth t) (fun x y => x / 2 ^ (y % tyWidth t))

/-- R210. Each sub-element: a shifted right by k, sign in. -/
def execVsra (d a b : BitVec 5) (m : BitVec 3) (t : BitVec 2) (g : BitVec 5) (s : State) : Out :=
  guarded g s fun s => s.vecI2 d a b m (tyWidth t) (fun x y => sintOf (tyWidth t) x / (2 ^ (y % tyWidth t) : Nat))

/-- R210. Each sub-element: |a| modulo 2^w. -/
def execVabsI (d a : BitVec 5) (m : BitVec 3) (t : BitVec 2) (g : BitVec 5) (s : State) : Out :=
  guarded g s fun s => s.vecI1 d a m (tyWidth t) (fun x => (sintOf (tyWidth t) x).natAbs)

/-- R210. Each sub-element: -a modulo 2^w. -/
def execVnegI (d a : BitVec 5) (m : BitVec 3) (t : BitVec 2) (g : BitVec 5) (s : State) : Out :=
  guarded g s fun s => s.vecI1 d a m (tyWidth t) (fun x => -(x : Int))

/-- R210. Bitwise AND of 32-bit elements. -/
def execVand (d a b : BitVec 5) (m : BitVec 3) (g : BitVec 5) (s : State) : Out :=
  guarded g s fun s => s.vecI2 d a b m 32 fun x y => ((x &&& y : Nat) : Int)

/-- R210. Bitwise OR of 32-bit elements. -/
def execVor (d a b : BitVec 5) (m : BitVec 3) (g : BitVec 5) (s : State) : Out :=
  guarded g s fun s => s.vecI2 d a b m 32 fun x y => ((x ||| y : Nat) : Int)

/-- R210. Bitwise XOR of 32-bit elements. -/
def execVxor (d a b : BitVec 5) (m : BitVec 3) (g : BitVec 5) (s : State) : Out :=
  guarded g s fun s => s.vecI2 d a b m 32 fun x y => ((x ^^^ y : Nat) : Int)

/-- The integer conditions of R211. -/
def icond (c : BitVec 3) (x y : Int) : Bool :=
  match c.toNat with
  | 0 => x = y
  | 1 => x ≠ y
  | 2 => x < y
  | 3 => y ≤ x
  | 4 => x ≤ y
  | _ => y < x

/-- R211. m[d] := condition c of signed sub-elements. -/
def execVcmpI (d : BitVec 3) (a b : BitVec 5) (c : BitVec 3) (t : BitVec 2) (g : BitVec 5) (s : State) : Out :=
  guarded g s fun s =>
    s.vecCmp d a b (tyWidth t) fun x y => icond c (sintOf (tyWidth t) x) (sintOf (tyWidth t) y)

/-- R211. m[d] := condition c of unsigned sub-elements. -/
def execVcmpN (d : BitVec 3) (a b : BitVec 5) (c : BitVec 3) (t : BitVec 2) (g : BitVec 5) (s : State) : Out :=
  guarded g s fun s => s.vecCmp d a b (tyWidth t) fun x y => icond c x y

/-! ### Select and moves -/

/-- R212. Each element: m[mk] ? a : b. -/
def execVsel (d a b : BitVec 5) (m : BitVec 3) (g : BitVec 5) (s : State) : Out :=
  guarded g s fun s =>
    let k := s.rdM 3 m.toNat
    let x := s.rdV 0 a.toNat
    let y := s.rdV 1 b.toNat
    s.putV d.toNat (Vec.build fun e => if k.getLsbD e then x.el e else y.el e) 12

/-- R212. Each element: a. -/
def execVmov (d a : BitVec 5) (m : BitVec 3) (g : BitVec 5) (s : State) : Out :=
  guarded g s fun s => s.putMasked d m (s.rdV 0 a.toNat) 12

/-- R212. Each element: s[a][31:0]. -/
def execVmovs (d a : BitVec 5) (m : BitVec 3) (g : BitVec 5) (s : State) : Out :=
  guarded g s fun s => s.putMasked d m (List.replicate 1024 ((s.rdS 0 a).setWidth 32)) 12

/-- R212. Element e: s[a][31:0] + e. -/
def execViota (d a : BitVec 5) (m : BitVec 3) (g : BitVec 5) (s : State) : Out :=
  guarded g s fun s =>
    let x : W32 := (s.rdS 0 a).setWidth 32
    s.putMasked d m (Vec.build fun e => x + BitVec.ofNat 32 e) 12

/-! ### Conversions, packing, quantising -/

/-- Each sub-element converted in place (R213). -/
def State.vecCvt (s : State) (d a : BitVec 5) (fs fd : BitVec 4) (r : BitVec 2) (sat : Bool) : State :=
  let w := (fmtOf fs).width
  let x := s.rdV 0 a.toNat
  s.putV d.toNat (x.map fun y => packSubs w fun k => convert (fmtOf fs) (fmtOf fd) (RMode.of r) sat (sub y w k)) 12

/-- R213. Convert each sub-element, non-saturating. -/
def execVcvt (d a : BitVec 5) (fs fd : BitVec 4) (r : BitVec 2) (g : BitVec 5) (s : State) : Out :=
  guarded g s fun s => s.vecCvt d a fs fd r false

/-- R213. Convert each sub-element, saturating. -/
def execVcvtSat (d a : BitVec 5) (fs fd : BitVec 4) (r : BitVec 2) (g : BitVec 5) (s : State) : Out :=
  guarded g s fun s => s.vecCvt d a fs fd r true

/-- R214. Narrow a group of registers into one, saturating. -/
def execVpack (d a : BitVec 5) (fs fd : BitVec 4) (r : BitVec 2) (g : BitVec 5) (s : State) : Out :=
  guarded g s fun s =>
    let ws := (fmtOf fs).width
    let wd := (fmtOf fd).width
    let ns := 32 / ws
    let src := (List.range (ws / wd)).map fun q => s.rdV q (a.toNat + q)
    s.putV d.toNat (Vec.build fun e => packSubs wd fun m =>
      convert (fmtOf fs) (fmtOf fd) (RMode.of r) true (sub (Vec.el (nth [] src (m / ns)) e) ws (m % ns))) 12

/-- R214. Widen one register into a group, non-saturating. -/
def execVunpk (d a : BitVec 5) (fs fd : BitVec 4) (r : BitVec 2) (g : BitVec 5) (s : State) : Out :=
  guarded g s fun s =>
    let ws := (fmtOf fs).width
    let wd := (fmtOf fd).width
    let nd := 32 / wd
    let x := s.rdV 0 a.toNat
    (List.range (wd / ws)).foldl (fun s q => s.putV (d.toNat + q) (Vec.build fun e => packSubs wd fun k =>
      convert (fmtOf fs) (fmtOf fd) (RMode.of r) false (sub (x.el e) ws (q * nd + k))) 12) s

/-- The MX format code whose elements have a code of vquant (R215). -/
def mxCode (fd : BitVec 4) : BitVec 4 := fd + 3

/-- Bytes padded with zeros to the image of a vector register. -/
def padImage (bs : List Byte) : Vec := Vec.ofBytes (bs ++ List.replicate (4096 - bs.length) 0)

/-- R215. Quantise a 64 x 64 fp32 tile into a row-blocked MX tile: elements, scales and checksums. -/
def execVquant (d a : BitVec 5) (fd : BitVec 4) (g : BitVec 5) (s : State) : Out :=
  guarded g s fun s =>
    let src := (List.range 4).flatMap fun q => s.rdV q (a.toNat + q)
    let (t, sat) := quantTile (mxCode fd) false (src.map f32)
    let img := t.image
    let s := s.putV d.toNat (padImage ((img.drop 128).take (slotNeed (mxCode fd)))) 12
    let s := s.putV (d.toNat + 1) (padImage (img.take 128)) 12
    let s := s.putV (d.toNat + 2) (padImage (img.drop (tailStart (mxCode fd)))) 12
    s.updMe fun P => P.issue (if sat then .sat else .quant) 12

/-! ### Row axis and column axis -/

/-- Every element (i, j) of v[d] from v[a] (R216). -/
def State.vecMove (s : State) (d a : BitVec 5) (L : Nat) (f : Nat → Nat → Nat × Nat) : State :=
  let x := s.rdV 0 a.toNat
  s.putV d.toNat (Vec.build fun e => let (i, j) := f (e / 64) (e % 64); x.el (64 * i + j)) L

/-- R216. Rotate rows by k. -/
def execVrotr (d a : BitVec 5) (k : BitVec 6) (g : BitVec 5) (s : State) : Out :=
  guarded g s fun s => s.vecMove d a 14 fun i j => ((i + k.toNat) % 16, j)

/-- R216. Broadcast row k. -/
def execVbcr (d a : BitVec 5) (k : BitVec 6) (g : BitVec 5) (s : State) : Out :=
  guarded g s fun s => s.vecMove d a 14 fun _ j => (k.toNat, j)

/-- R216. Rotate lanes by k. -/
def execVrotc (d a : BitVec 5) (k : BitVec 6) (g : BitVec 5) (s : State) : Out :=
  guarded g s fun s => s.vecMove d a 28 fun i j => (i, (j + k.toNat) % 64)

/-- R216. Broadcast lane k. -/
def execVbcc (d a : BitVec 5) (k : BitVec 6) (g : BitVec 5) (s : State) : Out :=
  guarded g s fun s => s.vecMove d a 28 fun i _ => (i, k.toNat)

/-- The operator of a reduction on 32-bit elements (R217). -/
def redOp (f : BitVec 2) (x y : W32) : W32 :=
  match f.toNat with
  | 0 => rne32 ((f32 x).add (f32 y))
  | 1 => rne32 ((f32 x).min (f32 y))
  | 2 => rne32 ((f32 x).max (f32 y))
  | _ => x + y

/-- The identity that stands for an absent input (R217). -/
def redId (f : BitVec 2) : W32 :=
  match f.toNat with
  | 0 => 0x80000000
  | 1 => 0x7F800000
  | 2 => 0xFF800000
  | _ => 0

/-- The tree of R199 over the inputs 0 to k of 2^lg. -/
def reduce (f : BitVec 2) (lg k : Nat) (x : Nat → W32) : W32 :=
  nth 0 (tree (redOp f) lg ((List.range (2 ^ lg)).map fun n => if n ≤ k then x n else redId f)) 0

/-- R217. Reduce each lane over rows 0 to k. -/
def execVredr (d a : BitVec 5) (k : BitVec 6) (f : BitVec 2) (g : BitVec 5) (s : State) : Out :=
  guarded g s fun s =>
    let x := s.rdV 0 a.toNat
    let r := (List.range 64).map fun j => reduce f 4 k.toNat fun i => x.el (64 * i + j)
    s.putV d.toNat (Vec.build fun e => nth 0 r (e % 64)) 14

/-- R217. Reduce each row over lanes 0 to k. -/
def execVredc (d a : BitVec 5) (k : BitVec 6) (f : BitVec 2) (g : BitVec 5) (s : State) : Out :=
  guarded g s fun s =>
    let x := s.rdV 0 a.toNat
    let r := (List.range 16).map fun i => reduce f 6 k.toNat fun j => x.el (64 * i + j)
    s.putV d.toNat (Vec.build fun e => nth 0 r (e / 64)) 28

/-- R218. Permute lanes by the indices in v[b]. -/
def execVpermc (d a b : BitVec 5) (m : BitVec 3) (g : BitVec 5) (s : State) : Out :=
  guarded g s fun s =>
    let x := s.rdV 0 a.toNat
    let y := s.rdV 1 b.toNat
    s.putMasked d m (Vec.build fun e => x.el (64 * (e / 64) + (y.el e).toNat % 64)) 28

/-! ### Scalar and vector -/

/-- R219. s[d] := v[a](r, c). -/
def execVext (d a : BitVec 5) (r : BitVec 4) (c : BitVec 6) (g : BitVec 5) (s : State) : Out :=
  guarded g s fun s => s.putS d (((s.rdV 0 a.toNat).el (64 * r.toNat + c.toNat)).setWidth 64) 12

/-- R219. v[d](r, c) := s[a][31:0]. -/
def execVins (d a : BitVec 5) (r : BitVec 4) (c : BitVec 6) (g : BitVec 5) (s : State) : Out :=
  guarded g s fun s =>
    s.putV d.toNat (setNth (s.rdV 2 d.toNat) (64 * r.toNat + c.toNat) ((s.rdS 0 a).setWidth 32)) 12

/-! ### Masks -/

/-- The operator of mlog (R220). -/
def maskOp (o : BitVec 3) (x y : Mask) : Mask :=
  match o.toNat with
  | 0 => x &&& y
  | 1 => x ||| y
  | 2 => x ^^^ y
  | 3 => x &&& ~~~y
  | 4 => x ||| ~~~y
  | 5 => ~~~(x &&& y)
  | 6 => ~~~(x ||| y)
  | _ => ~~~(x ^^^ y)

/-- R220. m[d] := m[a] op m[b]. -/
def execMlog (d a b : BitVec 5) (o : BitVec 3) (g : BitVec 5) (s : State) : Out :=
  guarded g s fun s => s.putM d.toNat (maskOp o (s.rdM 0 a.toNat) (s.rdM 1 b.toNat)) 12

/-- R220. s[d] := true bits of m[a] AND m[m]. -/
def execMpop (d a : BitVec 5) (m : BitVec 3) (g : BitVec 5) (s : State) : Out :=
  guarded g s fun s =>
    let x := s.rdM 0 a.toNat &&& s.rdM 3 m.toNat
    s.putS d (BitVec.ofNat 64 ((List.range 1024).filter fun e => x.getLsbD e).length) 12

/-- R220. Bit e of m[d] := e < min(s[a], 1024). -/
def execMset (d a : BitVec 5) (g : BitVec 5) (s : State) : Out :=
  guarded g s fun s => s.putM d.toNat (BitVec.ofNat 1024 (2 ^ min (s.rdS 0 a).toNat 1024 - 1)) 12

/-- R220. m[d] := m[a]. -/
def execMmov (d a : BitVec 5) (g : BitVec 5) (s : State) : Out :=
  guarded g s fun s => s.putM d.toNat (s.rdM 0 a.toNat) 12

/-! ### Special functions -/

/-- R221. Each sub-element: reciprocal, R200. -/
def execVrcp (d a : BitVec 5) (m : BitVec 3) (t : BitVec 2) (g : BitVec 5) (s : State) : Out :=
  guarded g s fun s => s.vecF1 d a m t rcpV 40

/-- R221. Each sub-element: reciprocal square root, R201. -/
def execVrsq (d a : BitVec 5) (m : BitVec 3) (t : BitVec 2) (g : BitVec 5) (s : State) : Out :=
  guarded g s fun s => s.vecF1 d a m t rsqV 40

/-- R221. Each sub-element: power of two, R202. -/
def execVexp2 (d a : BitVec 5) (m : BitVec 3) (t : BitVec 2) (g : BitVec 5) (s : State) : Out :=
  guarded g s fun s => s.vecF1 d a m t exp2V 40

/-- R221. Each sub-element: base-2 logarithm, R202. -/
def execVlog2 (d a : BitVec 5) (m : BitVec 3) (t : BitVec 2) (g : BitVec 5) (s : State) : Out :=
  guarded g s fun s => s.vecF1 d a m t log2V 40

end Sys2Proof.Machine
end

