-- ==== Sys2Proof/Machine/Dispatch.lean ====
section
/-! DEFINITION. The dispatch of instructions to their meanings: one arm for each constructor of `Instr`. -/

namespace Sys2Proof.Machine

def exec (i : Instr) (s : State) : Host.Outcome State Fault Refusal :=
  match i with
  | .sadd x0 x1 x2 x3 x4 x5 => Sys2Proof.Machine.execSadd x0 x1 x2 x3 x4 x5 s
  | .ssub x0 x1 x2 x3 x4 x5 => Sys2Proof.Machine.execSsub x0 x1 x2 x3 x4 x5 s
  | .smul x0 x1 x2 x3 x4 x5 => Sys2Proof.Machine.execSmul x0 x1 x2 x3 x4 x5 s
  | .smulh x0 x1 x2 x3 x4 x5 => Sys2Proof.Machine.execSmulh x0 x1 x2 x3 x4 x5 s
  | .sdiv x0 x1 x2 x3 x4 x5 => Sys2Proof.Machine.execSdiv x0 x1 x2 x3 x4 x5 s
  | .srem x0 x1 x2 x3 x4 x5 => Sys2Proof.Machine.execSrem x0 x1 x2 x3 x4 x5 s
  | .smin x0 x1 x2 x3 x4 x5 => Sys2Proof.Machine.execSmin x0 x1 x2 x3 x4 x5 s
  | .smax x0 x1 x2 x3 x4 x5 => Sys2Proof.Machine.execSmax x0 x1 x2 x3 x4 x5 s
  | .sand x0 x1 x2 x3 x4 x5 => Sys2Proof.Machine.execSand x0 x1 x2 x3 x4 x5 s
  | .sor x0 x1 x2 x3 x4 x5 => Sys2Proof.Machine.execSor x0 x1 x2 x3 x4 x5 s
  | .sxor x0 x1 x2 x3 x4 x5 => Sys2Proof.Machine.execSxor x0 x1 x2 x3 x4 x5 s
  | .sandn x0 x1 x2 x3 x4 x5 => Sys2Proof.Machine.execSandn x0 x1 x2 x3 x4 x5 s
  | .sshl x0 x1 x2 x3 x4 x5 => Sys2Proof.Machine.execSshl x0 x1 x2 x3 x4 x5 s
  | .sshr x0 x1 x2 x3 x4 x5 => Sys2Proof.Machine.execSshr x0 x1 x2 x3 x4 x5 s
  | .ssra x0 x1 x2 x3 x4 x5 => Sys2Proof.Machine.execSsra x0 x1 x2 x3 x4 x5 s
  | .srot x0 x1 x2 x3 x4 x5 => Sys2Proof.Machine.execSrot x0 x1 x2 x3 x4 x5 s
  | .saddSi x0 x1 x2 x3 => Sys2Proof.Machine.execSaddSi x0 x1 x2 x3 s
  | .smulSi x0 x1 x2 x3 => Sys2Proof.Machine.execSmulSi x0 x1 x2 x3 s
  | .sandSi x0 x1 x2 x3 => Sys2Proof.Machine.execSandSi x0 x1 x2 x3 s
  | .sorSi x0 x1 x2 x3 => Sys2Proof.Machine.execSorSi x0 x1 x2 x3 s
  | .sxorSi x0 x1 x2 x3 => Sys2Proof.Machine.execSxorSi x0 x1 x2 x3 s
  | .sminSi x0 x1 x2 x3 => Sys2Proof.Machine.execSminSi x0 x1 x2 x3 s
  | .smaxSi x0 x1 x2 x3 => Sys2Proof.Machine.execSmaxSi x0 x1 x2 x3 s
  | .sshlSi x0 x1 x2 x3 => Sys2Proof.Machine.execSshlSi x0 x1 x2 x3 s
  | .sshrSi x0 x1 x2 x3 => Sys2Proof.Machine.execSshrSi x0 x1 x2 x3 s
  | .ssraSi x0 x1 x2 x3 => Sys2Proof.Machine.execSsraSi x0 x1 x2 x3 s
  | .srotSi x0 x1 x2 x3 => Sys2Proof.Machine.execSrotSi x0 x1 x2 x3 s
  | .sclz x0 x1 x2 x3 x4 => Sys2Proof.Machine.execSclz x0 x1 x2 x3 x4 s
  | .sctz x0 x1 x2 x3 x4 => Sys2Proof.Machine.execSctz x0 x1 x2 x3 x4 s
  | .spopc x0 x1 x2 x3 x4 => Sys2Proof.Machine.execSpopc x0 x1 x2 x3 x4 s
  | .sext x0 x1 x2 x3 x4 => Sys2Proof.Machine.execSext x0 x1 x2 x3 x4 s
  | .sbfx x0 x1 x2 x3 x4 => Sys2Proof.Machine.execSbfx x0 x1 x2 x3 x4 s
  | .sbfi x0 x1 x2 x3 => Sys2Proof.Machine.execSbfi x0 x1 x2 x3 s
  | .smov x0 x1 x2 => Sys2Proof.Machine.execSmov x0 x1 x2 s
  | .smovi x0 x1 x2 => Sys2Proof.Machine.execSmovi x0 x1 x2 s
  | .scmp x0 x1 x2 x3 x4 x5 => Sys2Proof.Machine.execScmp x0 x1 x2 x3 x4 x5 s
  | .scmpSi x0 x1 x2 x3 x4 => Sys2Proof.Machine.execScmpSi x0 x1 x2 x3 x4 s
  | .ssel x0 x1 x2 x3 x4 x5 => Sys2Proof.Machine.execSsel x0 x1 x2 x3 x4 x5 s
  | .pset x0 x1 x2 x3 x4 => Sys2Proof.Machine.execPset x0 x1 x2 x3 x4 s
  | .sfadd x0 x1 x2 x3 x4 => Sys2Proof.Machine.execSfadd x0 x1 x2 x3 x4 s
  | .sfmul x0 x1 x2 x3 => Sys2Proof.Machine.execSfmul x0 x1 x2 x3 s
  | .sffma x0 x1 x2 x3 x4 => Sys2Proof.Machine.execSffma x0 x1 x2 x3 x4 s
  | .sfcvt x0 x1 x2 x3 x4 x5 x6 x7 => Sys2Proof.Machine.execSfcvt x0 x1 x2 x3 x4 x5 x6 x7 s
  | .sfcmp x0 x1 x2 x3 x4 => Sys2Proof.Machine.execSfcmp x0 x1 x2 x3 x4 s
  | .sget x0 x1 x2 => Sys2Proof.Machine.execSget x0 x1 x2 s
  | .sset x0 x1 x2 => Sys2Proof.Machine.execSset x0 x1 x2 s
  | .br x0 x1 => Sys2Proof.Machine.execBr x0 x1 s
  | .call x0 x1 => Sys2Proof.Machine.execCall x0 x1 s
  | .bri x0 x1 x2 => Sys2Proof.Machine.execBri x0 x1 x2 s
  | .ret x0 => Sys2Proof.Machine.execRet x0 s
  | .loop x0 x1 x2 x3 => Sys2Proof.Machine.execLoop x0 x1 x2 x3 s
  | .loopx x0 x1 => Sys2Proof.Machine.execLoopx x0 x1 s
  | .trap x0 x1 => Sys2Proof.Machine.execTrap x0 x1 s
  | .brk x0 x1 => Sys2Proof.Machine.execBrk x0 x1 s
  | .trig x0 => Sys2Proof.Machine.execTrig x0 s
  | .exit x0 => Sys2Proof.Machine.execExit x0 s
  | .yield x0 => Sys2Proof.Machine.execYield x0 s
  | .cont x0 x1 => Sys2Proof.Machine.execCont x0 x1 s
  | .tret x0 => Sys2Proof.Machine.execTret x0 s
  | .halt x0 => Sys2Proof.Machine.execHalt x0 s
  | .vaddF x0 x1 x2 x3 x4 x5 => Sys2Proof.Machine.execVaddF x0 x1 x2 x3 x4 x5 s
  | .vsubF x0 x1 x2 x3 x4 x5 => Sys2Proof.Machine.execVsubF x0 x1 x2 x3 x4 x5 s
  | .vmulF x0 x1 x2 x3 x4 x5 => Sys2Proof.Machine.execVmulF x0 x1 x2 x3 x4 x5 s
  | .vfma x0 x1 x2 x3 x4 x5 => Sys2Proof.Machine.execVfma x0 x1 x2 x3 x4 x5 s
  | .vfnma x0 x1 x2 x3 x4 x5 => Sys2Proof.Machine.execVfnma x0 x1 x2 x3 x4 x5 s
  | .vminF x0 x1 x2 x3 x4 x5 => Sys2Proof.Machine.execVminF x0 x1 x2 x3 x4 x5 s
  | .vmaxF x0 x1 x2 x3 x4 x5 => Sys2Proof.Machine.execVmaxF x0 x1 x2 x3 x4 x5 s
  | .vabsF x0 x1 x2 x3 x4 => Sys2Proof.Machine.execVabsF x0 x1 x2 x3 x4 s
  | .vnegF x0 x1 x2 x3 x4 => Sys2Proof.Machine.execVnegF x0 x1 x2 x3 x4 s
  | .vcmpF x0 x1 x2 x3 x4 x5 => Sys2Proof.Machine.execVcmpF x0 x1 x2 x3 x4 x5 s
  | .vaddI x0 x1 x2 x3 x4 x5 => Sys2Proof.Machine.execVaddI x0 x1 x2 x3 x4 x5 s
  | .vsubI x0 x1 x2 x3 x4 x5 => Sys2Proof.Machine.execVsubI x0 x1 x2 x3 x4 x5 s
  | .vmulI x0 x1 x2 x3 x4 x5 => Sys2Proof.Machine.execVmulI x0 x1 x2 x3 x4 x5 s
  | .vminI x0 x1 x2 x3 x4 x5 => Sys2Proof.Machine.execVminI x0 x1 x2 x3 x4 x5 s
  | .vmaxI x0 x1 x2 x3 x4 x5 => Sys2Proof.Machine.execVmaxI x0 x1 x2 x3 x4 x5 s
  | .vminN x0 x1 x2 x3 x4 x5 => Sys2Proof.Machine.execVminN x0 x1 x2 x3 x4 x5 s
  | .vmaxN x0 x1 x2 x3 x4 x5 => Sys2Proof.Machine.execVmaxN x0 x1 x2 x3 x4 x5 s
  | .vabsI x0 x1 x2 x3 x4 => Sys2Proof.Machine.execVabsI x0 x1 x2 x3 x4 s
  | .vnegI x0 x1 x2 x3 x4 => Sys2Proof.Machine.execVnegI x0 x1 x2 x3 x4 s
  | .vcmpI x0 x1 x2 x3 x4 x5 => Sys2Proof.Machine.execVcmpI x0 x1 x2 x3 x4 x5 s
  | .vcmpN x0 x1 x2 x3 x4 x5 => Sys2Proof.Machine.execVcmpN x0 x1 x2 x3 x4 x5 s
  | .vand x0 x1 x2 x3 x4 => Sys2Proof.Machine.execVand x0 x1 x2 x3 x4 s
  | .vor x0 x1 x2 x3 x4 => Sys2Proof.Machine.execVor x0 x1 x2 x3 x4 s
  | .vxor x0 x1 x2 x3 x4 => Sys2Proof.Machine.execVxor x0 x1 x2 x3 x4 s
  | .vshl x0 x1 x2 x3 x4 x5 => Sys2Proof.Machine.execVshl x0 x1 x2 x3 x4 x5 s
  | .vshr x0 x1 x2 x3 x4 x5 => Sys2Proof.Machine.execVshr x0 x1 x2 x3 x4 x5 s
  | .vsra x0 x1 x2 x3 x4 x5 => Sys2Proof.Machine.execVsra x0 x1 x2 x3 x4 x5 s
  | .vsel x0 x1 x2 x3 x4 => Sys2Proof.Machine.execVsel x0 x1 x2 x3 x4 s
  | .vmov x0 x1 x2 x3 => Sys2Proof.Machine.execVmov x0 x1 x2 x3 s
  | .vmovs x0 x1 x2 x3 => Sys2Proof.Machine.execVmovs x0 x1 x2 x3 s
  | .viota x0 x1 x2 x3 => Sys2Proof.Machine.execViota x0 x1 x2 x3 s
  | .vcvt x0 x1 x2 x3 x4 x5 => Sys2Proof.Machine.execVcvt x0 x1 x2 x3 x4 x5 s
  | .vcvtSat x0 x1 x2 x3 x4 x5 => Sys2Proof.Machine.execVcvtSat x0 x1 x2 x3 x4 x5 s
  | .vpack x0 x1 x2 x3 x4 x5 => Sys2Proof.Machine.execVpack x0 x1 x2 x3 x4 x5 s
  | .vunpk x0 x1 x2 x3 x4 x5 => Sys2Proof.Machine.execVunpk x0 x1 x2 x3 x4 x5 s
  | .vquant x0 x1 x2 x3 => Sys2Proof.Machine.execVquant x0 x1 x2 x3 s
  | .vrotr x0 x1 x2 x3 => Sys2Proof.Machine.execVrotr x0 x1 x2 x3 s
  | .vbcr x0 x1 x2 x3 => Sys2Proof.Machine.execVbcr x0 x1 x2 x3 s
  | .vredr x0 x1 x2 x3 x4 => Sys2Proof.Machine.execVredr x0 x1 x2 x3 x4 s
  | .vrotc x0 x1 x2 x3 => Sys2Proof.Machine.execVrotc x0 x1 x2 x3 s
  | .vbcc x0 x1 x2 x3 => Sys2Proof.Machine.execVbcc x0 x1 x2 x3 s
  | .vredc x0 x1 x2 x3 x4 => Sys2Proof.Machine.execVredc x0 x1 x2 x3 x4 s
  | .vpermc x0 x1 x2 x3 x4 => Sys2Proof.Machine.execVpermc x0 x1 x2 x3 x4 s
  | .vext x0 x1 x2 x3 x4 => Sys2Proof.Machine.execVext x0 x1 x2 x3 x4 s
  | .vins x0 x1 x2 x3 x4 => Sys2Proof.Machine.execVins x0 x1 x2 x3 x4 s
  | .mlog x0 x1 x2 x3 x4 => Sys2Proof.Machine.execMlog x0 x1 x2 x3 x4 s
  | .mpop x0 x1 x2 x3 => Sys2Proof.Machine.execMpop x0 x1 x2 x3 s
  | .mset x0 x1 x2 => Sys2Proof.Machine.execMset x0 x1 x2 s
  | .mmov x0 x1 x2 => Sys2Proof.Machine.execMmov x0 x1 x2 s
  | .vrcp x0 x1 x2 x3 x4 => Sys2Proof.Machine.execVrcp x0 x1 x2 x3 x4 s
  | .vrsq x0 x1 x2 x3 x4 => Sys2Proof.Machine.execVrsq x0 x1 x2 x3 x4 s
  | .vexp2 x0 x1 x2 x3 x4 => Sys2Proof.Machine.execVexp2 x0 x1 x2 x3 x4 s
  | .vlog2 x0 x1 x2 x3 x4 => Sys2Proof.Machine.execVlog2 x0 x1 x2 x3 x4 s
  | .ldB x0 x1 x2 x3 => Sys2Proof.Machine.execLdB x0 x1 x2 x3 s
  | .ldBu x0 x1 x2 x3 => Sys2Proof.Machine.execLdBu x0 x1 x2 x3 s
  | .ldH x0 x1 x2 x3 => Sys2Proof.Machine.execLdH x0 x1 x2 x3 s
  | .ldHu x0 x1 x2 x3 => Sys2Proof.Machine.execLdHu x0 x1 x2 x3 s
  | .ldW x0 x1 x2 x3 => Sys2Proof.Machine.execLdW x0 x1 x2 x3 s
  | .ldWu x0 x1 x2 x3 => Sys2Proof.Machine.execLdWu x0 x1 x2 x3 s
  | .ldD x0 x1 x2 x3 => Sys2Proof.Machine.execLdD x0 x1 x2 x3 s
  | .ldv x0 x1 x2 x3 => Sys2Proof.Machine.execLdv x0 x1 x2 x3 s
  | .stB x0 x1 x2 x3 => Sys2Proof.Machine.execStB x0 x1 x2 x3 s
  | .stH x0 x1 x2 x3 => Sys2Proof.Machine.execStH x0 x1 x2 x3 s
  | .stW x0 x1 x2 x3 => Sys2Proof.Machine.execStW x0 x1 x2 x3 s
  | .stD x0 x1 x2 x3 => Sys2Proof.Machine.execStD x0 x1 x2 x3 s
  | .stv x0 x1 x2 x3 => Sys2Proof.Machine.execStv x0 x1 x2 x3 s
  | .ldBMq x0 x1 x2 x3 x4 x5 => Sys2Proof.Machine.execLdBMq x0 x1 x2 x3 x4 x5 s
  | .ldBuMq x0 x1 x2 x3 x4 x5 => Sys2Proof.Machine.execLdBuMq x0 x1 x2 x3 x4 x5 s
  | .ldHMq x0 x1 x2 x3 x4 x5 => Sys2Proof.Machine.execLdHMq x0 x1 x2 x3 x4 x5 s
  | .ldHuMq x0 x1 x2 x3 x4 x5 => Sys2Proof.Machine.execLdHuMq x0 x1 x2 x3 x4 x5 s
  | .ldWMq x0 x1 x2 x3 x4 x5 => Sys2Proof.Machine.execLdWMq x0 x1 x2 x3 x4 x5 s
  | .ldWuMq x0 x1 x2 x3 x4 x5 => Sys2Proof.Machine.execLdWuMq x0 x1 x2 x3 x4 x5 s
  | .ldDMq x0 x1 x2 x3 x4 x5 => Sys2Proof.Machine.execLdDMq x0 x1 x2 x3 x4 x5 s
  | .ldvMq x0 x1 x2 x3 x4 x5 => Sys2Proof.Machine.execLdvMq x0 x1 x2 x3 x4 x5 s
  | .stBMq x0 x1 x2 x3 x4 x5 => Sys2Proof.Machine.execStBMq x0 x1 x2 x3 x4 x5 s
  | .stHMq x0 x1 x2 x3 x4 x5 => Sys2Proof.Machine.execStHMq x0 x1 x2 x3 x4 x5 s
  | .stWMq x0 x1 x2 x3 x4 x5 => Sys2Proof.Machine.execStWMq x0 x1 x2 x3 x4 x5 s
  | .stDMq x0 x1 x2 x3 x4 x5 => Sys2Proof.Machine.execStDMq x0 x1 x2 x3 x4 x5 s
  | .stvMq x0 x1 x2 x3 x4 x5 => Sys2Proof.Machine.execStvMq x0 x1 x2 x3 x4 x5 s
  | .ldAcqB x0 x1 x2 x3 x4 x5 => Sys2Proof.Machine.execLdAcqB x0 x1 x2 x3 x4 x5 s
  | .ldAcqBu x0 x1 x2 x3 x4 x5 => Sys2Proof.Machine.execLdAcqBu x0 x1 x2 x3 x4 x5 s
  | .ldAcqH x0 x1 x2 x3 x4 x5 => Sys2Proof.Machine.execLdAcqH x0 x1 x2 x3 x4 x5 s
  | .ldAcqHu x0 x1 x2 x3 x4 x5 => Sys2Proof.Machine.execLdAcqHu x0 x1 x2 x3 x4 x5 s
  | .ldAcqW x0 x1 x2 x3 x4 x5 => Sys2Proof.Machine.execLdAcqW x0 x1 x2 x3 x4 x5 s
  | .ldAcqWu x0 x1 x2 x3 x4 x5 => Sys2Proof.Machine.execLdAcqWu x0 x1 x2 x3 x4 x5 s
  | .ldAcqD x0 x1 x2 x3 x4 x5 => Sys2Proof.Machine.execLdAcqD x0 x1 x2 x3 x4 x5 s
  | .stRelB x0 x1 x2 x3 x4 x5 => Sys2Proof.Machine.execStRelB x0 x1 x2 x3 x4 x5 s
  | .stRelH x0 x1 x2 x3 x4 x5 => Sys2Proof.Machine.execStRelH x0 x1 x2 x3 x4 x5 s
  | .stRelW x0 x1 x2 x3 x4 x5 => Sys2Proof.Machine.execStRelW x0 x1 x2 x3 x4 x5 s
  | .stRelD x0 x1 x2 x3 x4 x5 => Sys2Proof.Machine.execStRelD x0 x1 x2 x3 x4 x5 s
  | .ldSpB x0 x1 x2 x3 => Sys2Proof.Machine.execLdSpB x0 x1 x2 x3 s
  | .ldSpBu x0 x1 x2 x3 => Sys2Proof.Machine.execLdSpBu x0 x1 x2 x3 s
  | .ldSpH x0 x1 x2 x3 => Sys2Proof.Machine.execLdSpH x0 x1 x2 x3 s
  | .ldSpHu x0 x1 x2 x3 => Sys2Proof.Machine.execLdSpHu x0 x1 x2 x3 s
  | .ldSpW x0 x1 x2 x3 => Sys2Proof.Machine.execLdSpW x0 x1 x2 x3 s
  | .ldSpWu x0 x1 x2 x3 => Sys2Proof.Machine.execLdSpWu x0 x1 x2 x3 s
  | .ldSpD x0 x1 x2 x3 => Sys2Proof.Machine.execLdSpD x0 x1 x2 x3 s
  | .ldvSp x0 x1 x2 x3 => Sys2Proof.Machine.execLdvSp x0 x1 x2 x3 s
  | .stSpB x0 x1 x2 x3 => Sys2Proof.Machine.execStSpB x0 x1 x2 x3 s
  | .stSpH x0 x1 x2 x3 => Sys2Proof.Machine.execStSpH x0 x1 x2 x3 s
  | .stSpW x0 x1 x2 x3 => Sys2Proof.Machine.execStSpW x0 x1 x2 x3 s
  | .stSpD x0 x1 x2 x3 => Sys2Proof.Machine.execStSpD x0 x1 x2 x3 s
  | .stvSp x0 x1 x2 x3 => Sys2Proof.Machine.execStvSp x0 x1 x2 x3 s
  | .ldSpBMq x0 x1 x2 x3 x4 => Sys2Proof.Machine.execLdSpBMq x0 x1 x2 x3 x4 s
  | .ldSpBuMq x0 x1 x2 x3 x4 => Sys2Proof.Machine.execLdSpBuMq x0 x1 x2 x3 x4 s
  | .ldSpHMq x0 x1 x2 x3 x4 => Sys2Proof.Machine.execLdSpHMq x0 x1 x2 x3 x4 s
  | .ldSpHuMq x0 x1 x2 x3 x4 => Sys2Proof.Machine.execLdSpHuMq x0 x1 x2 x3 x4 s
  | .ldSpWMq x0 x1 x2 x3 x4 => Sys2Proof.Machine.execLdSpWMq x0 x1 x2 x3 x4 s
  | .ldSpWuMq x0 x1 x2 x3 x4 => Sys2Proof.Machine.execLdSpWuMq x0 x1 x2 x3 x4 s
  | .ldSpDMq x0 x1 x2 x3 x4 => Sys2Proof.Machine.execLdSpDMq x0 x1 x2 x3 x4 s
  | .ldvSpMq x0 x1 x2 x3 x4 => Sys2Proof.Machine.execLdvSpMq x0 x1 x2 x3 x4 s
  | .stSpBMq x0 x1 x2 x3 x4 => Sys2Proof.Machine.execStSpBMq x0 x1 x2 x3 x4 s
  | .stSpHMq x0 x1 x2 x3 x4 => Sys2Proof.Machine.execStSpHMq x0 x1 x2 x3 x4 s
  | .stSpWMq x0 x1 x2 x3 x4 => Sys2Proof.Machine.execStSpWMq x0 x1 x2 x3 x4 s
  | .stSpDMq x0 x1 x2 x3 x4 => Sys2Proof.Machine.execStSpDMq x0 x1 x2 x3 x4 s
  | .stvSpMq x0 x1 x2 x3 x4 => Sys2Proof.Machine.execStvSpMq x0 x1 x2 x3 x4 s
  | .ldx x0 x1 x2 x3 x4 => Sys2Proof.Machine.execLdx x0 x1 x2 x3 x4 s
  | .stx x0 x1 x2 x3 x4 => Sys2Proof.Machine.execStx x0 x1 x2 x3 x4 s
  | .ldxSp x0 x1 x2 x3 x4 => Sys2Proof.Machine.execLdxSp x0 x1 x2 x3 x4 s
  | .stxSp x0 x1 x2 x3 x4 => Sys2Proof.Machine.execStxSp x0 x1 x2 x3 x4 s
  | .atomW x0 x1 x2 x3 x4 x5 => Sys2Proof.Machine.execAtomW x0 x1 x2 x3 x4 x5 s
  | .atomD x0 x1 x2 x3 x4 x5 => Sys2Proof.Machine.execAtomD x0 x1 x2 x3 x4 x5 s
  | .casW x0 x1 x2 x3 x4 => Sys2Proof.Machine.execCasW x0 x1 x2 x3 x4 s
  | .casD x0 x1 x2 x3 x4 => Sys2Proof.Machine.execCasD x0 x1 x2 x3 x4 s
  | .fence x0 x1 x2 => Sys2Proof.Machine.execFence x0 x1 x2 s
  | .mwait x0 x1 x2 x3 x4 => Sys2Proof.Machine.execMwait x0 x1 x2 x3 x4 s
  | .prf x0 x1 x2 x3 => Sys2Proof.Machine.execPrf x0 x1 x2 x3 s
  | .cinv x0 => Sys2Proof.Machine.execCinv x0 s
  | .cinvL x0 x1 => Sys2Proof.Machine.execCinvL x0 x1 s
  | .vjoin x0 => Sys2Proof.Machine.execVjoin x0 s
  | .ifence x0 => Sys2Proof.Machine.execIfence x0 s
  | .enq x0 x1 x2 => Sys2Proof.Machine.execEnq x0 x1 x2 s
  | .grow x0 x1 => Sys2Proof.Machine.execGrow x0 x1 s
  | .bgadd x0 x1 x2 x3 => Sys2Proof.Machine.execBgadd x0 x1 x2 x3 s
  | .copy x0 x1 x2 x3 x4 => Sys2Proof.Machine.execCopy x0 x1 x2 x3 x4 s
  | .stamp x0 x1 x2 x3 x4 x5 => Sys2Proof.Machine.execStamp x0 x1 x2 x3 x4 x5 s
  | .ctarm x0 x1 x2 x3 x4 => Sys2Proof.Machine.execCtarm x0 x1 x2 x3 x4 s
  | .ctarmDis x0 x1 x2 x3 => Sys2Proof.Machine.execCtarmDis x0 x1 x2 x3 s
  | .ctset x0 x1 x2 x3 => Sys2Proof.Machine.execCtset x0 x1 x2 x3 s
  | .ctstat x0 x1 x2 x3 => Sys2Proof.Machine.execCtstat x0 x1 x2 x3 s
  | .hgive x0 x1 x2 x3 x4 => Sys2Proof.Machine.execHgive x0 x1 x2 x3 x4 s
  | .hgiveRet x0 x1 x2 x3 => Sys2Proof.Machine.execHgiveRet x0 x1 x2 x3 s
  | .htake x0 x1 x2 x3 x4 => Sys2Proof.Machine.execHtake x0 x1 x2 x3 x4 s
  | .htakeWd x0 x1 x2 x3 => Sys2Proof.Machine.execHtakeWd x0 x1 x2 x3 s
  | .hqry x0 x1 x2 => Sys2Proof.Machine.execHqry x0 x1 x2 s
  | .snap x0 x1 x2 x3 => Sys2Proof.Machine.execSnap x0 x1 x2 x3 s
  | .sacc x0 x1 x2 x3 => Sys2Proof.Machine.execSacc x0 x1 x2 x3 s
  | .srej x0 x1 x2 x3 => Sys2Proof.Machine.execSrej x0 x1 x2 x3 s
  | .sstat x0 x1 x2 => Sys2Proof.Machine.execSstat x0 x1 x2 s
  | .evac x0 x1 x2 x3 x4 => Sys2Proof.Machine.execEvac x0 x1 x2 x3 x4 s
  | .chartq x0 x1 x2 => Sys2Proof.Machine.execChartq x0 x1 x2 s
  | .mxfmt x0 x1 x2 x3 => Sys2Proof.Machine.execMxfmt x0 x1 x2 x3 s
  | .mxw x0 x1 x2 => Sys2Proof.Machine.execMxw x0 x1 x2 s
  | .mxmac x0 x1 x2 x3 => Sys2Proof.Machine.execMxmac x0 x1 x2 x3 s
  | .mxmul x0 x1 x2 x3 => Sys2Proof.Machine.execMxmul x0 x1 x2 x3 s
  | .mxdrv x0 x1 x2 x3 => Sys2Proof.Machine.execMxdrv x0 x1 x2 x3 s
  | .mxchk x0 x1 x2 x3 => Sys2Proof.Machine.execMxchk x0 x1 x2 x3 s
  | .mxwait x0 => Sys2Proof.Machine.execMxwait x0 s
  | .ringcfg x0 x1 x2 x3 x4 => Sys2Proof.Machine.execRingcfg x0 x1 x2 x3 x4 s
  | .ringst x0 x1 x2 x3 => Sys2Proof.Machine.execRingst x0 x1 x2 x3 s
  | .tld x0 x1 x2 x3 x4 x5 x6 => Sys2Proof.Machine.execTld x0 x1 x2 x3 x4 x5 x6 s
  | .tst x0 x1 x2 x3 x4 x5 => Sys2Proof.Machine.execTst x0 x1 x2 x3 x4 x5 s
  | .ald x0 x1 x2 x3 x4 => Sys2Proof.Machine.execAld x0 x1 x2 x3 x4 s
  | .ast x0 x1 x2 x3 x4 => Sys2Proof.Machine.execAst x0 x1 x2 x3 x4 s
  | .aadd x0 x1 x2 x3 x4 => Sys2Proof.Machine.execAadd x0 x1 x2 x3 x4 s
  | .azero x0 x1 => Sys2Proof.Machine.execAzero x0 x1 s
  | .ascl x0 x1 x2 => Sys2Proof.Machine.execAscl x0 x1 x2 s
  | .acvt x0 x1 x2 x3 x4 => Sys2Proof.Machine.execAcvt x0 x1 x2 x3 x4 s
  | .acks x0 x1 => Sys2Proof.Machine.execAcks x0 x1 s
  | .aadam x0 x1 x2 x3 x4 => Sys2Proof.Machine.execAadam x0 x1 x2 x3 x4 s
  | .bundleIssue x0 => Sys2Proof.Machine.execBundleIssue x0 s
  | .bundleLimitDatum x0 => Sys2Proof.Machine.execBundleLimitDatum x0 s
  | .interlockedResult x0 x1 => Sys2Proof.Machine.execInterlockedResult x0 x1 s
  | .datumCommit x0 => Sys2Proof.Machine.execDatumCommit x0 s
  | .remoteFaultDelivery x0 x1 => Sys2Proof.Machine.execRemoteFaultDelivery x0 x1 s
  | .budgetExhaustion x0 => Sys2Proof.Machine.execBudgetExhaustion x0 s
  | .graceExhaustion x0 => Sys2Proof.Machine.execGraceExhaustion x0 s
  | .stopRequest x0 x1 => Sys2Proof.Machine.execStopRequest x0 x1 s
  | .stopAbandon x0 => Sys2Proof.Machine.execStopAbandon x0 s
  | .storePerform x0 x1 => Sys2Proof.Machine.execStorePerform x0 x1 s
  | .monitorWake x0 => Sys2Proof.Machine.execMonitorWake x0 s
  | .mwaitRemoteRecheck x0 x1 => Sys2Proof.Machine.execMwaitRemoteRecheck x0 x1 s
  | .mwaitHostPoll x0 x1 => Sys2Proof.Machine.execMwaitHostPoll x0 x1 s
  | .matrixCommandStart x0 => Sys2Proof.Machine.execMatrixCommandStart x0 s
  | .drainCheck x0 => Sys2Proof.Machine.execDrainCheck x0 s
  | .tldComplete x0 => Sys2Proof.Machine.execTldComplete x0 s
  | .tstComplete x0 => Sys2Proof.Machine.execTstComplete x0 s
  | .copyExecute x0 => Sys2Proof.Machine.execCopyExecute x0 s
  | .copyStamp x0 => Sys2Proof.Machine.execCopyStamp x0 s
  | .stampWrite x0 => Sys2Proof.Machine.execStampWrite x0 s
  | .collectiveArm x0 => Sys2Proof.Machine.execCollectiveArm x0 s
  | .collectiveDisarm x0 => Sys2Proof.Machine.execCollectiveDisarm x0 s
  | .sendFlagSet x0 => Sys2Proof.Machine.execSendFlagSet x0 s
  | .collectiveSend x0 x1 => Sys2Proof.Machine.execCollectiveSend x0 x1 s
  | .sendComplete x0 x1 => Sys2Proof.Machine.execSendComplete x0 x1 s
  | .contributionArrival x0 x1 x2 => Sys2Proof.Machine.execContributionArrival x0 x1 x2 s
  | .collectiveTimeout x0 x1 => Sys2Proof.Machine.execCollectiveTimeout x0 x1 s
  | .handleOffer x0 => Sys2Proof.Machine.execHandleOffer x0 s
  | .handleBind x0 => Sys2Proof.Machine.execHandleBind x0 s
  | .handleReturn x0 => Sys2Proof.Machine.execHandleReturn x0 s
  | .handleWithdraw x0 => Sys2Proof.Machine.execHandleWithdraw x0 s
  | .snapInstall x0 => Sys2Proof.Machine.execSnapInstall x0 s
  | .snapshotAccept x0 => Sys2Proof.Machine.execSnapshotAccept x0 s
  | .snapshotReject x0 => Sys2Proof.Machine.execSnapshotReject x0 s
  | .growApply x0 => Sys2Proof.Machine.execGrowApply x0 s
  | .bgaddApply x0 => Sys2Proof.Machine.execBgaddApply x0 s
  | .retirement x0 => Sys2Proof.Machine.execRetirement x0 s
  | .evacuationLineCopy x0 => Sys2Proof.Machine.execEvacuationLineCopy x0 s
  | .compaction x0 => Sys2Proof.Machine.execCompaction x0 s
  | .foldCopy x0 => Sys2Proof.Machine.execFoldCopy x0 s
  | .errsThreshold x0 x1 => Sys2Proof.Machine.execErrsThreshold x0 x1 s
  | .selfTestComplete x0 x1 => Sys2Proof.Machine.execSelfTestComplete x0 x1 s
  | .patrolScrub x0 x1 => Sys2Proof.Machine.execPatrolScrub x0 x1 s
  | .admission x0 => Sys2Proof.Machine.execAdmission x0 s
  | .waitMet x0 => Sys2Proof.Machine.execWaitMet x0 s
  | .dispatch => Sys2Proof.Machine.execDispatch s
  | .ageingPromotion x0 => Sys2Proof.Machine.execAgeingPromotion x0 s
  | .isobarWindow => Sys2Proof.Machine.execIsobarWindow s
  | .packageReset x0 x1 => Sys2Proof.Machine.execPackageReset x0 x1 s
  | .attestationRequest x0 => Sys2Proof.Machine.execAttestationRequest x0 s
  | .ucieModuleFail x0 => Sys2Proof.Machine.execUcieModuleFail x0 s
  | .bhpRd x0 x1 x2 => Sys2Proof.Machine.execBhpRd x0 x1 x2 s
  | .bhpWr x0 x1 x2 x3 x4 => Sys2Proof.Machine.execBhpWr x0 x1 x2 x3 x4 s
  | .bhpRdAq x0 x1 => Sys2Proof.Machine.execBhpRdAq x0 x1 s
  | .bhpWrRl x0 x1 x2 => Sys2Proof.Machine.execBhpWrRl x0 x1 x2 s
  | .bhpFence x0 => Sys2Proof.Machine.execBhpFence x0 s
  | .bhpAt x0 x1 x2 x3 x4 x5 => Sys2Proof.Machine.execBhpAt x0 x1 x2 x3 x4 x5 s
  | .bhpCpl x0 x1 x2 x3 => Sys2Proof.Machine.execBhpCpl x0 x1 x2 x3 s
  | .registerWrite x0 x1 => Sys2Proof.Machine.execRegisterWrite x0 x1 s
  | .wbaseWrite x0 x1 => Sys2Proof.Machine.execWbaseWrite x0 x1 s
  | .queueEnable x0 x1 => Sys2Proof.Machine.execQueueEnable x0 x1 s
  | .queueDisable x0 x1 => Sys2Proof.Machine.execQueueDisable x0 x1 s
  | .featctlLock x0 => Sys2Proof.Machine.execFeatctlLock x0 s
  | .quiesceClear x0 => Sys2Proof.Machine.execQuiesceClear x0 s
  | .intcauseClear x0 => Sys2Proof.Machine.execIntcauseClear x0 s
  | .htret x0 => Sys2Proof.Machine.execHtret x0 s
  | .htopup x0 => Sys2Proof.Machine.execHtopup x0 s
  | .linkTrain x0 x1 x2 x3 => Sys2Proof.Machine.execLinkTrain x0 x1 x2 x3 s
  | .req x0 x1 => Sys2Proof.Machine.execReq x0 x1 s
  | .rsp x0 x1 x2 x3 => Sys2Proof.Machine.execRsp x0 x1 x2 x3 s
  | .wakeMessage x0 x1 => Sys2Proof.Machine.execWakeMessage x0 x1 s
  | .pause x0 x1 => Sys2Proof.Machine.execPause x0 x1 s
  | .resume x0 x1 => Sys2Proof.Machine.execResume x0 x1 s
  | .ack x0 x1 => Sys2Proof.Machine.execAck x0 x1 s
  | .nak x0 x1 => Sys2Proof.Machine.execNak x0 x1 s
  | .flitCrcFail x0 => Sys2Proof.Machine.execFlitCrcFail x0 s
  | .portRetrain x0 => Sys2Proof.Machine.execPortRetrain x0 s
  | .portDown x0 => Sys2Proof.Machine.execPortDown x0 s
  | .softError x0 => Sys2Proof.Machine.execSoftError x0 s
  | .mxwLoadComplete x0 => Sys2Proof.Machine.execMxwLoadComplete x0 s
  | .mxchkComplete x0 => Sys2Proof.Machine.execMxchkComplete x0 s

end Sys2Proof.Machine
end

