-- ==== Sys2Proof/Machine/Next.lean ====
section
/-! DEFINITION. Which agent acts next (assumption 2): the head of the agenda, or in its absence the hardware's own work in turn. The
manual fixes no order among agents but the orders each event's own meaning keeps. -/

namespace Sys2Proof

/-- An event of spec/95 rather than a slot operation: the events are the last 81 constructors. -/
def Instr.isEvent (i : Instr) : Bool := 230 ≤ i.ctorIdx

end Sys2Proof

namespace Sys2Proof.Machine

/-- A step of one agent. -/
abbrev Act := State → Out

/-- The events that carry out the k-th released command (R266). -/
def Cmd.acts (c : Cmd) (k : Nat) : List Act :=
  match c.kind with
  | .copy .. => [execCopyExecute ⟨k, none⟩, execCopyStamp k]
  | .stamp .. => [execStampWrite k]
  | .ctarm .. => [execCollectiveArm k]
  | .ctarmDis .. => [execCollectiveDisarm k]
  | .ctset .. => [execSendFlagSet k]
  | .hgive .. => [execHandleOffer k]
  | .hgiveRet .. => [execHandleReturn k]
  | .htake .. => [execHandleBind k]
  | .htakeWd .. => [execHandleWithdraw k]
  | .snap .. => [execSnapInstall k]
  | .sacc .. => [execSnapshotAccept k]
  | .srej .. => [execSnapshotReject k]
  | .grow .. => [execGrowApply k]
  | .bgadd .. => [execBgaddApply k]
  | .evac .. => [execRetirement k]
  | .trig => []

/-- What partition p may do: its next bundle, reads, internal operations and a wait. -/
def State.partActs (s : State) (p : Nat) : List Act :=
  let P := s.part p
  if P.task.isNone then []
  else
    [execBundleIssue p] ++
    (if P.pend.isEmpty then [] else [execInterlockedResult p 0]) ++
    (if P.mxq.isEmpty then [] else
      [execMatrixCommandStart (coreOf p), execDrainCheck (coreOf p), execMxwLoadComplete p, execMxchkComplete p]) ++
    (if P.tq.isEmpty then [] else [execTldComplete p, execTstComplete p]) ++
    (if P.waitsOn.isSome then [execMonitorWake p] else [])

/-- What the engines of core c may do: evacuation, compaction and the fold copy (R40, R43). -/
def State.coreActs (s : State) (c : Nat) : List Act :=
  (if (s.core c).evac.isSome || !(s.core c).waiting.isEmpty then [execEvacuationLineCopy c, execFoldCopy c] else []) ++
  (if (s.core c).compact.isSome then [execCompaction c] else [])

/-- What an entry of a collective unit may do, by its key (R98, R101, R102). -/
def Entry.acts (x : Entry) (key : Nat) : List Act :=
  (if x.sst = 2 then [execCollectiveSend (key / 2048) (key % 2048), execSendComplete (key / 2048) (key % 2048)] else []) ++
  (if x.rst = 1 then [execCollectiveTimeout (key / 2048) (key % 2048)] else [])

/-- The entries of the Chart that may send their core to quarantine (R340). -/
def State.chartActs (s : State) : List Act :=
  s.chart.filterMap fun e => if e.2.recent.length = 64 then some (execErrsThreshold (e.1 / 324) (e.1 % 324)) else none

/-- Meridian's work: queues, waits and dispatch (R292, R293, R296, R297). -/
def State.meridianActs (s : State) : List Act :=
  ((s.regs.qctl.filter fun e => s.qOn e.1).flatMap fun e => [execAdmission e.1, execAgeingPromotion e.1]) ++
  ((s.launches.filter fun l => !l.ready).map fun l => execWaitMet l.lid) ++
  (if s.launches.isEmpty && s.tasks.isEmpty then [] else [execDispatch])

/-- For each partition its first released store that may perform (R69). -/
def State.storeActs (s : State) : List Act :=
  (s.released.map GStore.part).eraseDups.filterMap fun p =>
    ((s.released.filter fun g => g.part = p).findIdx? s.storeReady).map fun k => execStorePerform p k

/-- The slices of the memory-side cache that have lines queued for early write-back (R32). -/
def State.sliceActs (s : State) : List Act :=
  (s.msc.filter fun e => e.2.any MLine.early).map fun e => fun s => .next (s.writeBack e.1)

/-- What the package's own agents may do next. -/
def State.candidates (s : State) : List Act :=
  (s.parts.flatMap fun e => s.partActs e.1) ++ s.storeActs ++ (s.cmds.zipIdx.flatMap fun c => c.1.acts c.2) ++
  (s.entries.flatMap fun e => e.2.acts e.1) ++ (s.cores.flatMap fun e => s.coreActs e.1) ++ s.chartActs ++ s.sliceActs ++
  s.meridianActs ++ (if (s.isobar.windows + 1) * windowCycles ≤ s.cyc then [execIsobarWindow] else [])

/-- No agent has anything to do: a cycle passes. -/
def idle : Act := fun s => .next { s with cyc := s.cyc + 1 }

/-- The next act and the state it starts from: from the agenda, where an entry that is no event is passed over as an idle cycle;
else the package's own agents in turn. -/
def State.nextAct (s : State) : Act × State :=
  match s.agenda with
  | e :: es => (if e.isEvent then exec e else idle, { s with agenda := es })
  | [] =>
    match s.candidates with
    | [] => (idle, s)
    | c :: cs => ((c :: cs).getD (s.turn % (cs.length + 1)) idle, { s with turn := s.turn + 1 })

/-- The bundle in issue still has operations to execute, and is not held for those that have (R125). -/
def State.inBundle (s : State) : Bool := !s.slots.isEmpty || (s.me.issLen ≠ 0 && s.me.held.isNone)

/-! ### The Vane copy -/

/-- What the Vane copy compares of a partition after a bundle (R328): S-slot results and predicates, the branch outcome, effective
addresses, withheld stores and commands; and whether it has rolled back. -/
def Part.compared (P : Part) : List Flight × (W64 × List Loop) × List Deferred × List Pend × List Nat ×
    (List MxCmd × List TileOp × List RingRead) × Option Monitor × Nat :=
  (P.flight.filter fun f => match f.wr with | .s .. | .p .. => true | _ => false,
    (P.regs.pc, P.regs.loops.map fun l => { l with n := 0 }), P.sb, P.pend, P.journal.map JLine.line,
    (P.mxq, P.tq, P.rsq), P.regs.mon, P.rb)

/-- The bundle has written a loop counter, a balance, `CONT` or `MXSTAT` in partition t or in its Vane copy u, and not alike: another
S-slot result of the copy (R328). A register that neither has written keeps the difference it is held with (R329). -/
def Part.sysDiffers (t u : Part) : Bool :=
  let held (P : Part) (r : CtlReg) : Bool := P.vdiff.any fun d => d.1 = r
  t.regs.mxstat != u.regs.mxstat ||
  [CtlReg.lc 0, .lc 1, .bgi, .bgm, .cont].any fun r => !(held t r && held u r) && t.ctl r != u.ctl r

/-- The difference of the Vane copy u from partition t in one register after a bundle that has written it in both alike, or not at all. -/
def diffAfter (t u : Part) (d : CtlReg × W64) : CtlReg × W64 :=
  (d.1, match d.1 with
    | .s _ | .p _ => d.2
    | .lc k =>
      match t.regs.loops[k]?, u.regs.loops[k]? with
      | some l, some m => BitVec.ofNat 64 m.n - BitVec.ofNat 64 l.n
      | _, _ => u.regs.lc k - t.regs.lc k
    | .bgi => BitVec.ofInt 64 (u.bgi - t.bgi)
    | .bgm => BitVec.ofInt 64 (u.bgm - t.bgm)
    | .cont => u.regs.cont - t.regs.cont)

/-- An M-slot operation uses a scalar register that the Vane copy holds with another value: an address, or an operand that it performs
with; the value of a scratchpad store is none (R328). -/
def Part.operandDiffers (P : Part) (i : Instr) : Bool :=
  i.cls? = some .m && (if i.spAcc.isSome then i.used else i.srcs).any fun r =>
    match r with
    | .s n => P.vdiff.any fun d => d.1 = .s n
    | _ => false

/-- A bundle has run from s to t on a partition whose Vane copy differs: the copy runs it too, and a comparison that fails is a mismatch
found before the bundle has performed anything (R124, R328, R329). -/
def State.vaneRun (s t : State) : Out :=
  let p := s.focus
  let record (x : State) : Option (List Byte) := (s.taskOn p).map fun k => x.mem.readN 0 (s.own k.block) 40
  match (s.updMe Part.vaneCopy).runSlots exec 7 with
  | .next u =>
    if (s.slots.any fun o => s.live o.2 && s.me.operandDiffers o.2) ||
      (t.part p).compared != (u.part p).compared || (t.part p).sysDiffers (u.part p) || record t != record u then .next (s.mismatch p 6)
    else if (t.part p).rb ≠ s.me.rb || (t.part p).task.isNone then .next t
    else
      .next (t.updPart p fun P =>
        { P with vdiff := (P.vdiff.map (diffAfter P (u.part p))).filter fun d => d.2 ≠ 0 })
  | r => r

/-- The bundle in issue as both copies run it. -/
def State.runBundle (s : State) : Out :=
  match s.runSlots exec 7 with
  | .next t => if s.me.vdiff.isEmpty then .next t else s.vaneRun t
  | r => r

/-- The bundle an event has begun runs to its end (R115, R116): six slots and the end, and the commit of an interval that is sealed
(R125). -/
def State.finish (s : State) : Out :=
  if !s.inBundle then .next s
  else
    match s.runBundle with
    | .next t => .next (t.closeSealed t.focus)
    | r => r

/-- An act with the bundle it begins. -/
def runAct (a : Act) (s : State) : Out :=
  match a s with
  | .next t => t.finish
  | r => r

/-! ### A program placed from outside -/

/-- The header of a bundle with one slot (R138). -/
def oneSlotHdr (sl : Slot) : BitVec 16 := BitVec.twoPow 16 (15 - sl.num)

/-- The bytes of a bundle that holds one word of the opcode table, in the slot of the class it decodes in (R139, R144). -/
def bundleOf (w : W32) : List Byte :=
  let sl := match wordClass w with | some c => c.slot | none => .s1
  leBytes 2 (oneSlotHdr sl).toNat ++ leBytes 4 w.toNat

/-- The virtual and local address at which `withFetchWord` places a bundle. -/
def placedVa : Nat := 0x4000000000
def placedPa : Nat := 0x10000000

/-- A window of 256 MiB that maps the placed bundle (R12). -/
def placedWindow (n : Nat) : Gen :=
  { asid := 0, gen := n, bad := false
    ents := [{ vbase := placedVa, pbase := placedPa, size := 2 ^ 28, rd := true, wr := true, x := true, pol := 0, sn := false
               tgt := 0, sup := false }] }

/-- The record of the placed task, with every right (R290). -/
def placedRec : Rec :=
  { serviceRec 0 with ver := 3, routine := BitVec.ofNat 64 placedVa, sprows := 64, snap := true, topup := true
                      tsu := 64, rings := 0xFFFF, tiles := BitVec.allOnes 64 }

/-- The placed task's resident state (R21, R228). -/
def placedRes : Resident :=
  { Resident.none with rows := 64, units := 64, rmask := 0xFFFF, tmask := BitVec.allOnes 64 }

/-- A program comes to run only when the host publishes a record and Meridian admits and dispatches it (assumption 4). This places
the outcome from outside: the word alone in a bundle at the program counter of a task that runs on partition 0 with every
feature accepted and every right, and the partition's next bundle as the next event. -/
def State.placeWord (s : State) (w : W32) : State :=
  let lid := BitVec.ofNat 32 s.nextLid
  let id : W64 := lid.setWidth 64 <<< 32
  let r : Regs := { Regs.zero with pc := BitVec.ofNat 64 placedVa }
  let l : Launch := { s.newLaunch none 0 placedRec 0 s.fresh with ready := true, next := 1 }
  let t : Task :=
    { id := id, lid := lid, idx := 0, st := .running 0, why := 0, core := some 0, res := placedRes, ctx := none
      block := s.poolBase, images := [], late := [], cause := 0, savedAt := 0, dispatchedAt := s.dseq }
  { s with
    agenda := [.bundleIssue 0], focus := 0, slots := []
    mem := s.mem.writeN (s.own placedPa) (bundleOf w)
    regs := { s.regs with featacc := offered, lock := true }
    gens := placedWindow s.fresh :: s.gens.filter fun g => g.asid ≠ 0 || g.gen ≠ s.fresh
    launches := l :: s.launches, lastLid := s.nextLid
    dseq := s.dseq + 1
    tasks := t :: s.tasks.filter fun u => u.st ≠ .running 0
    parts := KMap.set s.parts 0 { Part.free with task := some id, regs := r, dup := r, bgi := 2 ^ 47 - 1, bgm := 2 ^ 47 - 1 }
    cores := KMap.set s.cores 0 { s.core 0 with ic := [] } }

end Sys2Proof.Machine
end

