-- ==== Sys2Proof/Machine/Step.lean ====
section
/-! DEFINITION. One step of the machine: one event of the package, the outside or the next bundle, whole (spec/95). -/

namespace Sys2Proof.Machine

/-- One step: the next act with the bundle it begins, and what follows from them at once. -/
def step (s : State) : Host.Outcome State Fault Refusal :=
  match runAct s.nextAct.1 s.nextAct.2 with
  | .next t => .next (s.afterStep t)
  | r => r

/-- The word of the opcode table placed so that the next step fetches and runs it (assumption 4). -/
def State.withFetchWord (s : State) (_nbits w : Nat) : State := s.placeWord (BitVec.ofNat 32 w)

end Sys2Proof.Machine
end

