-- ==== Sys2Proof/Safety.lean ====
section
/-! DEFINITION. What counts as a safe run of the SV9: memories keep their canonical form, every step answers a next state, and no
task of the run takes a trap. -/

namespace Sys2Proof.Machine

/-- The canonical form of the two memories a state holds: addresses strictly rising and no zero byte listed. -/
abbrev State.memWf (s : State) : Prop := s.mem.cells.wf ∧ s.hostMem.cells.wf

/-- No task stands suspended by a trap (R316, R322: WHY 4). -/
def State.untrapped (s : State) : Bool := s.tasks.all fun t => t.st ≠ .trapped

/-- The next n steps from a state each answer a next state and leave no task trapped. -/
def State.safeFor : Nat → State → Prop
  | 0, s => s.untrapped = true
  | n + 1, s => s.untrapped = true ∧ ∃ t, step s = .next t ∧ t.safeFor n

end Sys2Proof.Machine
end

