-- ==== Sys2Proof/Certificates/Slice0/Obligations.lean ====
section
/-! DEFINITION. The statements put to the provers, each a `def Obligations.<Name> : Prop`, with the vocabulary they are written in
(namespace `Sys2Proof.Says`). OBLIGATIONS.json lists them with the rules they rest on. -/

namespace Sys2Proof.Says

open Sys2Proof.Machine

/-! ### Vocabulary -/

/-- s with one more result of the bundle in issue on its way, to land within L cycles (R118). -/
def result (s : State) (w : Write) (L : Nat) : State := s.updMe fun P => P.issue w L

/-- The same for scalar register d; s0 discards it (R114). -/
def resultS (s : State) (d : BitVec 5) (x : W64) (L : Nat) : State := if d = 0 then s else result s (.s d.toNat x) L

/-- t differs from s only in partition p. -/
def OnlyPart (s t : State) (p : Nat) : Prop := { t with parts := s.parts } = s ∧ ∀ q, q ≠ p → t.part q = s.part q

/-- Every byte of HBM4 and of host memory reads the same in s and t. -/
def SameBytes (s t : State) : Prop :=
  ∀ a, Mem.read t.mem.cells a = Mem.read s.mem.cells a ∧ Mem.read t.hostMem.cells a = Mem.read s.hostMem.cells a

/-- x is line l as the store st holds it: the same bytes undefined, and every other byte the same. -/
def OldLine (x : LineImg) (st : Store) (l : Nat) : Prop :=
  ∀ k, k < 128 →
    (let lost : Prop := ∃ r ∈ st.undef, r.1 ≤ 128 * l + k ∧ 128 * l + k < r.2
     ((∃ r ∈ x.undef, r.1 ≤ k ∧ k < r.2) ↔ lost) ∧
     (¬ lost → x.data.extractLsb' (8 * k) 8 = Mem.read st.cells (128 * l + k)))

/-- The journal of partition p gains, from s to t, one entry for each line of ls that no entry names yet, and no other; it holds the line
as s holds it (R126). -/
def Journals (s t : State) (p : Nat) (ls : Nat → Prop) : Prop :=
  ∃ js, (t.part p).journal = (s.part p).journal ++ js ∧ (js.map JLine.line).Nodup ∧
    (∀ l, l ∈ js.map JLine.line ↔ ls l ∧ ∀ j ∈ (s.part p).journal, j.line ≠ l) ∧
    ∀ j ∈ js, OldLine j.old (s.res p).sp j.line ∧ j.poisoned = (s.res p).sp.poison.contains j.line ∧ j.bad = false

/-- Element (i, j) of accumulator tile k is one that reads undefined (R8, R270). -/
def TileUndef (r : Resident) (k i j : Nat) : Prop := ∃ x ∈ r.tundef, x.1 ≤ 4225 * k + 65 * i + j ∧ 4225 * k + 65 * i + j < x.2

/-- A register file in which the register of a result exists, in which it holds that result, and two files that agree on a register. -/
def HasRegister (x : Regs) : Write → Prop
  | .s d _ => d < x.s.length
  | .p d _ => d < 16
  | .v d _ => d < x.v.length
  | .m d _ => d < x.m.length
  | _ => False
def HoldsResult (x : Regs) : Write → Prop
  | .s d y => nth 0 x.s d = y
  | .p d y => x.p.getLsbD d = y
  | .v d y => nth [] x.v d = y
  | .m d y => nth 0 x.m d = y
  | _ => False
def SameRegister (x y : Regs) : Reg → Prop
  | .s n => nth 0 x.s n = nth 0 y.s n
  | .p n => x.p.getLsbD n = y.p.getLsbD n
  | .v n => nth [] x.v n = nth [] y.v n
  | .m n => nth 0 x.m n = nth 0 y.m n

/-- m is on its way from s to t, or waits for room on it: at once when no message waits, its way has room and nothing has used it (R360). -/
def OnItsWay (s t : State) (m : PeerMsg) (out : List Cpl) : Prop :=
  (∀ r, m = .rsp r → t.rsps = r :: out ∨ ∃ l, t.peerq = l ++ [m]) ∧
  (s.rmons = [] → s.peerq = [] → s.peerRoom m = true → t.peerq = [] ∧ ∀ r, m = .rsp r → t.rsps = r :: out)

/-- The width of a scalar operation that W selects (R168). -/
def wide (w : BitVec 1) : Nat := if w = 1 then 32 else 64

/-- A result of n bits in a 64-bit register: zero-extended when unsigned, sign-extended otherwise (R168). -/
def extend {n : Nat} (u : Bool) (x : BitVec n) : W64 := if u then x.setWidth 64 else x.signExtend 64

/-! ### Scalar operations as functions of n-bit patterns -/

/-- A binary operation by its constructor, its bound and its value on n-bit patterns, unsigned when u. -/
structure ScalarRow where
  op  : BitVec 5 → BitVec 5 → BitVec 5 → BitVec 1 → BitVec 1 → BitVec 5 → Instr
  lat : Nat
  val : (n : Nat) → Bool → BitVec n → BitVec n → BitVec n

/-- An operation on a register and an immediate (format SI), always signed 64-bit. -/
structure ScalarImmRow where
  op  : BitVec 5 → BitVec 5 → Imm 10 → BitVec 5 → Instr
  lat : Nat
  val : (n : Nat) → Bool → BitVec n → BitVec n → BitVec n

/-- x + y, x - y, x * y (R169). -/
def vAdd (n : Nat) (_u : Bool) (x y : BitVec n) : BitVec n := x + y
def vSub (n : Nat) (_u : Bool) (x y : BitVec n) : BitVec n := x - y
def vMul (n : Nat) (_u : Bool) (x y : BitVec n) : BitVec n := x * y

/-- The upper half of the 2n-bit product (R169). -/
def vMulh (n : Nat) (u : Bool) (x y : BitVec n) : BitVec n :=
  if u then (x.setWidth (2 * n) * y.setWidth (2 * n)).extractLsb' n n
  else (x.signExtend (2 * n) * y.signExtend (2 * n)).extractLsb' n n

/-- The quotient rounded toward zero, all ones when y is 0; the remainder, x when y is 0 (R169). -/
def vDiv (n : Nat) (u : Bool) (x y : BitVec n) : BitVec n :=
  if y = 0 then BitVec.allOnes n else if u then x.udiv y else x.sdiv y
def vRem (n : Nat) (u : Bool) (x y : BitVec n) : BitVec n := if y = 0 then x else if u then x.umod y else x.srem y

/-- The smaller and the larger (R169). -/
def vMin (n : Nat) (u : Bool) (x y : BitVec n) : BitVec n := if (if u then y.ult x else y.slt x) then y else x
def vMax (n : Nat) (u : Bool) (x y : BitVec n) : BitVec n := if (if u then x.ult y else x.slt y) then y else x

/-- The bitwise operations (R169). -/
def vAnd (n : Nat) (_u : Bool) (x y : BitVec n) : BitVec n := x &&& y
def vOr (n : Nat) (_u : Bool) (x y : BitVec n) : BitVec n := x ||| y
def vXor (n : Nat) (_u : Bool) (x y : BitVec n) : BitVec n := x ^^^ y
def vAndn (n : Nat) (_u : Bool) (x y : BitVec n) : BitVec n := x &&& ~~~y

/-- The shifts and the rotation by the low log2 n bits of y (R169). -/
def vShl (n : Nat) (_u : Bool) (x y : BitVec n) : BitVec n := x <<< (y.toNat % n)
def vShr (n : Nat) (_u : Bool) (x y : BitVec n) : BitVec n := x >>> (y.toNat % n)
def vSra (n : Nat) (_u : Bool) (x y : BitVec n) : BitVec n := x.sshiftRight (y.toNat % n)
def vRot (n : Nat) (_u : Bool) (x y : BitVec n) : BitVec n := x.rotateRight (y.toNat % n)

/-- Arithmetic of R169 on two registers. -/
def arithRows : List ScalarRow :=
  [⟨.sadd, 2, vAdd⟩, ⟨.ssub, 2, vSub⟩, ⟨.smul, 4, vMul⟩, ⟨.smulh, 4, vMulh⟩, ⟨.sdiv, 20, vDiv⟩, ⟨.srem, 20, vRem⟩,
   ⟨.smin, 2, vMin⟩, ⟨.smax, 2, vMax⟩]

/-- Logic, shifts and the rotation of R169 on two registers. -/
def logicRows : List ScalarRow :=
  [⟨.sand, 2, vAnd⟩, ⟨.sor, 2, vOr⟩, ⟨.sxor, 2, vXor⟩, ⟨.sandn, 2, vAndn⟩, ⟨.sshl, 2, vShl⟩, ⟨.sshr, 2, vShr⟩,
   ⟨.ssra, 2, vSra⟩, ⟨.srot, 2, vRot⟩]

/-- The SI forms of R169. -/
def immRows : List ScalarImmRow :=
  [⟨.saddSi, 2, vAdd⟩, ⟨.smulSi, 4, vMul⟩, ⟨.sandSi, 2, vAnd⟩, ⟨.sorSi, 2, vOr⟩, ⟨.sxorSi, 2, vXor⟩, ⟨.sminSi, 2, vMin⟩,
   ⟨.smaxSi, 2, vMax⟩, ⟨.sshlSi, 2, vShl⟩, ⟨.sshrSi, 2, vShr⟩, ⟨.ssraSi, 2, vSra⟩, ⟨.srotSi, 2, vRot⟩]

/-- The value an SR row gives on registers that hold x and y: on the low 32 bits with W, extended by U (R168). -/
def ScalarRow.value (r : ScalarRow) (u w : BitVec 1) (x y : W64) : W64 :=
  extend (u == 1) (r.val (wide w) (u == 1) (x.setWidth (wide w)) (y.setWidth (wide w)))

/-- The eight conditions of R171 on n-bit patterns. -/
def holds {n : Nat} (c : BitVec 3) (x y : BitVec n) : Bool :=
  match c.toNat with
  | 0 => x == y
  | 1 => x != y
  | 2 => x.slt y
  | 3 => y.sle x
  | 4 => x.sle y
  | 5 => y.slt x
  | 6 => x.ult y
  | _ => y.ule x

end Sys2Proof.Says

section

open Sys2Proof.Says Sys2Proof.Machine Sys2Proof

/-! ### Encoding -/

/-- R138 to R159: a well-formed operation's word, read in any slot of its class where it may stand, decodes to that operation, every
operand at every value the encoding admits. -/
def Obligations.DecodeOfEncode : Prop :=
  ∀ (i : Instr) (c : SlotClass), i.wf = true → i.cls? = some c →
    ∃ w l, encode i = some (w, l) ∧
      ∀ sl : Slot, sl.cls = c → (sl = .s0 → isControlWord w = false) → (l.isSome = true → sl = .s0) →
        decodeSlot DecEnv.full sl w l = .ok i

/-- R138 to R159: a word that decodes in a slot, under any features and rights and with or without a literal, is the word the
encoder gives the operation read from it: no bit is ignored. -/
def Obligations.EncodeOfDecode : Prop :=
  ∀ (env : DecEnv) (sl : Slot) (w : W32) (l : Option W32) (i : Instr),
    decodeSlot env sl w l = .ok i → encode i = some (w, l) ∧ i.legal = true ∧ i.cls? = some sl.cls

/-- The words of R146 to R156, written out bit by bit, decode to the operations they stand for. -/
def Obligations.WordsDecode : Prop :=
  decodeSlot DecEnv.full .s0 (0b0000000#7 ++ 4#5 ++ 4#5 ++ 5#5 ++ 0#3 ++ 0#1 ++ 0#1 ++ 0#5) none = .ok (.sadd 4 4 5 0 0 0) ∧
  decodeSlot DecEnv.full .s0 (0b0010000#7 ++ 7#5 ++ 7#5 ++ 0#10 ++ 3#5) (some 0x12345678) = .ok (.saddSi 7 7 (.lit 0x12345678) 3) ∧
  decodeSlot DecEnv.full .s1 (0x64#7 ++ 11#5 ++ 1#12 ++ 1#3 ++ 0#5) none = .ok (.loop 11 1 1 0) ∧
  decodeSlot DecEnv.full .v0 (0x00#7 ++ 2#5 ++ 0#5 ++ 1#5 ++ 0#3 ++ 0#2 ++ 0#5) none = .ok (.vaddF 2 0 1 0 0 0) ∧
  decodeSlot DecEnv.full .m (0x06#7 ++ 8#5 ++ 6#5 ++ 2#10 ++ 0#5) none = .ok (.ldD 8 6 2 0) ∧
  decodeSlot DecEnv.full .a (0x00#7 ++ 8#5 ++ 3#6 ++ 16#7 ++ 0#2 ++ 0#5) none = .ok (.ald 8 3 16 0 0)

/-- The opcodes that R153 to R156 leave unassigned in each class. -/
def Sys2Proof.Says.unassigned : SlotClass → Nat → Bool
  | .s, op => op == 0x17 || (0x2D ≤ op && op ≤ 0x47) || (0x4A ≤ op && op ≤ 0x5F) || 0x6E ≤ op
  | .v, op => op == 0x1F || (0x25 ≤ op && op ≤ 0x27) || op == 0x2F || (0x32 ≤ op && op ≤ 0x37) || (0x3C ≤ op && op ≤ 0x3F) ||
      0x44 ≤ op
  | .m, op => (0x0D ≤ op && op ≤ 0x0F) || (0x1D ≤ op && op ≤ 0x1F) || op == 0x27 || (0x2C ≤ op && op ≤ 0x2F) ||
      (0x3D ≤ op && op ≤ 0x3F) || (0x4D ≤ op && op ≤ 0x4F) || op == 0x6F || 0x7B ≤ op
  | .a, op => 8 ≤ op

/-- R153 to R156, R159: an opcode that the slot's map leaves unassigned is illegal with reason 3, and every assigned one names an
operation. -/
def Obligations.UnassignedOpcodes : Prop :=
  ∀ (env : DecEnv) (sl : Slot) (w : W32) (l : Option W32),
    (unassigned sl.cls (w.extractLsb' 25 7).toNat = true → decodeSlot env sl w l = .error 3) ∧
    (unassigned sl.cls (w.extractLsb' 25 7).toNat = false → (rawDecode sl.cls w l).isSome = true)

/-- R117: a bundle in which two present slots name one destination register raises ILLEGAL when it is decoded (reason 8, when no
slot fails by itself), whatever the guards; s0 counts as a register. -/
def Obligations.SharedDestinationIllegal : Prop :=
  ∀ (env : DecEnv) (h : BitVec 16) (ws : List W32) (ops : List (Slot × Instr)) (a b : Nat) (r : Reg),
    decodeSlots env (slotWords h Slot.all ws) = .ok ops → a < b → b < ops.length →
    (∀ x ∈ ops[a]?, r ∈ x.2.dests) → (∀ x ∈ ops[b]?, r ∈ x.2.dests) →
    ∃ reason slot word, decodeBundle env h ws = .error (.illegal reason slot word) ∧
      (h.extractLsb' 0 4 = 0 → (hdrL h = true → slotPresent h .s0 = true) → reason = 8)

/-- R116, R188, R267, R282, R304, R314, R316, R320: a bundle of one operation raises PRIV, with the slot and word, when the task lacks
the right it needs and its guard holds in the state at issue; otherwise it decodes to the operation. -/
def Obligations.PrivilegedOperations : Prop :=
  ∀ (s : State) (p : Nat) (f : Fetched) (sl : Slot) (w : W32) (l : Option W32) (i : Instr),
    slotWords f.hdr Slot.all f.words = [(sl, w, l)] → f.hdr.extractLsb' 0 4 = 0 → (hdrL f.hdr = true → slotPresent f.hdr .s0 = true) →
    decodeSlot (s.decEnv p) sl w l = .ok i →
    (let right (f : Rec → Bool) : Bool := match s.launchOn p with | some k => f k.record | none => false
     let sup := right Rec.sup
     let lacks : Bool := match i with
      | .halt _ | .tret _ | .evac _ _ _ _ _ | .chartq _ _ _ => !sup
      | .sset _ n _ => !sup && n.toNat != 0x22
      | .snap _ _ _ _ | .sacc _ _ _ _ | .srej _ _ _ _ => !right Rec.snap
      | .bgadd _ _ _ _ => !right Rec.topup && !sup
      | _ => false
     let atIssue : State := { s.arm p (bundleLen f.hdr) (s.issueCycle p [(sl, i)]) with focus := p }
     s.decoded p f = if lacks && atIssue.live i then .error (.priv sl.num w) else .ok ⟨f.hdr, [(sl, i)]⟩)

/-! ### Steps -/

/-- R115, R116, R139: when the bundle at the program counter of a running task decodes to one operation and needs no datum and
no stall, a step runs `exec` of that operation, with the program counter moved past the bundle, and then ends the bundle.
Model's choices: log entries 2, 3, 11 and 100. -/
def Obligations.StepRunsDecodedInstruction : Prop :=
  ∀ (s : State) (p : Nat) (es : List Instr) (k : Task) (f : Fetched) (sl : Slot) (i : Instr),
    s.agenda = .bundleIssue p :: es → p < 1536 →
    ∀ u : State, u = { s with agenda := es, focus := p } →
    u.taskOn p = some k → k.late = [] → (u.part p).ownBad = none → (u.part p).vane = false → (u.part p).vdiff = [] →
    (u.part p).rpoison = [] → (u.part p).exiting = none → (u.part p).stopAt = none → (u.part p).regs.mon = none →
    (u.part p).datumAfter = false → (u.part p).held = none → (u.part p).regs.pc.getLsbD 0 = false →
    u.fetch p (u.part p).regs.pc.toNat = .ok f → u.fetchPoison (u.part p).regs.pc.toNat f = none → hdrD f.hdr = false →
    decodeBundle (u.decEnv p) f.hdr f.words = .ok ⟨f.hdr, [(sl, i)]⟩ → i.isDatumOp = false →
    (∀ a : State, a = u.arm p (bundleLen f.hdr) (u.issueCycle p [(sl, i)]) →
      a.needsDatum p [i] = false → a.stalls p [i] = false →
      ∃ v : State,
        v = { (((a.cacheFetch (coreOf p) f.loc (bundleLen f.hdr) f.pol).start p (hdrSkip f.hdr) [(sl, i)]).draw) with slots := [] } ∧
        v.me.regs.pc = a.me.regs.pc + BitVec.ofNat 64 (bundleLen f.hdr) ∧ v.me.issA = a.me.regs.pc ∧ v.mem = s.mem ∧
        step s =
          match exec i v with
          | .next t =>
            match (if v.checked sl i then t.residueCheck t.focus else t).draw.runSlots exec 6 with
            | .next e => .next (s.afterStep (e.closeSealed e.focus))
            | r => r
          | r => r)

/-- Assumption 2: a step whose agenda names an event runs `exec` of that event; an agenda entry that is no event is passed over
as an idle cycle. R116: the operations of a bundle execute one after another in the order in which they wait, each from the
state the one before left, with the residue check on the vector elements it writes (R330), and then the bundle ends. Model's
choices: log entries 2 and 3. -/
def Obligations.StepsInTurn : Prop :=
  (∀ (s : State) (e : Instr) (es : List Instr), s.agenda = e :: es →
     (∀ t, e.isEvent = true → exec e { s with agenda := es } = .next t → t.inBundle = false →
       step s = .next (s.afterStep t)) ∧
     (e.isEvent = false → s.inBundle = false → step s = .next (s.afterStep { s with agenda := es, cyc := s.cyc + 1 }))) ∧
  ((∀ (s : State) (n : Nat) (sl : Slot) (i : Instr) (rest : List (Slot × Instr)) (t : State),
     s.slots = (sl, i) :: rest → i.isDatumOp = false → s.me.issLen ≠ 0 → s.me.held = none → exec i { s with slots := rest } = .next t →
     s.runSlots exec (n + 1) =
       (if ({ s with slots := rest } : State).checked sl i then t.residueCheck t.focus else t).draw.runSlots exec n) ∧
   (∀ (s : State) (n : Nat), s.slots = [] → s.runSlots exec (n + 1) = .next (s.updMe Part.finishBundle)))

/-- This model: no step of any state faults or is refused; whatever the SV9 reports, it reports in a next state. -/
def Obligations.StepNeverStops : Prop := ∀ s : State, ∃ t, step s = .next t

/-- R364, R369 and the model's choices of log entries 5 and 6: what holds right after reset. -/
def Obligations.ResetState : Prop :=
  (∀ a, Mem.read State.reset.mem.cells a = 0) ∧ State.reset.mem.poison = [] ∧ State.reset.mem.undef = [] ∧
  State.reset.cyc = 0 ∧ State.reset.tasks = [] ∧ State.reset.launches = [] ∧ (∀ p, (State.reset.part p).task = none) ∧
  State.reset.feat0 = 0 ∧ State.reset.regs.featoff = [0xFF, 3, 0, 0] ∧ State.reset.regs.lock = false ∧
  State.reset.regs.intcause = 0 ∧ State.reset.regs.intctl = 0 ∧ State.reset.regs.spill = 0 ∧ State.reset.regs.podid = 0 ∧
  (∀ c, State.reset.core c = Core.idle ∧ (State.reset.core c).chkcnt = 0)

/-- The two memories a state holds keep their canonical form over every step, from every state in which they have it. -/
def Obligations.MemoryFormInvariant : Prop := ∀ s t : State, s.memWf → step s = .next t → t.memWf

/-- The canonical form holds at reset. -/
def Obligations.MemoryFormAtReset : Prop := State.reset.memWf

/-! ### Guards, register reads and results -/

/-- R116, R142: bit 4 of a word inverts, and bits 3:0 name, the predicate that gates the operation; an operation whose guard is
false leaves the state as it is; guard 0 always executes and guard 0b10000 never does. -/
def Obligations.FalseGuardSuppresses : Prop :=
  (∀ (i : Instr) (w : W32) (l : Option W32) (s : State), encode i = some (w, l) →
    s.guardP (w.extractLsb' 0 4).toNat = w.getLsbD 4 → exec i s = .next s) ∧
  (∀ s : State, s.guardOk 0 = true ∧ s.guardOk 0b10000 = false)

/-- R114, R131: s0 reads 0 and m0 and p0 read all true; outside loops p8 to p15 read false, and in pass j of a loop with N
iterations and S stages p(8+k) reads k < S and 0 ≤ j - k < N. -/
def Obligations.FixedRegisterRoles : Prop :=
  (∀ (s : State) (k : Nat), s.rdS k 0 = 0 ∧ s.rdP k 0 = true ∧ s.rdM k 0 = BitVec.allOnes 1024) ∧
  (∀ (s : State) (d : BitVec 5) (x : W64) (L : Nat), d = 0 → s.putS d x L = s) ∧
  (∀ (s : State) (k n : Nat), 8 ≤ n → s.me.regs.loops = [] → s.rdP k n = false) ∧
  (∀ (s : State) (k j : Nat) (l : Loop), s.me.regs.loops.getLast? = some l → l.ns = none → l.stopNs = none →
    (s.rdP k (8 + j) = true ↔ j < l.stages ∧ 0 ≤ (l.pass : Int) - j ∧ (l.pass : Int) - j < l.n))

/-- R118, R119: a result for a scalar register, predicate, vector register or mask, issued at cycle t with bound L, leaves its
register's window at t + L, or when a window already open on that register closes if that is later; a read in between is an
unconstrained value, and from then on the register holds the result that is last in program order. Registers that no result
names keep their values. Model's choices: log entry 11. -/
def Obligations.ResultsLand : Prop :=
  ∀ (P : Part) (w : Write) (r : Reg) (L t : Nat), w.reg? = some r → HasRegister P.regs w →
    ∃ due, (P.issue w L).flight = P.flight ++ [⟨w, P.issT, due⟩] ∧ P.issT + L ≤ due ∧
      ((∀ f ∈ P.flight, f.wr.reg? = some r → f.due ≤ P.issT + L) → due = P.issT + L) ∧
      (∀ f ∈ P.flight, f.wr.reg? = some r → f.due ≤ due) ∧
      (∀ u, P.issT < u → u < due → ({ P.issue w L with issT := u } : Part).inWindow r = true) ∧
      (due ≤ t → HoldsResult ((P.issue w L).land t).regs w) ∧
      (∀ e, e ≠ r → (∀ f ∈ P.flight, f.wr.reg? ≠ some e) → SameRegister ((P.issue w L).land t).regs P.regs e)

/-! ### Scalar instructions -/

/-- R168, R169: the integer arithmetic instructions on two registers. R168, R169: the logic, shift and rotate instructions on
two registers. R145, R168, R169: the forms with an immediate, field or literal, on 64 bits. -/
def Obligations.ScalarOperations : Prop :=
  (∀ r ∈ arithRows, ∀ (d a b : BitVec 5) (u w : BitVec 1) (g : BitVec 5) (s : State), s.guardOk g = true →
     exec (r.op d a b u w g) s = .next (resultS s d (r.value u w (s.rdS 0 a) (s.rdS 1 b)) r.lat)) ∧
  (∀ r ∈ logicRows, ∀ (d a b : BitVec 5) (u w : BitVec 1) (g : BitVec 5) (s : State), s.guardOk g = true →
     exec (r.op d a b u w g) s = .next (resultS s d (r.value u w (s.rdS 0 a) (s.rdS 1 b)) r.lat)) ∧
  (∀ r ∈ immRows, ∀ (d a : BitVec 5) (i : Imm 10) (g : BitVec 5) (s : State), s.guardOk g = true →
     exec (r.op d a i g) s = .next (resultS s d (r.val 64 false (s.rdS 0 a) i.val) r.lat))

/-- R170: `sclz` and `sctz` count the zero bits above the highest and below the lowest one bit of the low w bits, and `spopc`
the one bits. R170: `sext`, `sbfx` and `sbfi`, bit by bit; `smov` and `smovi`. -/
def Obligations.ScalarFields : Prop :=
  (∀ (d a : BitVec 5) (u w : BitVec 1) (g : BitVec 5) (s : State), s.guardOk g = true →
     (let x : BitVec (wide w) := (s.rdS 0 a).setWidth (wide w)
      (∃ n, n ≤ wide w ∧ (∀ k, k < n → x.getMsbD k = false) ∧ (n < wide w → x.getMsbD n = true) ∧
         exec (.sclz d a u w g) s = .next (resultS s d (BitVec.ofNat 64 n) 2)) ∧
      (∃ n, n ≤ wide w ∧ (∀ k, k < n → x.getLsbD k = false) ∧ (n < wide w → x.getLsbD n = true) ∧
         exec (.sctz d a u w g) s = .next (resultS s d (BitVec.ofNat 64 n) 2)) ∧
      exec (.spopc d a u w g) s = .next (resultS s d (BitVec.ofNat 64 ((List.range (wide w)).countP fun k => x.getLsbD k)) 2))) ∧
  (∀ (d a b : BitVec 5) (u : BitVec 1) (g : BitVec 5) (s : State), s.guardOk g = true →
     (let x := s.rdS 0 a
      let lo := ((s.rdS 1 b).extractLsb' 0 6).toNat
      let n := ((s.rdS 1 b).extractLsb' 6 6).toNat + 1
      let hi := min 63 (lo + n - 1)
      let field (j : Nat) : Bool := lo + j ≤ hi && x.getLsbD (lo + j)
      exec (.sext d a u 0 g) s = .next (resultS s d (extend (u == 1) (x.setWidth 8)) 2) ∧
      exec (.sext d a u 1 g) s = .next (resultS s d (extend (u == 1) (x.setWidth 16)) 2) ∧
      exec (.sext d a u 2 g) s = .next (resultS s d (extend (u == 1) (x.setWidth 32)) 2) ∧
      (∃ y : W64, exec (.sbfx d a b u g) s = .next (resultS s d y 2) ∧
         ∀ j, j < 64 → y.getLsbD j = if j < n then field j else (u == 0 && field (n - 1))) ∧
      (∃ y : W64, exec (.sbfi d a b g) s = .next (resultS s d y 2) ∧
         ∀ j, j < 64 → y.getLsbD j = if lo ≤ j ∧ j ≤ hi then x.getLsbD (j - lo) else (s.rdS 2 d).getLsbD j) ∧
      exec (.smov d a g) s = .next (resultS s d x 2) ∧
      ∀ i : Imm 15, exec (.smovi d i g) s = .next (resultS s d i.val 2)))

/-- R171, R172, R173: `scmp` writes the condition of the low 32 or all 64 bits, in both forms; `ssel` selects; `pset` looks its
truth table up. -/
def Obligations.CompareSelectPset : Prop :=
  ∀ (d a b : BitVec 5) (g : BitVec 5) (s : State), s.guardOk g = true →
    (∀ c : BitVec 3, exec (.scmp d a b 0 c g) s = .next (result s (.p d.toNat (holds c (s.rdS 0 a) (s.rdS 1 b))) 2)) ∧
    (∀ c : BitVec 3, exec (.scmp d a b 1 c g) s =
      .next (result s (.p d.toNat (holds c ((s.rdS 0 a).setWidth 32) ((s.rdS 1 b).setWidth 32))) 2)) ∧
    (∀ (c : BitVec 3) (i : Imm 7), exec (.scmpSi d a i c g) s = .next (result s (.p d.toNat (holds c (s.rdS 0 a) i.val)) 2)) ∧
    (∀ (n : BitVec 1) (p : BitVec 4), exec (.ssel d a b n p g) s =
      .next (resultS s d (if (s.rdP 3 p.toNat).xor (n == 1) then s.rdS 0 a else s.rdS 1 b) 2)) ∧
    (∀ t : BitVec 4, exec (.pset d a b t g) s =
      .next (result s (.p d.toNat
        (match s.rdP 0 a.toNat, s.rdP 1 b.toNat with
          | false, false => t.getLsbD 0
          | false, true => t.getLsbD 1
          | true, false => t.getLsbD 2
          | true, true => t.getLsbD 3)) 2))

/-- R174 to R177: scalar fp32 results are the exact value rounded once to nearest even, zero-extended; `sfcvt` converts; `sfcmp`
compares. -/
def Obligations.ScalarFloat : Prop :=
  ∀ (d a b : BitVec 5) (g : BitVec 5) (s : State), s.guardOk g = true →
    (let x := fpvalue .fp32 ((s.rdS 0 a).toNat % 2 ^ 32)
     let y := fpvalue .fp32 ((s.rdS 1 b).toNat % 2 ^ 32)
     let z := fpvalue .fp32 ((s.rdS 2 d).toNat % 2 ^ 32)
     let out (v : FV) : State := resultS s d (BitVec.ofNat 64 (rne .fp32 v % 2 ^ 32)) 4
     exec (.sfadd d a b 0 g) s = .next (out (x.add y)) ∧ exec (.sfadd d a b 1 g) s = .next (out (x.add y.neg)) ∧
     exec (.sfmul d a b g) s = .next (out (x.mul y)) ∧
     exec (.sffma d a b 0 g) s = .next (out ((x.mul y).add z)) ∧
     exec (.sffma d a b 1 g) s = .next (out ((x.mul y).neg.add z)) ∧
     (∀ c : BitVec 3, exec (.sfcmp d a b c g) s = .next (result s (.p d.toNat
        (match c.toNat with
          | 0 => !x.isNan && !y.isNan && !x.lt y && !y.lt x
          | 1 => x.isNan || y.isNan || x.lt y || y.lt x
          | 2 => !x.isNan && !y.isNan && x.lt y
          | 3 => !x.isNan && !y.isNan && !y.lt x
          | 4 => !x.isNan && !y.isNan && y.lt x
          | 5 => !x.isNan && !y.isNan && !x.lt y
          | 6 => x.isNan || y.isNan
          | _ => !x.isNan && !y.isNan)) 2)) ∧
     ∀ (f : BitVec 4) (m : BitVec 2) (t w : BitVec 1),
       (let F : AnyFmt := if w = 1 then .int ⟨64, f = 13⟩ else fmtOf f
        exec (.sfcvt d a f 0 m t w g) s =
          .next (resultS s d (BitVec.ofNat 64 (convert F (.fl .fp32) (RMode.of m) (t == 1) ((s.rdS 0 a).toNat % 2 ^ F.width))) 4) ∧
        exec (.sfcvt d a f 1 m t w g) s =
          .next (resultS s d
            (let q := convert (.fl .fp32) F (RMode.of m) (t == 1) ((s.rdS 0 a).toNat % 2 ^ 32)
             match F with
             | .fl _ => BitVec.ofNat 64 q
             | .int j => extend (!j.signed) (BitVec.ofNat j.w q)) 4)))

/-- R195: a conversion from an integer format to an integer format reduces the value modulo 2^w in the non-saturating form and
clamps it to the destination's range in the saturating form; one to a floating format rounds the integer. -/
def Obligations.IntegerConversion : Prop :=
  ∀ (a : IntFmt) (m : RMode) (sat : Bool) (x : Nat),
    (let n : Int := if a.signed && x.testBit (a.w - 1) then (x : Int) - 2 ^ a.w else x
     (∀ b : IntFmt, 1 ≤ b.w → convert (.int a) (.int b) m sat x =
        (let lo : Int := if b.signed then -(2 ^ (b.w - 1)) else 0
         let hi : Int := if b.signed then 2 ^ (b.w - 1) - 1 else 2 ^ b.w - 1
         ((if sat then (if n < lo then lo else if hi < n then hi else n) else n) % 2 ^ b.w).toNat)) ∧
     ∀ f : FloatFmt, convert (.int a) (.fl f) m sat x = (roundTo f m sat (.fin (decide (n < 0)) n.natAbs 0)).enc)

/-- R190 to R192: rounding to fp32 gives back every fp32 value that is not a NaN, and 0x7FC00000 for a NaN. -/
def Obligations.RoundingKeepsValues : Prop :=
  ∀ x : W32, rne32 (fpvalue .fp32 x.toNat) =
    if 0x7F800000 < x.toNat % 2 ^ 31 then 0x7FC00000 else x

/-- R186, R187: `sget` gives the value of the register its number names; only in the cycle after a write may the old one stand
in for it, which the hypothesis on writes in flight leaves out. R187, R188: `sset` writes MXSTAT, CONT and the balances, the
latter from bits 47:0 read as signed; nothing else of the partition's registers changes, and no other partition. A balance left
below zero latches EXH as R308 says. Model's choices: log entry 67. -/
def Obligations.SystemRegisters : Prop :=
  (∀ (d : BitVec 5) (g : BitVec 5) (s : State) (k : Task) (l : Launch), s.guardOk g = true →
     (∀ f ∈ s.me.flight, ∀ n x, f.wr ≠ .sysOld n x) → (∀ f ∈ s.me.flight, f.wr ≠ .sat) →
     s.taskOn s.focus = some k → s.launch k.lid = some l → s.me.task = some k.id → s.focus < 1536 →
     (let reads (n : BitVec 10) (x : W64) : Prop := exec (.sget d n g) s = .next (resultS s d x 2)
      let core := s.focus / 4
      reads 0x000 3 ∧ reads 0x001 (nth 0 s.regs.featacc 0) ∧ reads 0x002 (nth 0 s.regs.featacc 1) ∧
      reads 0x003 (nth 0 s.regs.featacc 2) ∧ reads 0x004 (nth 0 s.regs.featacc 3) ∧ reads 0x010 k.id ∧
      reads 0x011 (BitVec.ofNat 64 (
        (l.record.x0 + k.idx % l.record.nx) % 2 ^ 16 + (l.record.y0 + k.idx / l.record.nx % l.record.ny) % 2 ^ 16 * 2 ^ 16 +
        (l.record.z0 + k.idx / (l.record.nx * l.record.ny)) % 2 ^ 16 * 2 ^ 32)) ∧
      reads 0x012 (k.id >>> 32) ∧ reads 0x013 (BitVec.ofNat 64 (s.focus % 4)) ∧ reads 0x014 (BitVec.ofNat 64 core) ∧
      reads 0x015 (BitVec.ofNat 64 (core / 8)) ∧ reads 0x016 (BitVec.ofNat 64 (core / 48)) ∧
      reads 0x017 (BitVec.ofNat 64 s.regs.podid) ∧ reads 0x020 (BitVec.ofNat 64 s.me.issT) ∧
      reads 0x021 (BitVec.ofNat 64 ((s.core core).rerun * 2 ^ 48 + (s.core core).recomp * 2 ^ 32 + (s.core core).corr)) ∧
      reads 0x022 (s.me.regs.mxstat.setWidth 64) ∧ reads 0x030 (BitVec.ofInt 64 s.me.bgi) ∧
      reads 0x031 (BitVec.ofInt 64 s.me.bgm) ∧ reads 0x032 s.me.regs.cont ∧
      (∀ n : BitVec 10, 0x040 ≤ n.toNat → n.toNat ≤ 0x045 → reads n (BitVec.ofNat 64 (s.capReg core (n.toNat - 0x040)))) ∧
      reads 0x050 (s.me.regs.lc 0) ∧ reads 0x051 (s.me.regs.lc 1))) ∧
  (∀ (d : BitVec 5) (g : BitVec 5) (s : State), s.guardOk g = true →
     (let x := s.rdS 2 d
      (∃ t, exec (.sset d 0x022 g) s = .next t ∧ OnlyPart s t s.focus ∧ t.me.regs = { s.me.regs with mxstat := x.setWidth 5 } ∧
        t.me.bgi = s.me.bgi ∧ t.me.bgm = s.me.bgm) ∧
      (∃ t, exec (.sset d 0x032 g) s = .next t ∧ OnlyPart s t s.focus ∧ t.me.regs = { s.me.regs with cont := x } ∧
        t.me.bgi = s.me.bgi ∧ t.me.bgm = s.me.bgm) ∧
      (∃ t, exec (.sset d 0x030 g) s = .next t ∧ OnlyPart s t s.focus ∧ t.me.bgi = (x.extractLsb' 0 48).toInt ∧
        t.me.bgm = s.me.bgm ∧ { t.me.regs with loops := s.me.regs.loops } = s.me.regs ∧
        ((t.me.bgi < 0 ∨ t.me.bgm < 0) → s.me.regs.cm = false → t.me.exh = true ∧ (s.me.exh = false → t.me.stopAt.isSome = true))) ∧
      (∃ t, exec (.sset d 0x031 g) s = .next t ∧ OnlyPart s t s.focus ∧ t.me.bgm = (x.extractLsb' 0 48).toInt ∧
        t.me.bgi = s.me.bgi ∧ { t.me.regs with loops := s.me.regs.loops } = s.me.regs ∧
        ((t.me.bgi < 0 ∨ t.me.bgm < 0) → s.me.regs.cm = false → t.me.exh = true ∧ (s.me.exh = false → t.me.stopAt.isSome = true)))))

/-! ### Control -/

namespace Sys2Proof.Says

/-- The iterations of a loop that have started when it ends in its pass (R183, R184). -/
def begun (l : Loop) : Nat :=
  min (match l.ns, l.stopNs with | some n, _ => n | none, some n => n | none, none => l.n) (l.pass + 1)

/-- The counter a loop that ends in its pass leaves (R184). -/
def counterLeft (l : Loop) : W64 := BitVec.ofInt 64 ((l.n : Int) - begun l)

/-- t is s after a taken transfer to a target (R115, R179): only the partition changes; its program counter is the target, every
active loop is gone from the next bundle on with its counter set, and fs are the results the bundle gains. -/
def Transferred (s t : State) (target : W64) (fs : List Flight) : Prop :=
  OnlyPart s t s.focus ∧ t.me.regs.pc = target ∧ t.me.loopsNext = some [] ∧ t.me.flight = s.me.flight ++ fs ∧
  { t.me.regs with pc := s.me.regs.pc, lc0 := s.me.regs.lc0, lc1 := s.me.regs.lc1 } = s.me.regs ∧
  { t.me with regs := s.me.regs, flight := s.me.flight, loopsNext := s.me.loopsNext } = s.me ∧
  (s.me.regs.loops = [] → t.me.regs.lc0 = s.me.regs.lc0 ∧ t.me.regs.lc1 = s.me.regs.lc1) ∧
  (∀ a, s.me.regs.loops = [a] → t.me.regs.lc0 = counterLeft a ∧ t.me.regs.lc1 = s.me.regs.lc1) ∧
  (∀ a b, s.me.regs.loops = [a, b] → t.me.regs.lc0 = counterLeft a ∧ t.me.regs.lc1 = counterLeft b)

end Sys2Proof.Says

/-- R147, R178, R179, R184: taken transfers. A register target with bit 0 set raises ALIGN at the transferring bundle; `call` and
`bri` write their link with bound 1, and `bri` with d = 0 writes none. -/
def Obligations.Transfers : Prop :=
  ∀ (s : State) (g : BitVec 5), s.guardOk g = true →
    (∀ o : BitVec 20,
      (let target := s.me.issA + BitVec.ofInt 64 (2 * o.toInt)
       (∃ t, exec (.br o g) s = .next t ∧ Transferred s t target []) ∧
       (∃ t x, exec (.call o g) s = .next t ∧ Transferred s t target [x] ∧
          x.wr = .s 31 (s.me.issA + BitVec.ofNat 64 s.me.issLen) ∧ x.iss = s.me.issT ∧ s.me.issT + 1 ≤ x.due))) ∧
    (∀ d a : BitVec 5, (s.rdS 0 a).getLsbD 0 = false →
      (d = 0 → ∃ t, exec (.bri d a g) s = .next t ∧ Transferred s t (s.rdS 0 a) []) ∧
      (d ≠ 0 → ∃ t x, exec (.bri d a g) s = .next t ∧ Transferred s t (s.rdS 0 a) [x] ∧
          x.wr = .s d.toNat (s.me.issA + BitVec.ofNat 64 s.me.issLen) ∧ x.iss = s.me.issT ∧ s.me.issT + 1 ≤ x.due)) ∧
    ((s.rdS 0 31).getLsbD 0 = false → ∃ t, exec (.ret g) s = .next t ∧ Transferred s t (s.rdS 0 31) []) ∧
    (∀ d a : BitVec 5, (s.rdS 0 a).getLsbD 0 = true →
      exec (.bri d a g) s = .next (s.trap s.focus ⟨4, s.me.issA, BitVec.ofNat 64 (2 ^ 56 + (s.rdS 0 a).toNat % 2 ^ 56)⟩)) ∧
    ((s.rdS 0 31).getLsbD 0 = true →
      exec (.ret g) s = .next (s.trap s.focus ⟨4, s.me.issA, BitVec.ofNat 64 (2 ^ 56 + (s.rdS 0 31).toNat % 2 ^ 56)⟩))

/-- R131, R132, R181: `loop` with N = 0 continues after the body and starts no loop; with N at least 1 the loop is active from
the next bundle on with N, B, S and pass 0; with two loops active it raises ILLEGAL with reason 9. R183, R185: `loopx` holds the
innermost loop to the iterations started and replaces the address after its last pass; a later one changes only the target; with
no loop active it acts as `br`. Model's choices: log entry 84. -/
def Obligations.LoopControl : Prop :=
  (∀ (s : State) (a : BitVec 5) (b : BitVec 12) (st : BitVec 3) (g : BitVec 5), s.guardOk g = true →
     (let n := min (s.rdS 0 a).toNat (2 ^ 48 - 1)
      let after := s.me.issA + BitVec.ofNat 64 s.me.issLen
      let e := BitVec.ofNat 64 (s.skipBundles s.focus (b.toNat + 1) after.toNat)
      (s.me.regs.loops.length < 2 → n = 0 →
        ∃ t, exec (.loop a b st g) s = .next t ∧ OnlyPart s t s.focus ∧ t.me.regs.pc = e ∧ t.me.loopsNext = s.me.loopsNext ∧
          t.me.regs.loops = s.me.regs.loops ∧ t.me.flight = s.me.flight ∧
          (s.me.regs.loops = [] → t.me.regs.lc0 = 0 ∧ t.me.regs.lc1 = s.me.regs.lc1) ∧
          (s.me.regs.loops ≠ [] → t.me.regs.lc0 = s.me.regs.lc0 ∧ t.me.regs.lc1 = 0)) ∧
      (s.me.regs.loops.length < 2 → n ≠ 0 →
        ∃ t l, exec (.loop a b st g) s = .next t ∧ OnlyPart s t s.focus ∧ t.me.loopsNext = some (s.me.regs.loops ++ [l]) ∧
          l.n = n ∧ l.blen = b.toNat + 1 ∧ l.stages = st.toNat + 1 ∧ l.pass = 0 ∧ l.body = after ∧ l.endA = e ∧ l.target = e ∧
          l.ns = none ∧ l.stopNs = none ∧ t.me.regs.pc = s.me.regs.pc ∧ t.me.flight = s.me.flight) ∧
      (2 ≤ s.me.regs.loops.length → ∃ w : W32, encode (.loop a b st g) = some (w, none) ∧
        exec (.loop a b st g) s = .next (s.trapIllegal 9 1 w)))) ∧
  (∀ (s : State) (o : BitVec 20) (g : BitVec 5), s.guardOk g = true →
     (let target := s.me.issA + BitVec.ofInt 64 (2 * o.toInt)
      (s.me.regs.loops = [] → ∃ t, exec (.loopx o g) s = .next t ∧ Transferred s t target []) ∧
      (∀ ls l, s.me.regs.loops = ls ++ [l] → ∃ t l', exec (.loopx o g) s = .next t ∧ OnlyPart s t s.focus ∧
        { t.me with regs := s.me.regs } = s.me ∧ { t.me.regs with loops := s.me.regs.loops } = s.me.regs ∧
        t.me.regs.loops = ls ++ [l'] ∧ { l' with ns := l.ns, target := l.target } = l ∧ l'.target = target ∧
        (l.ns = none → l.stopNs = none → l'.ns = some (min l.n (l.pass + 1))) ∧ (∀ n, l.ns = some n → l'.ns = some n))))

/-- R131, R133, R182, R184: when issue passes the last bundle of the body of the one active loop, the next pass starts at the
body; after the last pass, N + S - 2, the loop is gone, its counter is 0, issue continues at E, and a datum stands there.
Model's choices: log entries 64 and 80. -/
def Obligations.LoopPasses : Prop :=
  ∀ (P : Part) (l : Loop), P.issLen ≠ 0 → P.loopsNext = none → P.regs.loops = [l] → P.stopAt = none → l.ns = none → l.stopNs = none →
    (P.regs.pc ≠ l.endA → P.finishBundle.regs = P.regs ∧ P.finishBundle.datumAfter = P.datumAfter) ∧
    (P.regs.pc = l.endA → l.pass < l.n + l.stages - 2 →
      P.finishBundle.regs = { P.regs with pc := l.body, loops := [{ l with pass := l.pass + 1 }] } ∧
      P.finishBundle.datumAfter = P.datumAfter) ∧
    (P.regs.pc = l.endA → l.pass = l.n + l.stages - 2 → 1 ≤ l.n → 1 ≤ l.stages → l.target = l.endA →
      P.finishBundle.regs.loops = [] ∧ P.finishBundle.regs.lc0 = 0 ∧ P.finishBundle.regs.pc = l.endA ∧
      P.finishBundle.datumAfter = true)

/-- R180: `trap` raises SWTRAP and `brk` raises BRK at the bundle, with the code in bits 19:0 of the detail word. -/
def Obligations.ProgramTraps : Prop :=
  ∀ (s : State) (c : BitVec 20) (g : BitVec 5), s.guardOk g = true →
    exec (.trap c g) s = .next (s.trap s.focus ⟨13, s.me.issA, BitVec.ofNat 64 c.toNat⟩) ∧
    exec (.brk c g) s = .next (s.trap s.focus ⟨12, s.me.issA, BitVec.ofNat 64 c.toNat⟩)

/-- R129, R316, R318, R322: a trap of a partition with no fault of its own pending rolls it back to its last datum (nothing
withheld is released, the first entry journaled for a line gives the line back, a remapped tile is its old tile again, the rings
and the registers are the datum's), writes the trap record at the start of the context block, saves the context with WHY 4,
frees the partition and suspends the task; while a mismatch of the Vane copy is pending no trap is taken, and the bundle is
given up for the rerun. The hypothesis on the notice ring keeps the host's ring from lying over the block. R187, R319, R355:
with TRAPH.EN and a good table the trap starts a service launch under the task's address space, with a number that no incomplete
launch has; without it the host gets a notice, and TRAP is raised when the notice ring took it. Model's choices: log entries 27,
28, 76 and 94. -/
def Obligations.TrapTaken : Prop :=
  (∀ (s : State) (p : Nat) (k : Task) (l : Launch) (tr : Trap), s.memWf → s.taskOn p = some k → s.launch k.lid = some l →
     s.ownPoison p = none →
     (let t := s.trap p tr
      ((s.part p).vane = true → (t.part p).task = (s.part p).task ∧ (t.part p).vane = true ∧ (t.part p).issLen = 0 ∧
        t.tasks = s.tasks ∧ t.mem = s.mem ∧ (s.focus = p → t.slots = [])) ∧
      ((s.part p).vane = false → (t.part p).task = none ∧ (s.focus = p → t.slots = []) ∧
      t.released = s.released ∧ t.cmds = s.cmds ∧ (∀ q, q ≠ p → t.part q = s.part q) ∧ (∀ id, id ≠ k.id → t.task id = s.task id) ∧
      t.hostMem = s.hostMem ∧
      (∃ k', t.task k.id = some k' ∧ k'.st = .trapped ∧ k'.why = 4 ∧ k'.block = k.block ∧ k'.lid = k.lid ∧
        k'.ctx.map Ctx.regs = some (s.part p).dup ∧ k'.res.rings = (s.part p).ringsD ∧ k'.res.stat = (s.part p).statD ∧
        (let js := (s.part p).journal
         let lost (st : Store) (a : Nat) : Prop := ∃ r ∈ st.undef, r.1 ≤ a ∧ a < r.2
         k.res.sp.cells.wf → (∀ j ∈ js, ∀ r ∈ j.old.undef, r.2 ≤ 128) →
           (∀ n j, js[n]? = some j → (∀ i ∈ js.take n, i.line ≠ j.line) →
             OldLine j.old k'.res.sp j.line ∧ k'.res.sp.poison.contains j.line = j.poisoned) ∧
           (∀ a, (∀ j ∈ js, j.line ≠ a / 128) → (lost k'.res.sp a ↔ lost k.res.sp a) ∧
             Mem.read k'.res.sp.cells a = Mem.read k.res.sp.cells a ∧
             k'.res.sp.poison.contains (a / 128) = k.res.sp.poison.contains (a / 128))) ∧
        (let ms := (s.part p).remaps
         (∀ n m, ms[n]? = some m → (∀ i ∈ ms.take n, i.tile ≠ m.tile) →
           KMap.get accZero k'.res.tiles m.tile = m.old ∧ ∀ i, (m.tile, i) ∈ k'.res.tpoison ↔ i ∈ m.poison) ∧
         (∀ n, (∀ m ∈ ms, m.tile ≠ n) → KMap.get accZero k'.res.tiles n = KMap.get accZero k.res.tiles n ∧
           ∀ i, (n, i) ∈ k'.res.tpoison ↔ (n, i) ∈ k.res.tpoison) ∧
         ((∀ m ∈ ms, ∀ x ∈ m.undef, 4225 * m.tile ≤ x.1 ∧ x.2 ≤ 4225 * m.tile + 4225) → ∀ i j, i ≤ 64 → j ≤ 64 →
           (∀ n m, ms[n]? = some m → (∀ y ∈ ms.take n, y.tile ≠ m.tile) →
             (TileUndef k'.res m.tile i j ↔ TileUndef { k.res with tundef := m.undef } m.tile i j)) ∧
           ∀ n, (∀ m ∈ ms, m.tile ≠ n) → (TileUndef k'.res n i j ↔ TileUndef k.res n i j)))) ∧
      ((s.regs.htrapq.getLsbD 63 = false ∨ (l.serves = none ∧ (KMap.get 0 s.regs.traph l.asid).getLsbD 63 = true)) →
        (∀ j, j < 32 → Mem.read t.mem.cells (s.own (k.block + j)) =
          nth 0 (leBytes 8 tr.cause ++ leBytes 8 (s.part p).dup.pc.toNat ++ leBytes 8 tr.fault.toNat ++
            leBytes 8 tr.detail.toNat) j) ∧
        ((∀ x ∈ (s.part p).dup.v, x.length ≤ 1024) → ∀ a, (a < s.own k.block ∨ s.own (k.block + 0x20800) ≤ a) → Mem.read t.mem.cells a = Mem.read s.mem.cells a))))) ∧
  (∀ (s : State) (id : W64) (k : Task) (l : Launch) (cause : Nat),
     (l.serves = none → (KMap.get 0 s.regs.traph l.asid).getLsbD 63 = true → (s.curGen l.asid).1.bad = false →
       ∃ n, (s.reportTrap id k l cause).launches = s.launches ++ [n] ∧ n.serves = some id ∧ n.asid = l.asid ∧ n.ready = true ∧
         n.record.sup = true ∧ n.record.prio = ((KMap.get 0 s.regs.traph l.asid).extractLsb' 56 3).toNat ∧
         (s.launches.length < 2 ^ 32 → ∀ m ∈ s.launches, m.lid ≠ n.lid)) ∧
     ((KMap.get 0 s.regs.traph l.asid).getLsbD 63 = false →
       (s.ringWrite s.regs.htrapq [id, BitVec.ofNat 64 k.block, BitVec.ofNat 64 cause, BitVec.ofNat 64 l.asid]).2 = true →
       (s.reportTrap id k l cause).regs.intcause.getLsbD 0 = true ∧ (s.reportTrap id k l cause).launches = s.launches))

/-- R302 to R304, R311, R312, R320: `exit`, `halt`, `tret`, `yield`, `cont` and `trig` at issue. Model's choices: log entry 53. -/
def Obligations.TaskControl : Prop :=
  ∀ (s : State) (g : BitVec 5), s.guardOk g = true →
    (let ends (t : State) (k : Nat) : Prop :=
       { t.me with exiting := s.me.exiting, datumAfter := s.me.datumAfter } = s.me ∧ t.me.exiting = some k ∧ t.me.datumAfter = true
     (∃ t, exec (.exit g) s = .next t ∧ OnlyPart s t s.focus ∧ ends t 0) ∧
     (∃ t, exec (.tret g) s = .next t ∧ OnlyPart s t s.focus ∧ ends t 2) ∧
     (∃ t, exec (.halt g) s = .next t ∧ ends t 1 ∧ (t.core (s.focus / 4)).accepting = false ∧
       { t with parts := s.parts, cores := s.cores } = s ∧ (∀ q, q ≠ s.focus → t.part q = s.part q) ∧
       (∀ c, c ≠ s.focus / 4 → t.core c = s.core c)) ∧
     (∃ t, exec (.yield g) s = .next t ∧ OnlyPart s t s.focus ∧ t.me.yielding = true ∧ t.me.datumAfter = true ∧
       t.me.stopAt.isSome = true ∧ t.me.regs.pc = s.me.regs.pc ∧ t.me.flight = s.me.flight ∧
       (s.me.regs.cm = true → t.me.loopsNext = some [])) ∧
     (∀ o : BitVec 20, ∃ t, exec (.cont o g) s = .next t ∧ OnlyPart s t s.focus ∧
       t.me.regs = { s.me.regs with cont := if o = 0 then 0 else s.me.issA + BitVec.ofInt 64 (2 * o.toInt) }) ∧
     (∃ t c, exec (.trig g) s = .next t ∧ OnlyPart s t s.focus ∧ c.kind = .trig ∧ c.part = s.focus ∧
       t.me = { s.me with sb := s.me.sb ++ [.cmd c], sbn := s.me.sbn + 1 }))

/-! ### Vector instructions -/

namespace Sys2Proof.Says

/-- Sub-element k of width w of an element (R53). -/
def subel (w : Nat) (x : W32) (k : Nat) : BitVec w := x.extractLsb' (w * k) w

/-- `i` writes vector register d with bound L: an image of 1,024 elements whose element e satisfies Q e. -/
def VectorResult (i : Instr) (s : State) (d L : Nat) (Q : Nat → W32 → Prop) : Prop :=
  ∃ out : Vec, out.length = 1024 ∧ exec i s = .next (result s (.v d out) L) ∧ ∀ e, e < 1024 → Q e (Vec.el out e)

/-- The same under mask m: an element whose mask bit is false keeps the value the destination held at issue (R208). -/
def MaskedResult (i : Instr) (s : State) (d : BitVec 5) (m : BitVec 3) (L : Nat) (Q : Nat → W32 → Prop) : Prop :=
  VectorResult i s d.toNat L fun e y =>
    if (s.rdM 3 m.toNat).getLsbD e then Q e y else y = Vec.el (s.rdV 2 d.toNat) e

/-- The floating format of an element type (R149): 0 fp32, 1 bf16, 2 fp16. -/
def floatOf (t : BitVec 2) : FloatFmt := if t = 0 then .fp32 else if t = 1 then .bf16 else .fp16

/-- The integer width of an element type (R149): 0 32, 1 16, 2 8. -/
def widthOf (t : BitVec 2) : Nat := if t = 0 then 32 else if t = 1 then 16 else 8

/-- Every sub-element of y is an exact value rounded once to nearest even in its own format. -/
def Rounds (f : FloatFmt) (y : W32) (v : Nat → FV) : Prop :=
  ∀ k, k < 32 / f.width → (subel f.width y k).toNat = rne f (v k) % 2 ^ f.width

/-- The value of sub-element k. -/
def subval (f : FloatFmt) (x : W32) (k : Nat) : FV := fpvalue f (subel f.width x k).toNat

structure Vec2Row (α : Type) where
  op  : BitVec 5 → BitVec 5 → BitVec 5 → BitVec 3 → BitVec 2 → BitVec 5 → Instr
  val : α

structure Vec1Row (α : Type) where
  op  : BitVec 5 → BitVec 5 → BitVec 3 → BitVec 2 → BitVec 5 → Instr
  lat : Nat
  val : α

/-- R209 on two registers, on two and the destination, and on one; the special functions of R221. -/
def float2Rows : List (Vec2Row (FV → FV → FV)) :=
  [⟨.vaddF, FV.add⟩, ⟨.vsubF, fun x y => x.add y.neg⟩, ⟨.vmulF, FV.mul⟩, ⟨.vminF, FV.min⟩, ⟨.vmaxF, FV.max⟩]
def float3Rows : List (Vec2Row (FV → FV → FV → FV)) :=
  [⟨.vfma, fun x y z => (x.mul y).add z⟩, ⟨.vfnma, fun x y z => (x.mul y).neg.add z⟩]
def float1Rows : List (Vec1Row (FV → FV)) := [⟨.vabsF, 12, FV.abs⟩, ⟨.vnegF, 12, FV.neg⟩]
def specialRows : List (Vec1Row (FV → FV)) := [⟨.vrcp, 40, rcpV⟩, ⟨.vrsq, 40, rsqV⟩, ⟨.vexp2, 40, exp2V⟩, ⟨.vlog2, 40, log2V⟩]

/-- R210 on two registers and on one, as functions of w-bit patterns. -/
def int2Rows : List (Vec2Row ((w : Nat) → BitVec w → BitVec w → BitVec w)) :=
  [⟨.vaddI, fun _ x y => x + y⟩, ⟨.vsubI, fun _ x y => x - y⟩, ⟨.vmulI, fun _ x y => x * y⟩,
   ⟨.vminI, fun _ x y => if y.slt x then y else x⟩, ⟨.vmaxI, fun _ x y => if x.slt y then y else x⟩,
   ⟨.vminN, fun _ x y => if y.ult x then y else x⟩, ⟨.vmaxN, fun _ x y => if x.ult y then y else x⟩,
   ⟨.vshl, fun w x y => x <<< (y.toNat % w)⟩, ⟨.vshr, fun w x y => x >>> (y.toNat % w)⟩,
   ⟨.vsra, fun w x y => x.sshiftRight (y.toNat % w)⟩]
def int1Rows : List (Vec1Row ((w : Nat) → BitVec w → BitVec w)) :=
  [⟨.vabsI, 12, fun _ x => if x.msb then -x else x⟩, ⟨.vnegI, 12, fun _ x => -x⟩]

end Sys2Proof.Says

/-- R208, R209: the floating element-wise instructions, each sub-element rounded once. R208, R221: the special functions give
the value of the reference procedures of R200 to R202 for every sub-element. -/
def Obligations.VectorFloat : Prop :=
  (∀ (d a b : BitVec 5) (m : BitVec 3) (t : BitVec 2) (g : BitVec 5) (s : State), t ≠ 3 → s.guardOk g = true →
     (let f := floatOf t
      let x (e : Nat) := Vec.el (s.rdV 0 a.toNat) e
      let y (e : Nat) := Vec.el (s.rdV 1 b.toNat) e
      let z (e : Nat) := Vec.el (s.rdV 2 d.toNat) e
      (∀ r ∈ float2Rows, MaskedResult (r.op d a b m t g) s d m 12 fun e o =>
        Rounds f o fun k => r.val (subval f (x e) k) (subval f (y e) k)) ∧
      (∀ r ∈ float3Rows, MaskedResult (r.op d a b m t g) s d m 12 fun e o =>
        Rounds f o fun k => r.val (subval f (x e) k) (subval f (y e) k) (subval f (z e) k)) ∧
      (∀ r ∈ float1Rows, MaskedResult (r.op d a m t g) s d m r.lat fun e o =>
        Rounds f o fun k => r.val (subval f (x e) k)))) ∧
  (∀ (d a : BitVec 5) (m : BitVec 3) (t : BitVec 2) (g : BitVec 5) (s : State), t ≠ 3 → s.guardOk g = true →
     ∀ r ∈ specialRows, MaskedResult (r.op d a m t g) s d m r.lat fun e o =>
       Rounds (floatOf t) o fun k => r.val (subval (floatOf t) (Vec.el (s.rdV 0 a.toNat) e) k))

/-- R208, R210: the integer and bitwise element-wise instructions on sub-elements of 32, 16 or 8 bits. R211: a vector compare
writes every bit of its mask: the condition holds of every sub-element. -/
def Obligations.VectorIntegerAndCompare : Prop :=
  (∀ (d a b : BitVec 5) (m : BitVec 3) (t : BitVec 2) (g : BitVec 5) (s : State), t ≠ 3 → s.guardOk g = true →
     (let w := widthOf t
      let x (e : Nat) := Vec.el (s.rdV 0 a.toNat) e
      let y (e : Nat) := Vec.el (s.rdV 1 b.toNat) e
      (∀ r ∈ int2Rows, MaskedResult (r.op d a b m t g) s d m 12 fun e o =>
        ∀ k, k < 32 / w → subel w o k = r.val w (subel w (x e) k) (subel w (y e) k)) ∧
      (∀ r ∈ int1Rows, MaskedResult (r.op d a m t g) s d m r.lat fun e o =>
        ∀ k, k < 32 / w → subel w o k = r.val w (subel w (x e) k)) ∧
      MaskedResult (.vand d a b m g) s d m 12 (fun e o => o = x e &&& y e) ∧
      MaskedResult (.vor d a b m g) s d m 12 (fun e o => o = x e ||| y e) ∧
      MaskedResult (.vxor d a b m g) s d m 12 (fun e o => o = x e ^^^ y e))) ∧
  (∀ (d : BitVec 3) (a b : BitVec 5) (c : BitVec 3) (t : BitVec 2) (g : BitVec 5) (s : State), t ≠ 3 → s.guardOk g = true →
     (let x (e : Nat) := Vec.el (s.rdV 0 a.toNat) e
      let y (e : Nat) := Vec.el (s.rdV 1 b.toNat) e
      let w := widthOf t
      (∃ out : Mask, exec (.vcmpF d a b c t g) s = .next (result s (.m d.toNat out) 12) ∧ ∀ e, e < 1024 →
        (out.getLsbD e = true ↔ ∀ k, k < 32 / (floatOf t).width →
          fcond c.toNat (subval (floatOf t) (x e) k) (subval (floatOf t) (y e) k) = true)) ∧
      (c.toNat ≤ 5 →
        (∃ out : Mask, exec (.vcmpI d a b c t g) s = .next (result s (.m d.toNat out) 12) ∧ ∀ e, e < 1024 →
          (out.getLsbD e = true ↔ ∀ k, k < 32 / w → holds c (subel w (x e) k) (subel w (y e) k) = true)) ∧
        (∃ out : Mask, exec (.vcmpN d a b c t g) s = .next (result s (.m d.toNat out) 12) ∧ ∀ e, e < 1024 →
          (out.getLsbD e = true ↔ ∀ k, k < 32 / w →
            (let p := (subel w (x e) k).toNat
             let q := (subel w (y e) k).toNat
             match c.toNat with
             | 0 => p = q | 1 => p ≠ q | 2 => p < q | 3 => q ≤ p | 4 => p ≤ q | _ => q < p))))))

/-- R193 to R195, R213, R214: `vcvt` and `vcvt.sat` convert sub-elements in place; `vpack` narrows a group, saturating, and
`vunpk` widens into a group, each register with bound 12. R196, R215: `vquant` writes the elements, the scales and the checksums
of the quantised tile in the image form of R58 to R61, and raises SAT exactly when an element saturated; the window of MXSTAT
stays open for 12 cycles either way. -/
def Obligations.VectorConversions : Prop :=
  (∀ (d a : BitVec 5) (fs fd : BitVec 4) (rm : BitVec 2) (g : BitVec 5) (s : State), s.guardOk g = true →
     (let ws := (fmtOf fs).width
      let wd := (fmtOf fd).width
      let x (q e : Nat) := Vec.el (s.rdV q (a.toNat + q)) e
      let conv (sat : Bool) (y : W32) (k : Nat) : Nat := convert (fmtOf fs) (fmtOf fd) (RMode.of rm) sat (subel ws y k).toNat
      ((Instr.vcvt d a fs fd rm g).legal = true →
        VectorResult (.vcvt d a fs fd rm g) s d.toNat 12 (fun e o =>
          ∀ k, k < 32 / wd → (subel wd o k).toNat = conv false (x 0 e) k % 2 ^ wd) ∧
        VectorResult (.vcvtSat d a fs fd rm g) s d.toNat 12 (fun e o =>
          ∀ k, k < 32 / wd → (subel wd o k).toNat = conv true (x 0 e) k % 2 ^ wd)) ∧
      ((Instr.vpack d a fs fd rm g).legal = true →
        VectorResult (.vpack d a fs fd rm g) s d.toNat 12 (fun e o =>
          ∀ k, k < 32 / wd → (subel wd o k).toNat = conv true (x (k / (32 / ws)) e) (k % (32 / ws)) % 2 ^ wd)) ∧
      ((Instr.vunpk d a fs fd rm g).legal = true →
        ∃ outs : List Vec, outs.length = wd / ws ∧
          exec (.vunpk d a fs fd rm g) s =
            .next ((outs.zipIdx).foldl (fun s o => result s (.v (d.toNat + o.2) o.1) 12) s) ∧
          ∀ o ∈ outs.zipIdx, o.1.length = 1024 ∧ ∀ e, e < 1024 → ∀ k, k < 32 / wd →
            (subel wd (Vec.el o.1 e) k).toNat = conv false (x 0 e) (o.2 * (32 / wd) + k) % 2 ^ wd))) ∧
  (∀ (d a : BitVec 5) (e : BitVec 4) (g : BitVec 5) (s : State), s.guardOk g = true → (Instr.vquant d a e g).legal = true →
     (let src := (List.range 4096).map fun k => f32 (Vec.el (s.rdV (k / 1024) (a.toNat + k / 1024)) (k % 1024))
      let q := quantTile (e + 3) false src
      ∃ v0 v1 v2 : Vec, v0.length = 1024 ∧ v1.length = 1024 ∧ v2.length = 1024 ∧
        Vec.bytes v0 = ((q.1.image.drop 128).take (64 * rowBytes (e + 3))) ++ List.replicate (4096 - 64 * rowBytes (e + 3)) 0 ∧
        Vec.bytes v1 = q.1.image.take 128 ++ List.replicate 3968 0 ∧
        Vec.bytes v2 = q.1.image.drop (128 + 64 * rowBytes (e + 3)) ++ List.replicate 3456 0 ∧
        exec (.vquant d a e g) s =
          .next (let t := result (result (result s (.v d.toNat v0) 12) (.v (d.toNat + 1) v1) 12) (.v (d.toNat + 2) v2) 12
                 result t (if q.2 then .sat else .quant) 12)))

/-- R216, R218: rotations and broadcasts over rows (bound 14) and lanes (bound 28), and the lane permutation. R199, R217:
`vredr` gives every row of a lane, and `vredc` every lane of a row, the reduction of inputs 0 to k: the binary tree of R199 over
all positions, where every input above k is the identity of the operation; the integer one is the sum modulo 2^32. -/
def Obligations.VectorAxes : Prop :=
  (∀ (d a b : BitVec 5) (k : BitVec 6) (m : BitVec 3) (g : BitVec 5) (s : State), s.guardOk g = true →
     (let x (i j : Nat) := Vec.el (s.rdV 0 a.toNat) (64 * i + j)
      VectorResult (.vrotr d a k g) s d.toNat 14 (fun e o => o = x ((e / 64 + k.toNat) % 16) (e % 64)) ∧
      VectorResult (.vbcr d a k g) s d.toNat 14 (fun e o => o = x k.toNat (e % 64)) ∧
      VectorResult (.vrotc d a k g) s d.toNat 28 (fun e o => o = x (e / 64) ((e % 64 + k.toNat) % 64)) ∧
      VectorResult (.vbcc d a k g) s d.toNat 28 (fun e o => o = x (e / 64) k.toNat) ∧
      MaskedResult (.vpermc d a b m g) s d m 28
        (fun e o => o = x (e / 64) ((Vec.el (s.rdV 1 b.toNat) e).toNat % 64)))) ∧
  (∀ (d a : BitVec 5) (k : BitVec 6) (f : BitVec 2) (g : BitVec 5) (s : State), s.guardOk g = true →
     (let x (i j : Nat) := Vec.el (s.rdV 0 a.toNat) (64 * i + j)
      let pick (n : Nat) (y : Nat → W32) : List W32 := (List.range n).map fun i => if i ≤ k.toNat then y i else redId f
      (k.toNat ≤ 15 → VectorResult (.vredr d a k f g) s d.toNat 14 (fun e o =>
         (f = 3 → o = ((List.range (k.toNat + 1)).map fun i => x i (e % 64)).sum) ∧
         [o] = tree (redOp f) 4 (pick 16 fun i => x i (e % 64)))) ∧
      VectorResult (.vredc d a k f g) s d.toNat 28 (fun e o =>
         (f = 3 → o = ((List.range (k.toNat + 1)).map fun j => x (e / 64) j).sum) ∧
         [o] = tree (redOp f) 6 (pick 64 fun j => x (e / 64) j))))

/-- R208, R212, R219: select, the moves, `viota`, and single elements to and from scalar registers. R114, R220: the mask
instructions. -/
def Obligations.VectorMovesAndMasks : Prop :=
  (∀ (d a b : BitVec 5) (m : BitVec 3) (g : BitVec 5) (s : State), s.guardOk g = true →
     (let x (e : Nat) := Vec.el (s.rdV 0 a.toNat) e
      let y (e : Nat) := Vec.el (s.rdV 1 b.toNat) e
      VectorResult (.vsel d a b m g) s d.toNat 12 (fun e o => o = if (s.rdM 3 m.toNat).getLsbD e then x e else y e) ∧
      MaskedResult (.vmov d a m g) s d m 12 (fun e o => o = x e) ∧
      MaskedResult (.vmovs d a m g) s d m 12 (fun _ o => o = (s.rdS 0 a).extractLsb' 0 32) ∧
      MaskedResult (.viota d a m g) s d m 12
        (fun e o => o.toNat = ((s.rdS 0 a).toNat + e) % 2 ^ 32) ∧
      (∀ (r : BitVec 4) (c : BitVec 6),
        exec (.vext d a r c g) s = .next (resultS s d (BitVec.ofNat 64 (x (64 * r.toNat + c.toNat)).toNat) 12) ∧
        VectorResult (.vins d a r c g) s d.toNat 12 (fun e o =>
          o = if e = 64 * r.toNat + c.toNat then (s.rdS 0 a).extractLsb' 0 32 else Vec.el (s.rdV 2 d.toNat) e)))) ∧
  (∀ (d a b : BitVec 5) (m : BitVec 3) (g : BitVec 5) (s : State), s.guardOk g = true →
     (let x := s.rdM 0 a.toNat
      let y := s.rdM 1 b.toNat
      (∀ o : BitVec 3, ∃ out : Mask, exec (.mlog d a b o g) s = .next (result s (.m d.toNat out) 12) ∧ ∀ e, e < 1024 →
        out.getLsbD e =
          match o.toNat with
          | 0 => x.getLsbD e && y.getLsbD e
          | 1 => x.getLsbD e || y.getLsbD e
          | 2 => x.getLsbD e != y.getLsbD e
          | 3 => x.getLsbD e && !y.getLsbD e
          | 4 => x.getLsbD e || !y.getLsbD e
          | 5 => !(x.getLsbD e && y.getLsbD e)
          | 6 => !(x.getLsbD e || y.getLsbD e)
          | _ => x.getLsbD e == y.getLsbD e) ∧
      exec (.mpop d a m g) s = .next (resultS s d (BitVec.ofNat 64
        ((List.range 1024).countP fun e => x.getLsbD e && (s.rdM 3 m.toNat).getLsbD e)) 12) ∧
      (∃ out : Mask, exec (.mset d a g) s = .next (result s (.m d.toNat out) 12) ∧
        ∀ e, e < 1024 → (out.getLsbD e = true ↔ e < (s.rdS 0 a).toNat)) ∧
      exec (.mmov d a g) s = .next (result s (.m d.toNat x) 12)))

/-! ### Memory -/

namespace Sys2Proof.Says

/-- The access passes the checks of R14 and R249: it translates to x and is aligned to 2^lg bytes. -/
def Reaches (s : State) (acc : Acc) (va : W64) (n lg : Nat) (x : Xlate) : Prop :=
  s.xlate s.focus acc va.toNat n = .ok x ∧ va.toNat % 2 ^ lg = 0

/-- Byte k of a register, and the bytes of its low n bytes in ascending order of address (R5). -/
def bytesOf (n : Nat) (x : W64) : List Byte := (List.range n).map fun k => x.extractLsb' (8 * k) 8

/-- v is the value loaded from n bytes: bits from the bytes, then the top bit of the last one when the load sign-extends (R251). -/
def Loads (v : W64) (sext : Bool) (n : Nat) (byte : Nat → Byte) : Prop :=
  ∀ j, j < 64 → v.getLsbD j = if j < 8 * n then (byte (j / 8)).getLsbD (j % 8) else sext && (byte (n - 1)).getLsbD 7

structure LoadRow where
  op   : BitVec 5 → BitVec 5 → BitVec 10 → BitVec 5 → Instr
  lg   : Nat
  sext : Bool

structure QualRow where
  op   : BitVec 5 → BitVec 5 → BitVec 4 → BitVec 3 → BitVec 2 → BitVec 5 → Instr
  lg   : Nat
  flag : Bool

structure SpQualRow where
  op   : BitVec 5 → BitVec 5 → BitVec 4 → BitVec 3 → BitVec 5 → Instr
  lg   : Nat
  sext : Bool

/-- R251: global loads in the short and the qualified form, by log2 of the size and whether they sign-extend. -/
def loadRows : List LoadRow :=
  [⟨.ldB, 0, true⟩, ⟨.ldBu, 0, false⟩, ⟨.ldH, 1, true⟩, ⟨.ldHu, 1, false⟩, ⟨.ldW, 2, true⟩, ⟨.ldWu, 2, false⟩, ⟨.ldD, 3, true⟩]
def loadQRows : List QualRow :=
  [⟨.ldBMq, 0, true⟩, ⟨.ldBuMq, 0, false⟩, ⟨.ldHMq, 1, true⟩, ⟨.ldHuMq, 1, false⟩, ⟨.ldWMq, 2, true⟩, ⟨.ldWuMq, 2, false⟩,
   ⟨.ldDMq, 3, true⟩]
/-- R253: acquire loads. -/
def acquireRows : List QualRow :=
  [⟨.ldAcqB, 0, true⟩, ⟨.ldAcqBu, 0, false⟩, ⟨.ldAcqH, 1, true⟩, ⟨.ldAcqHu, 1, false⟩, ⟨.ldAcqW, 2, true⟩, ⟨.ldAcqWu, 2, false⟩,
   ⟨.ldAcqD, 3, true⟩]
/-- R251, R253: global stores in the short form, and in the qualified form, the release stores marked. -/
def storeRows : List LoadRow := [⟨.stB, 0, false⟩, ⟨.stH, 1, false⟩, ⟨.stW, 2, false⟩, ⟨.stD, 3, false⟩]
def storeQRows : List QualRow :=
  [⟨.stBMq, 0, false⟩, ⟨.stHMq, 1, false⟩, ⟨.stWMq, 2, false⟩, ⟨.stDMq, 3, false⟩,
   ⟨.stRelB, 0, true⟩, ⟨.stRelH, 1, true⟩, ⟨.stRelW, 2, true⟩, ⟨.stRelD, 3, true⟩]
/-- R251: scratchpad loads and stores. -/
def spLoadRows : List LoadRow :=
  [⟨.ldSpB, 0, true⟩, ⟨.ldSpBu, 0, false⟩, ⟨.ldSpH, 1, true⟩, ⟨.ldSpHu, 1, false⟩, ⟨.ldSpW, 2, true⟩, ⟨.ldSpWu, 2, false⟩,
   ⟨.ldSpD, 3, true⟩]
def spLoadQRows : List SpQualRow :=
  [⟨.ldSpBMq, 0, true⟩, ⟨.ldSpBuMq, 0, false⟩, ⟨.ldSpHMq, 1, true⟩, ⟨.ldSpHuMq, 1, false⟩, ⟨.ldSpWMq, 2, true⟩,
   ⟨.ldSpWuMq, 2, false⟩, ⟨.ldSpDMq, 3, true⟩]
def spStoreRows : List LoadRow := [⟨.stSpB, 0, false⟩, ⟨.stSpH, 1, false⟩, ⟨.stSpW, 2, false⟩, ⟨.stSpD, 3, false⟩]
def spStoreQRows : List SpQualRow :=
  [⟨.stSpBMq, 0, false⟩, ⟨.stSpHMq, 1, false⟩, ⟨.stSpWMq, 2, false⟩, ⟨.stSpDMq, 3, false⟩]

/-- The address of a short-form operand: s[a] + off * size (R251). -/
def shortEa (s : State) (a : BitVec 5) (o : BitVec 10) (size : Nat) : W64 :=
  s.rdS 0 a + BitVec.ofInt 64 (o.toInt * size)

/-- A read of the bundle in issue, pending on register r; what the store buffer holds now is forwarded to it (R70). -/
def reading (s : State) (x : Xlate) (r : Reg) (va : W64) (o n : Nat) (sext : Bool) (cls scope : Nat) (hint : BitVec 2) (acq : Bool)
    (elem : Option Nat) : Pend :=
  ⟨r, x.loc.add o, n, sext, cls, scope, x.ent.pol ||| hint, acq, s.me.sb.length, s.fresh, none, elem, va + BitVec.ofNat 64 o,
   s.opKey s.focus + 4 * elem.getD 0⟩

/-- `i` only adds the pending reads ps to its partition: it reads no memory yet and changes nothing else. -/
def OnlyReads (i : Instr) (s : State) (ps : List Pend) : Prop :=
  exec i s = .next (s.updMe fun P => { P with pend := P.pend ++ ps })

/-- A store of register r that the bundle in issue withholds (R76), with the poison of that register (R331). -/
def storing (s : State) (r : Reg) (x : Xlate) (va : W64) (o : Nat) (data : List Byte) (cls scope : Nat) (rel : Bool)
    (hint : BitVec 2) : GStore :=
  ⟨x.loc.add o, data, cls, scope, rel, x.ent.pol ||| hint, va + BitVec.ofNat 64 o, s.fresh, s.focus, s.me.task.getD 0,
   s.asidOn s.focus, 0, [], false, s.regBad r⟩

/-- `i` only withholds entries ds, as n of the store buffer: no byte of memory changes, and of its partition only the store buffer
and, in a rerun, the record of outputs. -/
def OnlyWithholds (i : Instr) (s : State) (ds : List Deferred) (n : Nat) : Prop :=
  ∃ t, exec i s = .next t ∧ OnlyPart s t s.focus ∧ t.me.sb = s.me.sb ++ ds ∧ t.me.sbn = s.me.sbn + n ∧
    { t.me with sb := s.me.sb, sbn := s.me.sbn, trOut := s.me.trOut } = s.me ∧ (s.me.rerun = none → t.me.trOut = s.me.trOut)

/-- The checks of an own-scratchpad access pass at offset o (R21, R37, R249). -/
def Within (s : State) (o n lg : Nat) : Prop :=
  o < 2 ^ 22 ∧ o + n ≤ 4096 * (s.res s.focus).rows ∧ o % 2 ^ lg = 0 ∧
  (s.core (s.focus / 4)).lentRow (s.me.task.getD 0) (o / 4096) ((o + n - 1) / 4096 - o / 4096 + 1) = none

/-- `i` writes the bytes bs at offset o of the task's reservation: every other byte of the reservation, every other task, all other
memory and the partition's registers stay; the lines written are journaled (R126). -/
def WritesScratch (i : Instr) (s : State) (o : Nat) (bs : List Byte) : Prop :=
  ∃ t, exec i s = .next t ∧ { t with parts := s.parts, tasks := s.tasks } = s ∧ (∀ q, q ≠ s.focus → t.part q = s.part q) ∧
    (∀ id, s.me.task ≠ some id → t.task id = s.task id) ∧
    { t.me with journal := s.me.journal, trOut := s.me.trOut } = s.me ∧
    (∀ a, Mem.read (t.res s.focus).sp.cells a =
      if o ≤ a ∧ a < o + bs.length then nth 0 bs (a - o) else Mem.read (s.res s.focus).sp.cells a) ∧
    Journals s t s.focus (fun l => o < 128 * l + 128 ∧ 128 * l < o + bs.length)

/-- The state after one byte string bs has been written at a place, in terms of every byte of the two memories. -/
def Wrote (s t : State) (loc : Loc) (bs : List Byte) : Prop :=
  (∀ a, Mem.read t.mem.cells a =
    if loc = .hbm loc.addr ∧ loc.addr ≤ a ∧ a < loc.addr + bs.length then nth 0 bs (a - loc.addr) else Mem.read s.mem.cells a) ∧
  (∀ a, Mem.read t.hostMem.cells a =
    if loc = .host loc.addr ∧ loc.addr ≤ a ∧ a < loc.addr + bs.length then nth 0 bs (a - loc.addr)
    else Mem.read s.hostMem.cells a)

end Sys2Proof.Says

/-- R12, R16: every entry of a table generation Meridian reads is aligned to 256 KiB on both sides, so a translated address
keeps its low 18 bits. R10, R14: the reasons of a refused translation, each when no reason before it holds. Model's choices: log
entry 66. -/
def Obligations.AddressTranslation : Prop :=
  ((∀ (s : State) (a : Nat), ∀ e ∈ (s.readGen a).ents, e.vbase % 2 ^ 18 = 0 ∧ e.pbase % 2 ^ 18 = 0) ∧
   (∀ (ents : List WEnt) (pod : Nat) (sup hatom : Bool) (acc : Acc) (va n : Nat) (x : Xlate),
     (∀ e ∈ ents, e.vbase % 2 ^ 18 = 0 ∧ e.pbase % 2 ^ 18 = 0) → translate ents pod sup hatom acc va n = .ok x →
     x.loc.addr % 2 ^ 18 = va % 2 ^ 18)) ∧
  (∀ (ents : List WEnt) (pod : Nat) (sup hatom : Bool) (acc : Acc) (va n : Nat), 0 < n →
     (let ok (a : Nat) : Prop := a < 2 ^ 55 ∨ (2 ^ 64 - 2 ^ 55 ≤ a ∧ a < 2 ^ 64)
      ((∃ k, k < n ∧ ¬ ok (va + k)) → translate ents pod sup hatom acc va n = .error 1) ∧
      ((∀ k, k < n → ok (va + k)) →
        ((∀ e ∈ ents, ¬ (e.vbase ≤ va ∧ va < e.vbase + e.size)) → translate ents pod sup hatom acc va n = .error 2) ∧
        (∀ e ∈ ents, e.vbase ≤ va → va < e.vbase + e.size → (∀ f ∈ ents, f.vbase ≤ va → va < f.vbase + f.size → f = e) →
          translate ents pod sup hatom acc va n =
            if e.vbase + e.size < va + n then .error 3
            else if e.sup = true ∧ sup = false then .error 4
            else if acc.rd = true ∧ e.rd = false then .error 5
            else if acc.wr = true ∧ e.wr = false then .error 6
            else if acc.x = true ∧ e.x = false then .error 7
            else if acc.atomic = true ∧ e.tgt = 2 ∧ hatom = false then .error 10
            else .ok ⟨e.place pod va, e⟩))))

/-- R120, R251, R252: a global load that passes its checks only records its read; the register waits for it. A vector load of
HBM4 is 32 reads of one line each, and of host memory 512 of 8 bytes. R76, R251 to R253: a global store that passes its checks
is withheld with its bytes; no byte of memory changes. A vector store of HBM4 is 32 entries of one line each. Model's choices:
log entries 57 and 63. -/
def Obligations.GlobalAccessesIssue : Prop :=
  (∀ (s : State) (t a : BitVec 5) (g : BitVec 5) (x : Xlate), s.guardOk g = true →
     (∀ r ∈ loadRows, ∀ o : BitVec 10, Reaches s .load (shortEa s a o (2 ^ r.lg)) (2 ^ r.lg) r.lg x → x.loc.addr % 2 ^ r.lg = 0 →
       OnlyReads (r.op t a o g) s
         [reading s x (.s t.toNat) (shortEa s a o (2 ^ r.lg)) 0 (2 ^ r.lg) r.sext 0 1 0 false none]) ∧
     (∀ r ∈ loadQRows, ∀ (c : BitVec 4) (sc : BitVec 3) (h : BitVec 2), Reaches s .load (s.rdS 0 a) (2 ^ r.lg) r.lg x →
       x.loc.addr % 2 ^ r.lg = 0 →
       OnlyReads (r.op t a c sc h g) s [reading s x (.s t.toNat) (s.rdS 0 a) 0 (2 ^ r.lg) r.flag c.toNat sc.toNat h false none]) ∧
     (let vector (i : Instr) (va : W64) (c sc : Nat) (h : BitVec 2) : Prop :=
        Reaches s .load va 4096 7 x → x.loc.addr % 128 = 0 →
        (∀ b, x.loc = .hbm b → OnlyReads i s ((List.range 32).map fun k =>
          reading s x (.v t.toNat) va (128 * k) 128 false c sc h false (some (32 * k)))) ∧
        (∀ b, x.loc = .host b → OnlyReads i s ((List.range 512).map fun k =>
          reading s x (.v t.toNat) va (8 * k) 8 false c sc h false (some (2 * k))))
      (∀ o : BitVec 10, vector (.ldv t a o g) (shortEa s a o 128) 0 1 0) ∧
      ∀ (c : BitVec 4) (sc : BitVec 3) (h : BitVec 2), vector (.ldvMq t a c sc h g) (s.rdS 0 a) c.toNat sc.toNat h)) ∧
  (∀ (s : State) (t a : BitVec 5) (g : BitVec 5) (x : Xlate), s.guardOk g = true →
     (∀ r ∈ storeRows, ∀ o : BitVec 10, Reaches s .store (shortEa s a o (2 ^ r.lg)) (2 ^ r.lg) r.lg x → x.loc.addr % 2 ^ r.lg = 0 →
       OnlyWithholds (r.op t a o g) s
         [.store (storing s (.s t.toNat) x (shortEa s a o (2 ^ r.lg)) 0 (bytesOf (2 ^ r.lg) (s.rdS 2 t)) 0 1 false 0)] 1) ∧
     (∀ r ∈ storeQRows, ∀ (c : BitVec 4) (sc : BitVec 3) (h : BitVec 2), Reaches s .store (s.rdS 0 a) (2 ^ r.lg) r.lg x →
       x.loc.addr % 2 ^ r.lg = 0 →
       OnlyWithholds (r.op t a c sc h g) s
         [.store (storing s (.s t.toNat) x (s.rdS 0 a) 0 (bytesOf (2 ^ r.lg) (s.rdS 2 t)) c.toNat sc.toNat r.flag h)] 1) ∧
     (let vector (i : Instr) (va : W64) (c sc : Nat) (h : BitVec 2) : Prop :=
        Reaches s .store va 4096 7 x → x.loc.addr % 128 = 0 →
        OnlyWithholds i s ((List.range 32).map fun k => .store (storing s (.v t.toNat) x va (128 * k)
          ((List.range 128).map fun j => (Vec.el (s.rdV 2 t.toNat) (32 * k + j / 4)).extractLsb' (8 * (j % 4)) 8) c sc false h)) 32
      (∀ o : BitVec 10, vector (.stv t a o g) (shortEa s a o 128) 0 1 0) ∧
      ∀ (c : BitVec 4) (sc : BitVec 3) (h : BitVec 2), vector (.stvMq t a c sc h g) (s.rdS 0 a) c.toNat sc.toNat h))

/-- R69: a released store that may perform and that its home takes writes exactly its bytes at its place; every other byte of
HBM4 and host memory stays, and the store is released no longer. Model's choices: log entries 2, 21 and 99. -/
def Obligations.StoresPerform : Prop :=
  ∀ (s h : State) (p k : Nat) (x : GStore), s.memWf → (s.released.filter fun y => y.part = p)[k]? = some x →
    s.storeReady x = true → s.ans = none → s.reachable x.loc = true →
    ((({ s with released := s.released.filter fun y => y.seq != x.seq } : State).sent x.loc fun a => .write a x.data x.bad).touch x.loc
      x.data.length true x.pol).writeHome x.loc x.data = some h →
    (∀ c ∈ s.cmds, c.kind ≠ .trig) →
    ∃ t, exec (.storePerform p k) s = .next t ∧ (∀ y ∈ t.released, y ∈ s.released ∧ y.seq ≠ x.seq) ∧ Wrote s t x.loc x.data

/-- R69, R70, R251: when a pending scalar read may perform, unasked by an answer from outside, and L1 does not serve it, its
register gets the bytes of the home under the task's own earlier withheld bytes, extended as the load says; no memory and no
other partition changes. No store that forwards to it holds poison (R332). R79, R253: an acquire load of this package's HBM4
with no earlier read pending performs at once, and one of scope 2 or wider reads at the home and leaves the core's L1 empty; one
whose home is outside only records its read, which that home answers. Model's choices: log entries 21, 56, 57, 59 and 75. -/
def Obligations.LoadsReturnMemory : Prop :=
  (∀ (s : State) (p d : Nat) (x : Pend) (rest : List Pend), (s.part p).pend = x :: rest → x.dst = .s d → d ≠ 0 → x.elem = none →
     x.rmw = none → s.ans = none → s.pendReady p 0 = true → s.poisonedAt x.loc x.size = false →
     s.withheldBad p x.sb x.loc x.size = false → (s.part p).sealed = false → 0 < x.size → x.size ≤ 8 →
     x.loc.addr / 128 = (x.loc.addr + x.size - 1) / 128 →
     (x.pol.getLsbD 0 = true ∨ (x.acq = true ∧ 2 ≤ x.scope) ∨ ∀ e ∈ (s.core (p / 4)).l1, e.holds x.loc = false) →
     ∃ t f v, exec (.interlockedResult p 0) s = .next t ∧ (t.part p).pend = rest ∧ (t.part p).flight = (s.part p).flight ++ [f] ∧
       f.wr = .s d v ∧ f.iss = (s.part p).issT ∧ { (t.part p).regs with acq := (s.part p).regs.acq } = (s.part p).regs ∧
       ((x.acq = false ∨ ∀ y ∈ s.ownStores p x.sb, y.cover x.loc x.size = []) → (t.part p).regs = (s.part p).regs) ∧ t.mem = s.mem ∧ t.hostMem = s.hostMem ∧
       (∀ q, q ≠ p → t.part q = s.part q) ∧
       Loads v x.sext x.size fun k =>
         match (s.withheld p x.sb x.loc x.size).find? fun e => e.1 = k with
         | some e => e.2
         | none => nth 0 (s.readHome x.loc x.size) k) ∧
  (∀ (s : State) (t a : BitVec 5) (g : BitVec 5) (x : Xlate) (c : BitVec 4) (sc : BitVec 3) (h : BitVec 2), s.guardOk g = true →
     ∀ r ∈ acquireRows, Reaches s .load (s.rdS 0 a) (2 ^ r.lg) r.lg x → x.loc.addr % 2 ^ r.lg = 0 →
       (s.localHome x.loc = false →
         OnlyReads (r.op t a c sc h g) s
           [reading s x (.s t.toNat) (s.rdS 0 a) 0 (2 ^ r.lg) r.flag c.toNat sc.toNat h true none]) ∧
       (s.localHome x.loc = true → s.me.pend = [] → s.ans = none → s.poisonedAt x.loc (2 ^ r.lg) = false →
         s.withheldBad s.focus s.me.sb.length x.loc (2 ^ r.lg) = false → t ≠ 0 →
       ∃ u f v, exec (r.op t a c sc h g) s = .next u ∧ u.me.pend = [] ∧ u.me.flight = s.me.flight ++ [f] ∧ f.wr = .s t.toNat v ∧
         { u.me.regs with acq := s.me.regs.acq } = s.me.regs ∧
         ((∀ y ∈ s.ownStores s.focus s.me.sb.length, y.cover x.loc (2 ^ r.lg) = []) → u.me.regs = s.me.regs) ∧ u.mem = s.mem ∧
         u.hostMem = s.hostMem ∧ (∀ q, q ≠ s.focus → u.part q = s.part q) ∧
         (2 ≤ sc.toNat → (u.core (s.focus / 4)).l1 = [] ∧
           Loads v r.flag (2 ^ r.lg) fun k =>
             match (s.withheld s.focus s.me.sb.length x.loc (2 ^ r.lg)).find? fun e => e.1 = k with
             | some e => e.2
             | none => nth 0 (s.readHome x.loc (2 ^ r.lg)) k)))

/-- R21, R118, R251, R252: a scratchpad load that passes its checks writes its register with bound 8, a vector one with bound
16; s0 discards the value; nothing else changes but, in a rerun, the record of inputs. R22, R126, R251, R252: a scratchpad store
that passes its checks writes exactly its bytes; the first write of an interval to a line journals the line as it stood, later
ones do not. -/
def Obligations.ScratchpadAccesses : Prop :=
  (∀ (s : State) (t a : BitVec 5) (g : BitVec 5), s.guardOk g = true →
     (let bs (o n : Nat) := s.spRead s.focus false o n
      let scalar (i : Instr) (ea : W64) (lg : Nat) (sext : Bool) : Prop :=
        Within s ea.toNat (2 ^ lg) lg → (s.res s.focus).poisonAt false ea.toNat (2 ^ lg) = none →
        ∃ v, exec i s = .next (resultS (s.noteIn s.focus (bs ea.toNat (2 ^ lg))) t v 8) ∧
          Loads v sext (2 ^ lg) fun k => nth 0 (bs ea.toNat (2 ^ lg)) k
      let vector (i : Instr) (ea : W64) : Prop :=
        Within s ea.toNat 4096 7 → (s.res s.focus).poisonAt false ea.toNat 4096 = none →
        ∃ v : Vec, v.length = 1024 ∧ exec i s = .next (result (s.noteIn s.focus (bs ea.toNat 4096)) (.v t.toNat v) 16) ∧
          ∀ e k, e < 1024 → k < 4 → (Vec.el v e).extractLsb' (8 * k) 8 = nth 0 (bs ea.toNat 4096) (4 * e + k)
      (∀ r ∈ spLoadRows, ∀ o : BitVec 10, scalar (r.op t a o g) (shortEa s a o (2 ^ r.lg)) r.lg r.sext) ∧
      (∀ r ∈ spLoadQRows, ∀ (c : BitVec 4) (sc : BitVec 3), scalar (r.op t a c sc g) (s.rdS 0 a) r.lg r.sext) ∧
      (∀ o : BitVec 10, vector (.ldvSp t a o g) (shortEa s a o 128)) ∧
      (∀ (c : BitVec 4) (sc : BitVec 3), vector (.ldvSpMq t a c sc g) (s.rdS 0 a)) ∧
      (∀ o n, (s.res s.focus).views = [] → (s.res s.focus).sp.undef = [] →
        ∀ k, k < n → nth 0 (bs o n) k = Mem.read (s.res s.focus).sp.cells (o + k)) ∧
      (∀ xs, s.me.rerun = none → s.noteIn s.focus xs = s.updMe id))) ∧
  (∀ (s : State) (t a : BitVec 5) (g : BitVec 5) (k : Task), s.guardOk g = true → s.taskOn s.focus = some k → k.res.sp.cells.wf →
     (let scalar (i : Instr) (ea : W64) (lg : Nat) : Prop :=
        Within s ea.toNat (2 ^ lg) lg → WritesScratch i s ea.toNat (bytesOf (2 ^ lg) (s.rdS 2 t))
      let vector (i : Instr) (ea : W64) : Prop :=
        Within s ea.toNat 4096 7 → WritesScratch i s ea.toNat
          ((List.range 4096).map fun j => (Vec.el (s.rdV 2 t.toNat) (j / 4)).extractLsb' (8 * (j % 4)) 8)
      (∀ r ∈ spStoreRows, ∀ o : BitVec 10, scalar (r.op t a o g) (shortEa s a o (2 ^ r.lg)) r.lg) ∧
      (∀ r ∈ spStoreQRows, ∀ (c : BitVec 4) (sc : BitVec 3), scalar (r.op t a c sc g) (s.rdS 0 a) r.lg) ∧
      (∀ o : BitVec 10, vector (.stvSp t a o g) (shortEa s a o 128)) ∧
      (∀ (c : BitVec 4) (sc : BitVec 3), vector (.stvSpMq t a c sc g) (s.rdS 0 a))))

/-- R14, R21, R37, R249: where a scalar load or store fails its checks it takes ADDR with the reason of R14 (8 for an offset
outside the reservation), HANDLE, or ALIGN, in that order, and does nothing else. Model's choices: log entries 66 and 68. -/
def Obligations.AccessTraps : Prop :=
  ∀ (s : State) (t a : BitVec 5) (g : BitVec 5), s.guardOk g = true →
    (let traps (i : Instr) (cause reason : Nat) (v : Nat) : Prop :=
       exec i s = .next (s.trap s.focus ⟨cause, s.me.issA, BitVec.ofNat 64 (reason * 2 ^ 56 + v % 2 ^ 56)⟩)
     let global (i : Instr) (acc : Acc) (va : W64) (lg : Nat) : Prop :=
       (∀ r, s.xlate s.focus acc va.toNat (2 ^ lg) = .error r → traps i 3 r va.toNat) ∧
       (∀ x, s.xlate s.focus acc va.toNat (2 ^ lg) = .ok x → va.toNat % 2 ^ lg ≠ 0 → traps i 4 lg va.toNat)
     let local_ (i : Instr) (va : W64) (lg : Nat) : Prop :=
       (let o := va.toNat
        let lent := (s.core (s.focus / 4)).lentRow (s.me.task.getD 0) (o / 4096) ((o + 2 ^ lg - 1) / 4096 - o / 4096 + 1)
        let inside := o < 2 ^ 22 ∧ o + 2 ^ lg ≤ 4096 * (s.res s.focus).rows
        (¬ inside → traps i 3 8 o) ∧ (∀ h, inside → lent = some h → traps i 5 1 h) ∧
        (inside → lent = none → o % 2 ^ lg ≠ 0 → traps i 4 lg o))
     (∀ r ∈ loadRows, ∀ o : BitVec 10, global (r.op t a o g) .load (shortEa s a o (2 ^ r.lg)) r.lg) ∧
     (∀ r ∈ storeRows, ∀ o : BitVec 10, global (r.op t a o g) .store (shortEa s a o (2 ^ r.lg)) r.lg) ∧
     (∀ r ∈ loadQRows ++ acquireRows, ∀ (c : BitVec 4) (sc : BitVec 3) (h : BitVec 2),
       global (r.op t a c sc h g) .load (s.rdS 0 a) r.lg) ∧
     (∀ r ∈ storeQRows, ∀ (c : BitVec 4) (sc : BitVec 3) (h : BitVec 2), global (r.op t a c sc h g) .store (s.rdS 0 a) r.lg) ∧
     (∀ r ∈ spLoadRows ++ spStoreRows, ∀ o : BitVec 10, local_ (r.op t a o g) (shortEa s a o (2 ^ r.lg)) r.lg) ∧
     (∀ r ∈ spLoadQRows ++ spStoreQRows, ∀ (c : BitVec 4) (sc : BitVec 3), local_ (r.op t a c sc g) (s.rdS 0 a) r.lg))

/-! ### Gathers, scatters, atomics and ordering -/

namespace Sys2Proof.Says

/-- The elements a gather or scatter does not skip, in ascending order, and their addresses (R254). -/
def activeOf (s : State) (b : BitVec 5) : List Nat := (List.range 1024).filter fun e => Vec.el (s.rdV 1 b.toNat) e ≠ 0x80000000
def elemEa (s : State) (a b : BitVec 5) (e : Nat) : W64 := s.rdS 0 a + (Vec.el (s.rdV 1 b.toNat) e).signExtend 64

/-- The operations of R256 on n-bit patterns. -/
def atomValue {n : Nat} (o : BitVec 3) (old y : BitVec n) : BitVec n :=
  match o.toNat with
  | 0 => old + y
  | 1 => old &&& y
  | 2 => old ||| y
  | 3 => old ^^^ y
  | 4 => if y.slt old then y else old
  | 5 => if old.slt y then y else old
  | _ => y

/-- x is the little-endian word of n bits in the bytes (R5). -/
def IsWord {n : Nat} (x : BitVec n) (bs : List Byte) : Prop := ∀ j, j < n → x.getLsbD j = (nth 0 bs (j / 8)).getLsbD (j % 8)

/-- The bytes of an n-bit word (R5). -/
def wordBytes {n : Nat} (x : BitVec n) : List Byte := (List.range (n / 8)).map fun k => x.extractLsb' (8 * k) 8

/-- An atomic of this package's HBM4 that reads `old` at its home x and writes `new?`, if anything: the write performs there or the
instruction raises SHADOWFULL, the core's L1 forgets the line, and s[t] gets the old value, sign-extended (R82, R109, R256, R257). The
memory-side cache sees the access (R32). -/
def Swaps {n : Nat} (i : Instr) (s : State) (t : BitVec 5) (va : W64) (x : Xlate) (old : BitVec n) (new? : Option (BitVec n)) : Prop :=
  (let seen (w : Bool) : State := s.touch x.loc (n / 8) w x.ent.pol
   let gone (u : State) : State := u.updCore (s.focus / 4) fun c => c.cinvLine x.loc
   let ends (u : State) : Prop :=
     exec i s = .next (((gone u).noteInAt s.focus (s.opKey s.focus) (s.readHome x.loc (n / 8))).updMe fun P =>
       if t = 0 then P else P.issue (.s t.toNat (old.signExtend 64)) 0)
   (new? = none → ends (seen false)) ∧
   (∀ y h, new? = some y → (seen true).writeHome x.loc (wordBytes y) = some h →
     ends h ∧ (s.memWf → Wrote s h x.loc (wordBytes y))) ∧
   (∀ y, new? = some y → (seen true).writeHome x.loc (wordBytes y) = none →
     exec i s = .next (s.trap s.focus ⟨8, s.me.issA, BitVec.ofNat 64 (va.toNat / 128 * 128)⟩)))

end Sys2Proof.Says

/-- R254, R255: a gather or scatter over the elements whose index is not 0x80000000, each at its own address: the gather records
one read for each; the scatter withholds one store for each; on the scratchpad they perform at once. The first element in
ascending order that fails its check is the one whose trap is taken. Model's choices: log entries 52 and 57. -/
def Obligations.GathersAndScatters : Prop :=
  ∀ (s : State) (t a b : BitVec 5) (c : BitVec 4) (g : BitVec 5) (x : Nat → Xlate), s.guardOk g = true →
    (let act := activeOf s b
     let ea := elemEa s a b
     let lane (e : Nat) : List Byte := s.spReadAt s.focus (2 ^ 64 * (s.fresh + 1) + e) false (ea e).toNat 4
     let block (e : Nat) : Prop := (ea e).toNat / 4096 = (s.rdS 0 a).toNat / 4096
     ((∀ e ∈ act, Reaches s .load (ea e) 4 2 (x e) ∧ (x e).loc.addr % 4 = 0) →
       ∃ u, exec (.ldx t a b c g) s = .next u ∧ OnlyPart s u s.focus ∧
         (let ps : List Pend := act.map fun e => reading s (x e) (.v t.toNat) (ea e) 0 4 false c.toNat 1 0 false (some e)
          u.me = { s.me with pend := s.me.pend ++ ps })) ∧
     ((∀ e ∈ act, Reaches s .store (ea e) 4 2 (x e) ∧ (x e).loc.addr % 4 = 0 ∧ block e) →
       OnlyWithholds (.stx t a b c g) s
         (act.map fun e => .store (storing s (.v t.toNat) (x e) (ea e) 0 (wordBytes (Vec.el (s.rdV 2 t.toNat) e)) c.toNat 1 false 0))
         (act.map fun e => (ea e).toNat / 128).eraseDups.length) ∧
     ((∀ e ∈ act, Within s (ea e).toNat 4 2) → (∀ e ∈ act, (s.res s.focus).poisonAt false (ea e).toNat 4 = none) →
       ∃ v : Vec, v.length = 1024 ∧
         exec (.ldxSp t a b c g) s =
           .next (result (s.noteIn s.focus (act.flatMap fun e => lane e)) (.v t.toNat v) 16) ∧
         (∀ e ∈ act, IsWord (Vec.el v e) (lane e)) ∧
         (∀ e ∈ act, (s.res s.focus).views = [] → (s.res s.focus).sp.undef = [] →
           ∀ k, k < 4 → nth 0 (lane e) k = Mem.read (s.res s.focus).sp.cells ((ea e).toNat + k)) ∧
         ∀ e, e < 1024 → e ∉ act → Vec.el v e = Vec.el (s.rdV 2 t.toNat) e) ∧
     (∀ k, s.taskOn s.focus = some k → k.res.sp.cells.wf → (∀ e ∈ act, Within s (ea e).toNat 4 2 ∧ block e) →
       ∃ u, exec (.stxSp t a b c g) s = .next u ∧ { u with parts := s.parts, tasks := s.tasks } = s ∧
         (∀ q, q ≠ s.focus → u.part q = s.part q) ∧ (∀ id, s.me.task ≠ some id → u.task id = s.task id) ∧
         { u.me with journal := s.me.journal, trOut := s.me.trOut } = s.me ∧
         Journals s u s.focus (fun l => ∃ e ∈ act, (ea e).toNat / 128 = l) ∧
         (∀ e ∈ act, (∀ f ∈ act, e < f → ea f ≠ ea e) → ∀ j, j < 4 →
           Mem.read (u.res s.focus).sp.cells ((ea e).toNat + j) = (Vec.el (s.rdV 2 t.toNat) e).extractLsb' (8 * j) 8) ∧
         (∀ p, (∀ e ∈ act, p < (ea e).toNat ∨ (ea e).toNat + 4 ≤ p) →
           Mem.read (u.res s.focus).sp.cells p = Mem.read (s.res s.focus).sp.cells p)) ∧
     (∀ e ∈ act, ∀ tr,
       ((∀ f ∈ act, f < e → ∃ y, s.checkGlobal .load (ea f) 4 2 = .ok y) → s.checkGlobal .load (ea e) 4 2 = .error tr →
         exec (.ldx t a b c g) s = .next (s.trap s.focus tr)) ∧
       ((∀ f ∈ act, f < e → (∃ y, s.checkGlobal .store (ea f) 4 2 = .ok y) ∧ block f) →
         (s.checkGlobal .store (ea e) 4 2 = .error tr ∨
           ((∃ y, s.checkGlobal .store (ea e) 4 2 = .ok y) ∧ ¬ block e ∧
             tr = ⟨4, s.me.issA, BitVec.ofNat 64 (12 * 2 ^ 56 + (ea e).toNat % 2 ^ 56)⟩)) →
         exec (.stx t a b c g) s = .next (s.trap s.focus tr)) ∧
       ((∀ f ∈ act, f < e → ∃ y, s.checkSp (ea f) 4 2 = .ok y) → s.checkSp (ea e) 4 2 = .error tr →
         exec (.ldxSp t a b c g) s = .next (s.trap s.focus tr)) ∧
       ((∀ f ∈ act, f < e → (∃ y, s.checkSp (ea f) 4 2 = .ok y) ∧ block f) →
         (s.checkSp (ea e) 4 2 = .error tr ∨
           ((∃ y, s.checkSp (ea e) 4 2 = .ok y) ∧ ¬ block e ∧
             tr = ⟨4, s.me.issA, BitVec.ofNat 64 (12 * 2 ^ 56 + (ea e).toNat % 2 ^ 56)⟩)) →
         exec (.stxSp t a b c g) s = .next (s.trap s.focus tr))))

/-- R82, R256, R257: `atom` and `cas` on 32 and 64 bits: one indivisible read and write at the home; when the home is outside
the package the operation only records what it asks of that home. Model's choices: log entries 21 and 85. -/
def Obligations.Atomics : Prop :=
  ∀ (s : State) (t a : BitVec 5) (c : BitVec 4) (sc : BitVec 3) (g : BitVec 5) (x : Xlate), s.guardOk g = true →
    (let va := s.rdS 0 a
     let asks (i : Instr) (lg : Nat) (f : Rmw) : Prop :=
       Reaches s .atom va (2 ^ lg) lg x → s.localHome x.loc = false →
       exec i s = .next (s.updMe fun P =>
         let y : Pend := ⟨.s t.toNat, x.loc, 2 ^ lg, true, c.toNat, sc.toNat, x.ent.pol, false, s.me.sb.length, s.fresh, some f, none, va,
           s.opKey s.focus⟩
         { P with sealed := false, pend := P.pend ++ [y] })
     let low : Nat := (s.rdS 2 t).toNat % 2 ^ 32
     (∀ o : BitVec 3, asks (.atomW t a c sc o g) 2 (.atom o low)) ∧
     (∀ o : BitVec 3, asks (.atomD t a c sc o g) 3 (.atom o (s.rdS 2 t).toNat)) ∧
     asks (.casW t a c sc g) 2 (.cas low ((s.rdS 3 (t + 1)).toNat % 2 ^ 32)) ∧
     asks (.casD t a c sc g) 3 (.cas (s.rdS 2 t).toNat (s.rdS 3 (t + 1)).toNat) ∧
     (s.localHome x.loc = true → s.ans = none →
     (∀ old : BitVec 32, Reaches s .atom va 4 2 x → s.poisonedAt x.loc 4 = false → IsWord old (s.readHome x.loc 4) →
       (∀ o : BitVec 3, Swaps (.atomW t a c sc o g) s t va x old (some (atomValue o old ((s.rdS 2 t).setWidth 32)))) ∧
       Swaps (.casW t a c sc g) s t va x old
         (if old = (s.rdS 2 t).setWidth 32 then some ((s.rdS 3 (t + 1)).setWidth 32) else none)) ∧
     (∀ old : BitVec 64, Reaches s .atom va 8 3 x → s.poisonedAt x.loc 8 = false → IsWord old (s.readHome x.loc 8) →
       (∀ o : BitVec 3, Swaps (.atomD t a c sc o g) s t va x old (some (atomValue o old (s.rdS 2 t)))) ∧
       Swaps (.casD t a c sc g) s t va x old (if old = s.rdS 2 t then some (s.rdS 3 (t + 1)) else none))))

/-- R259, R260: `mwait` on this package's HBM4 returns at once with the word and status 0 when bit 63 of the word is set or its
low 56 bits have reached the target; otherwise it arms the partition's monitor and returns nothing yet. At a home outside that
can be reached it sends its request and arms the monitor. Model's choices: log entries 21 and 83. -/
def Obligations.MonitoredWait : Prop :=
  ∀ (s : State) (t a b : BitVec 5) (sc : BitVec 3) (g : BitVec 5) (x : Xlate) (w : W64), s.guardOk g = true →
    Reaches s .load (s.rdS 0 a) 8 3 x →
    (let waiting (u : State) : State := u.updMe fun P =>
       { P with regs := { P.regs with mon := some ⟨x.loc, s.rdS 0 a, (s.rdS 1 b).setWidth 56, t.toNat, sc.toNat, x.ent.pol⟩ } }
     (s.localHome x.loc = false → s.reachable x.loc = true →
       exec (.mwait t a b sc g) s = .next (waiting (s.sent x.loc .monitor))) ∧
     (s.localHome x.loc = true → s.ans = none → s.poisonedAt x.loc 8 = false → IsWord w (s.readHome x.loc 8) →
     (let met : Bool := w.getLsbD 63 || (s.rdS 1 b).toNat % 2 ^ 56 ≤ w.toNat % 2 ^ 56
     (met = true → ∃ u d1 d2, exec (.mwait t a b sc g) s = .next u ∧ u.mem = s.mem ∧ u.hostMem = s.hostMem ∧
       u.me.regs = { s.me.regs with mon := none } ∧ (∀ q, q ≠ s.focus → u.part q = s.part q) ∧
       u.me.flight = s.me.flight ++ (if t = 0 then [] else [⟨.s t.toNat w, s.me.issT, d1⟩]) ++
         [⟨.s (t.toNat + 1) 0, s.me.issT, d2⟩] ∧
       (2 ≤ sc.toNat → (u.core (s.focus / 4)).l1 = [])) ∧
     (met = false → exec (.mwait t a b sc g) s = .next (waiting (s.touch x.loc 8 false x.ent.pol))))))

/-- R78, R262 to R265: `fence`, whose bundle has waited for its masked reads, `prf`, `cinv`, `cinv.l`, `vjoin`, from which on no
older line of a view is read, and `ifence`; and what R72, R77, R78, R79 and R86 keep in order among the released stores of a
task. Model's choices: log entries 56, 57, 63, 75, 79, 86 and 99. -/
def Obligations.OrderingInstructions : Prop :=
  (∀ (s : State) (g : BitVec 5), s.guardOk g = true →
    (∀ (m : BitVec 16) (sc : BitVec 3),
      exec (.fence m sc g) s = .next (
        if m = 0 ∨ sc = 0 then s
        else
          let held (y : GStore) : GStore :=
            if some y.task = s.me.task ∧ m.getLsbD y.cls = true then
              { y with before := (m, s.rseq) :: y.before, inval := y.inval || 2 ≤ sc.toNat } else y
          let u : State := { s with released := s.released.map held }
          if 2 ≤ sc.toNat then u.updCore (s.focus / 4) fun c => { c with l1 := [], pf := [] } else u)) ∧
    (∀ (t a : BitVec 5) (h : BitVec 2), ∃ u, exec (.prf t a h g) s = .next u ∧
      (let msgs (v : State) : State := { v with ports := s.ports, lmsgs := s.lmsgs, routes := s.routes, outbox := s.outbox }
       { msgs u with cores := s.cores, msc := s.msc } = s ∧
       ((∀ k y, k ≤ t.toNat → s.xlate s.focus .load (((s.rdS 0 a).toNat / 128 * 128 + 128 * k) % 2 ^ 64) 128 = .ok y →
           s.localHome y.loc = true) → msgs u = u)) ∧
      (∀ k, k ≠ s.focus / 4 → u.core k = s.core k) ∧
      { u.core (s.focus / 4) with l1 := (s.core (s.focus / 4)).l1, pf := (s.core (s.focus / 4)).pf } = s.core (s.focus / 4)) ∧
    exec (.cinv g) s = .next (s.updCore (s.focus / 4) fun c => { c with l1 := [], pf := [] }) ∧
    (∀ a : BitVec 5,
      (∀ r, s.xlate s.focus ⟨false, false, false, false⟩ (s.rdS 0 a).toNat 1 = .error r → exec (.cinvL a g) s = .next s) ∧
      (∀ x, s.xlate s.focus ⟨false, false, false, false⟩ (s.rdS 0 a).toNat 1 = .ok x → ∃ u, exec (.cinvL a g) s = .next u ∧
        { u with cores := s.cores } = s ∧ (∀ k, k ≠ s.focus / 4 → u.core k = s.core k) ∧
        { u.core (s.focus / 4) with l1 := (s.core (s.focus / 4)).l1, pf := (s.core (s.focus / 4)).pf } = s.core (s.focus / 4) ∧
        (∀ e, e ∈ (u.core (s.focus / 4)).l1 ↔ e ∈ (s.core (s.focus / 4)).l1 ∧ e.holds x.loc = false) ∧
        (∀ l, l ∈ (u.core (s.focus / 4)).pf ↔ l ∈ (s.core (s.focus / 4)).pf ∧ sameLine x.loc l = false))) ∧
    (∃ u, exec (.vjoin g) s = .next u ∧ u = (s.updMe fun P => { P with regs := { P.regs with vj := s.fresh + 1 } }) ∧
      ((∀ e ∈ (s.res s.focus).views, e.tick ≤ s.fresh) → ∀ fr swz l,
        u.viewRead (u.res s.focus) u.me.regs.vj fr swz l = (s.res s.focus).sp.line fr l)) ∧
    exec (.ifence g) s = .next (s.updCore (s.focus / 4) fun c => { c with ic := [] })) ∧
  (∀ (s : State) (x y : GStore), x ∈ s.released → x.task = y.task → x.seq < y.seq →
    (y.rel = true ∨ (x.op ≠ y.op ∧ x.cls = y.cls ∧ (s.localHome x.loc = true ∨ s.localHome y.loc = true ∨ x.rel = true)) ∨
      (∃ a b, x.loc = .hbm a ∧ y.loc = .hbm b ∧ a < b + y.data.length ∧ b < a + x.data.length ∧ x.data ≠ [] ∧ y.data ≠ []) ∨
      ∃ f ∈ x.before, f.1.getLsbD y.cls = true ∧ f.2 ≤ y.seq) →
    s.storeReady y = false)

/-! ### Engine commands and queries -/

namespace Sys2Proof.Says

/-- `i` withholds one engine command and does nothing else to memory, to tasks, to released work or to the registers, but for the
answer `ans` in a scalar register and what `also` says of the state it leaves (R76, R266). -/
def Commands (i : Instr) (s : State) (kind : CmdKind) (cls scope : Nat) (ans : Option (BitVec 5 × W64)) (also : State → Prop) : Prop :=
  ∃ t pages, exec i s = .next t ∧ also t ∧
    t.me.sb = s.me.sb ++ [.cmd ⟨kind, s.focus, s.me.task.getD 0, s.asidOn s.focus, cls, scope, 0, s.me.regs.vj,
      (s.me.regs.acq.filter fun e => e.1 = cls).map Prod.snd, pages, false, [], [], [], 0, false⟩] ∧
    t.me.sbn = s.me.sbn + 1 ∧ { t.me.regs with loops := s.me.regs.loops } = s.me.regs ∧ t.me.rb = s.me.rb ∧ t.me.pend = s.me.pend ∧
    t.me.journal = s.me.journal ∧ t.mem = s.mem ∧ t.hostMem = s.hostMem ∧ t.tasks = s.tasks ∧ t.released = s.released ∧
    t.cmds = s.cmds ∧ (∀ q, q ≠ s.focus → t.part q = s.part q) ∧
    (match ans with
      | none => t.me.flight = s.me.flight
      | some (a, v) => ∃ due, t.me.flight = s.me.flight ++ if a = 0 then [] else [⟨.s a.toNat v, s.me.issT, due⟩])

/-- The descriptor of n bytes at scratchpad offset off passes its checks and holds the bytes bs (R266). -/
def Describes (s : State) (off : W64) (n lg : Nat) (bs : List Byte) : Prop :=
  Within s off.toNat n lg ∧ (s.res s.focus).poisonAt false off.toNat n = none ∧ bs = s.spRead s.focus false off.toNat n

/-- `i` answers x in s[a] and does nothing else (R120, R266): the value is recorded in a rerun. -/
def Answers (i : Instr) (s : State) (a : BitVec 5) (x : W64) : Prop :=
  exec i s = .next (resultS (s.noteIn s.focus (bytesOf 8 x)) a x 0)

/-- Field [lo, lo + n) of a word holds v (R2). -/
def Field (x : W64) (lo n v : Nat) : Prop := x.toNat / 2 ^ lo % 2 ^ n = v

end Sys2Proof.Says

/-- R76, R266, R272, R274, R275, R285: `stamp`, `ctarm.dis`, `ctset` and `evac` withhold one command with their class and scope.
R269, R270, R273: `copy` and `ctarm` read their descriptors at issue and withhold the command with every place resolved, when no
check of R266, R269, R270 and R273 fails. Model's choices: log entries 52, 66 and 68. -/
def Obligations.EngineCommands : Prop :=
  (∀ (s : State) (a b : BitVec 5) (c : BitVec 4) (sc : BitVec 3) (g : BitVec 5), s.guardOk g = true →
     (∀ (own : BitVec 1) (l : StampLoc), s.stampPlace 0 (own == 1) (s.rdS 0 a) = .ok l →
       Commands (.stamp a b c sc own g) s (.stamp l ((s.rdS 1 b).setWidth 56)) c.toNat sc.toNat none fun t => t.snaps = s.snaps) ∧
     (∀ n, (s.rdS 0 b).toNat = n → n < 2 ^ 14 →
       Commands (.ctarmDis b c sc g) s (.ctarmDis (n / 2 ^ 11) (n % 2 ^ 11)) c.toNat sc.toNat none (fun t => t.entries = s.entries) ∧
       Commands (.ctset b c sc g) s (.ctset (n / 2 ^ 11) (n % 2 ^ 11)) c.toNat sc.toNat none fun t => t.entries = s.entries) ∧
     ((s.rdS 0 a).toNat < 384 → (s.rdS 1 b).toNat < 324 →
       Commands (.evac a b c sc g) s (.evac (s.rdS 0 a).toNat (s.rdS 1 b).toNat) c.toNat sc.toNat none fun t => t.chart = s.chart)) ∧
  (∀ (s : State) (a b : BitVec 5) (c : BitVec 4) (sc : BitVec 3) (g : BitVec 5) (bs : List Byte), s.guardOk g = true →
     (∀ (runs : List (Place × Place)) (l : StampLoc), Describes s (s.rdS 0 a) 128 7 bs →
       (let r := CopyRaw.ofBytes bs
        r.resv = false → (s.feat0.getLsbD 0 = true ∨ (needsMxf4 r.sfmt = false ∧ needsMxf4 r.dfmt = false)) →
        r.legal = true →
        ((r.offsets r.ss).map fun x => s.place 0 r.ssp false (r.src.toNat + x) r.sizes.1 r.aligns.1 r.tile) =
          runs.map (fun y => (.ok y.1 : Except BadPlace Place)) →
        ((r.offsets r.ds).map fun x => s.place 1 r.dsp true (r.dst.toNat + x) r.sizes.2 r.aligns.2 r.tile) =
          runs.map (fun y => (.ok y.2 : Except BadPlace Place)) →
        s.stampPlace 2 r.stsp r.stamp = .ok l →
        Commands (.copy a b c sc g) s
          (.copy ⟨r.anchor, r.cb, r.dfmt, r.sfmt, r.op, r.tile, r.n0, runs.map fun y => (y.1.hinted r.hint, y.2.hinted r.hint)⟩ l ((s.rdS 1 b).setWidth 56)) c.toNat sc.toNat none
          fun t => t.snaps = s.snaps)) ∧
     (∀ (dest src : Option Place) (result cst sst : Option Spot) (n : Nat), Describes s (s.rdS 0 a) 384 7 bs →
       (s.rdS 1 b).toNat = n → n < 2 ^ 14 →
       (let w := descW bs 0
        let rx := w.getLsbD 0
        let tx := w.getLsbD 1
        let f : BitVec 4 := w.extractLsb' 4 4
        let op := (w.extractLsb' 2 2).toNat
        w.getLsbD 15 = false → w.extractLsb' 24 8 = 0 → ¬ (rx = true ∧ op = 3) → ((rx || tx) = true → f.toNat ≤ 2) →
        whenOn rx (s.place 0 1 true ((descW bs 8).toNat % 2 ^ 22 : Nat) 65536 12 false) = .ok dest →
        whenOn (rx && w.getLsbD 14) (s.globalPlace 1 true (descW bs 0x10) 17024 7) = .ok result →
        whenOn rx (s.globalPlace 2 true (descW bs 0x20) 8 3) = .ok cst →
        whenOn tx (s.place 3 (if (descW bs 0x38).getLsbD 0 then 1 else 0) false (descW bs 0x30).toNat (imageSize f) 7 false) = .ok src →
        whenOn tx (s.globalPlace 4 true (descW bs 0x40) 8 3) = .ok sst →
        Commands (.ctarm a b c sc g) s
          (.ctarm (n / 2 ^ 11) (n % 2 ^ 11)
            ⟨rx, tx, op, f, (w.extractLsb' 8 6).toNat + 1, (w.extractLsb' 16 8).toInt, (w.extractLsb' 32 32).toNat,
             (descW bs 8).toNat % 2 ^ 22, result, (descW bs 0x18).setWidth 48, cst, (descW bs 0x28).setWidth 56, src, sst,
             (descW bs 0x48).setWidth 56, armPeers bs⟩) c.toNat sc.toNat none fun t => t.entries = s.entries)))

/-- R278, R279: `hgive` and `htake` reserve the lowest free handle number of the core and answer it; `hgive.ret` and `htake.wd`
name an entry of the task's own. R281, R282: `snap` checks its range and arena page by page and answers the number it reserves,
or -1; `sacc` and `srej` name an open snapshot that is innermost, or one the engine will turn away. Model's choices: log entries
50 to 52. -/
def Obligations.HandleAndSnapshotCommands : Prop :=
  (∀ (s : State) (a b : BitVec 5) (c : BitVec 4) (sc : BitVec 3) (g : BitVec 5), s.guardOk g = true →
     (let k := s.focus / 4
      let tbl := (s.core k).handles
      let self := s.me.task.getD 0
      let reserved (h : Nat) (t : State) : Prop :=
        (∃ e, KMap.find (t.core k).handles h = some e ∧ e.resv = true ∧ e.owner = self) ∧
        (∀ n, n ≠ h → KMap.find (t.core k).handles n = KMap.find tbl n) ∧ (∀ n, n ≠ k → t.core n = s.core n)
      let lowest (h : Nat) : Prop := h < 64 ∧ KMap.find tbl h = none ∧ ∀ n, n < h → KMap.find tbl n ≠ none
      (∀ peer n r0 h, (s.rdS 0 b).toNat = peer * 2 ^ 56 + (n - 1) * 2 ^ 32 + r0 * 2 ^ 16 → peer < 8 → 1 ≤ n → n ≤ 1024 → r0 < 1024 →
        r0 + n ≤ (s.res s.focus).rows → (s.core k).lentRow self r0 n = none → peer ≠ k % 8 → lowest h →
        Commands (.hgive a b c sc g) s (.hgive h peer n r0) c.toNat sc.toNat (some (a, BitVec.ofNat 64 h)) (reserved h)) ∧
      (∀ h, lowest h →
        Commands (.htake a b c sc g) s
          (.htake h ((s.rdS 0 b).extractLsb' 56 3).toNat ((s.rdS 0 b).extractLsb' 48 6).toNat) c.toNat sc.toNat
          (some (a, BitVec.ofNat 64 h)) (reserved h)) ∧
      (∀ h e, ((s.rdS 0 b).extractLsb' 0 6).toNat = h → KMap.find tbl h = some e → e.resv = false → e.owner = self →
        (e.state = 3 → Commands (.hgiveRet b c sc g) s (.hgiveRet h) c.toNat sc.toNat none fun t => t.cores = s.cores) ∧
        (e.state = 1 → Commands (.htakeWd b c sc g) s (.htakeWd h) c.toNat sc.toNat none fun t => t.cores = s.cores)))) ∧
  (∀ (s : State) (a b : BitVec 5) (c : BitVec 4) (g : BitVec 5), s.guardOk g = true →
     (∀ (bs : List Byte) (range arena : List (Nat × Nat)) (stamp : Option Spot) (nest : Option Nat × Nat),
       Describes s (s.rdS 0 b) 64 6 bs →
       (let base := (descW bs 0).toNat
        let len := (descW bs 8).toNat
        let ar := (descW bs 0x10).toNat
        let w := descW bs 0x18
        let al := w.toNat % 2 ^ 32
        let d : SnapDesc := ⟨range, arena, al, stamp, (descW bs 0x28).setWidth 56⟩
        w.extractLsb' 32 31 = 0 → len % 128 = 0 → 128 ≤ len → len ≤ 2 ^ 39 → al ≠ 0 → base % 128 = 0 → ar % 128 = 0 →
        s.snapRuns false (pagesFrom base len) = .ok range → s.snapRuns true (pagesFrom ar (128 * al)) = .ok arena →
        whenOn (w.getLsbD 63) (s.globalPlace 0 true (descW bs 0x20) 8 3) = .ok stamp → s.nest d = .ok nest →
        Commands (.snap a b c g) s (.snap s.freeSnap d) c.toNat 5
          (some (a, match s.freeSnap with | some n => BitVec.ofNat 64 n | none => -1))
          fun t => (s.freeSnap = none → t.snaps = s.snaps) ∧
            ∀ n, s.freeSnap = some n → n < 256 ∧ KMap.find s.snaps n = none ∧ (∀ m, m < n → KMap.find s.snaps m ≠ none) ∧
              (∃ x, KMap.find t.snaps n = some x ∧ x.state = 1) ∧ ∀ m, m ≠ n → KMap.find t.snaps m = KMap.find s.snaps m)) ∧
     (∀ stamp : Option Spot, whenOn (b != 0) (s.globalPlace 0 true (s.rdS 1 b) 8 3) = .ok stamp →
       (let h := ((s.rdS 0 a).extractLsb' 0 8).toNat
        let mine : Prop := ∃ e, KMap.find s.snaps h = some e ∧ e.state = 2 ∧ e.asid = s.asidOn s.focus
        (mine → s.isInnermost h = true) →
          Commands (.sacc a b c g) s (.sacc h stamp ((s.rdS 0 a).extractLsb' 8 56)) c.toNat 5 none (fun t => t.snaps = s.snaps) ∧
          Commands (.srej a b c g) s (.srej h stamp ((s.rdS 0 a).extractLsb' 8 56)) c.toNat 5 none fun t => t.snaps = s.snaps)) ∧
     (∀ stamp : Option Spot, whenOn (b != 0) (s.globalPlace 0 true (s.rdS 1 b) 8 3) = .ok stamp →
       (let h := ((s.rdS 0 a).extractLsb' 0 8).toNat
        ∀ e, KMap.find s.snaps h = some e → e.state = 2 → e.asid = s.asidOn s.focus → s.isInnermost h = false →
          (exec (.sacc a b c g) s = .next (s.trap s.focus ⟨7, s.me.issA, BitVec.ofNat 64 (2 ^ 56 + h)⟩) ∧
           exec (.srej a b c g) s = .next (s.trap s.focus ⟨7, s.me.issA, BitVec.ofNat 64 (2 ^ 56 + h)⟩)))))

/-- R300, R301, R314: `grow` takes the budgets of its tasks from the issuer's balances; `bgadd` answers -2 for the issuer
itself, -1 when the balance does not cover the amount, and 0 otherwise, and takes the amount unless the task is a supervisor;
`enq` answers -2 for a queue it may not use, -1 for a full one (having asked the home of the queue's block, where that is
outside, for TAIL and HEAD), and otherwise the ticket, with the record in its ring slot and the slot's sequence word written.
Model's choices: log entries 60, 76 and 105. -/
def Obligations.BudgetCommands : Prop :=
  ∀ (s : State) (a b : BitVec 5) (g : BitVec 5), s.guardOk g = true →
    (let sat (x : Int) : Int := max (-2 ^ 47) (min (2 ^ 47 - 1) x)
     let budget (n : Nat) : Int := min (n : Int) (2 ^ 47 - 1)
     let amt := (s.rdS 1 b).toNat
     (∀ l, s.launchOn s.focus = some l → (s.rdS 0 b).toNat < 2 ^ 32 →
       (let n := (s.rdS 0 b).toNat
        let bi := n * budget l.record.bgi
        let bm := n * budget l.record.bgm
        Commands (.grow b g) s
          (.grow n bi bm (s.me.bgi - sat (s.me.bgi - bi)) (s.me.bgm - sat (s.me.bgm - bm))) 0 0 none fun t =>
          t.me.bgi = sat (s.me.bgi - bi) ∧ t.me.bgm = sat (s.me.bgm - bm) ∧ t.launches = s.launches)) ∧
     (∀ m : BitVec 1, amt < 2 ^ 47 →
       (let own := if m = 1 then s.me.bgm else s.me.bgi
        (s.rdS 0 a = s.me.task.getD 0 → exec (.bgadd a b m g) s = .next (resultS s a (-2) 0)) ∧
        (s.rdS 0 a ≠ s.me.task.getD 0 → s.isSup s.focus = false → own < amt → exec (.bgadd a b m g) s = .next (resultS s a (-1) 0)) ∧
        (s.rdS 0 a ≠ s.me.task.getD 0 → (s.isSup s.focus = true ∨ amt ≤ own) →
          Commands (.bgadd a b m g) s (.bgadd (s.rdS 0 a) (m == 1) amt (s.isSup s.focus)) 0 0 (some (a, 0)) fun t =>
            if s.isSup s.focus = true then t.me.bgi = s.me.bgi ∧ t.me.bgm = s.me.bgm
            else t.me.bgi = sat (s.me.bgi - if m = 1 then 0 else amt) ∧ t.me.bgm = sat (s.me.bgm - if m = 1 then amt else 0)))) ∧
     (∀ bs q, amt = q → q < 4096 → Describes s (s.rdS 0 a) 64 6 bs →
       ((Rec.ofBytes bs).sup = true → s.isSup s.focus = true) →
       (let u := s.noteIn s.focus bs
        let asid := s.qAsid q
        let blk := s.qBlock q
        let asked : State := u.mAsk asid [(blk, 8), (blk + 0x40, 8)]
        let answers (x : W64) (P : State → Prop) : Prop := ∃ t due, exec (.enq a b g) s = .next t ∧ P t ∧
          t.me.flight = s.me.flight ++ if a = 0 then [] else [⟨.s a.toNat x, s.me.issT, due⟩]
        ((s.qOn q = false ∨ s.qBytes q = true ∨ asid ≠ s.asidOn s.focus) →
          answers (-2) fun t => { t with parts := s.parts } = s) ∧
        (s.qOn q = true → s.qBytes q = false → asid = s.asidOn s.focus → s.mAble true asid blk 128 = true →
          ∀ tail head, asked.mWord asid blk = some tail → asked.mWord asid (blk + 0x40) = some head →
            (s.qSize q ≤ (tail + 2 ^ 64 - head) % 2 ^ 64 → answers (-1) fun t => { t with parts := asked.parts } = asked ∧
              t.mem = s.mem ∧ t.hostMem = s.hostMem ∧ ∀ p, p ≠ s.focus → t.part p = s.part p) ∧
            ((tail + 2 ^ 64 - head) % 2 ^ 64 < s.qSize q →
              (let at_ := s.qRing q + 64 * (tail % s.qSize q)
               let seq := blk + 0x80 + 8 * (tail % s.qSize q)
               ∀ u1 u2 u3, s.mAble false asid at_ 64 = true → s.mAble false asid seq 8 = true →
                 asked.mWrite asid blk (bytesOf 8 (BitVec.ofNat 64 (tail + 1))) = some u1 → u1.mWrite asid at_ bs = some u2 →
                 u2.mWrite asid seq (bytesOf 8 (BitVec.ofNat 64 tail)) = some u3 →
                 answers (BitVec.ofNat 64 tail) fun t => t.mem = u3.mem ∧ t.hostMem = u3.hostMem ∧
                   t.me.bgi = sat (s.me.bgi - (Rec.ofBytes bs).count * budget (Rec.ofBytes bs).bgi) ∧
                   t.me.bgm = sat (s.me.bgm - (Rec.ofBytes bs).count * budget (Rec.ofBytes bs).bgm)))))))

/-- R35, R280: `hqry` returns the entry s[b][5:0] of the issuing core's handle table in the format of R35, and 0 for a free or a
reserved entry. OWNP is the partition that runs the owning task; where none runs it, it is the number stored in the entry, which is the
model's choice (log entry 104). -/
def Obligations.HandleQuery : Prop :=
  ∀ (s : State) (a b : BitVec 5) (g : BitVec 5), s.guardOk g = true →
    (let entry := KMap.find (s.core (s.focus / 4)).handles ((s.rdS 0 b).toNat % 64)
     (entry = none → Answers (.hqry a b g) s a 0) ∧
     (∀ e, entry = some e → e.resv = true → Answers (.hqry a b g) s a 0) ∧
     (∀ e, entry = some e → e.resv = false → e.state < 4 → e.peer < 8 → e.peerh < 64 → 1 ≤ e.nrows → e.nrows ≤ 1024 →
       e.baserow < 1024 → e.ownp < 4 →
       ∃ x : W64, Answers (.hqry a b g) s a x ∧ Field x 61 3 e.state ∧ Field x 59 2 0 ∧ Field x 56 3 e.peer ∧ Field x 54 2 0 ∧
         Field x 48 6 e.peerh ∧ Field x 42 4 0 ∧ Field x 32 10 (e.nrows - 1) ∧ Field x 26 6 0 ∧ Field x 16 10 e.baserow ∧
         Field x 0 16 (e.owner.toNat % 2 ^ 16) ∧
         Field x 46 2 (match s.task e.owner with
           | some t => (match t.st with | .running p => p % 4 | _ => e.ownp)
           | none => e.ownp)))

/-- R38, R276, R283, R284: the words that `ctstat`, `ctstat.map`, `sstat` and `chartq` return. -/
def Obligations.EngineQueries : Prop :=
  ∀ (s : State) (a b : BitVec 5) (g : BitVec 5), s.guardOk g = true →
    (let n := (s.rdS 0 b).toNat
     (n < 2 ^ 14 →
       (let e := s.entry (n / 2 ^ 11) (n % 2 ^ 11)
        let other : Prop := e.asid ≠ none ∧ e.asid ≠ some (s.asidOn s.focus)
        (other → Answers (.ctstat a b 0 g) s a (BitVec.twoPow 64 56) ∧ Answers (.ctstat a b 1 g) s a 0) ∧
        (¬ other → Answers (.ctstat a b 1 g) s a e.bitmap ∧
          (e.rst < 4 → e.sst < 4 → e.count ≤ 64 → (∀ d ∈ e.desc, d.expect ≤ 64) → KMap.get 0 s.stray (n / 2 ^ 11) < 2 ^ 32 →
            let late : Prop := e.rst = 1 ∧ ∃ d, e.desc = some d ∧ 0 < d.deadline ∧ e.armedAt + 2250 * d.deadline ≤ s.cyc
            ∃ x : W64, Answers (.ctstat a b 0 g) s a x ∧ (late → Field x 62 2 3) ∧ (¬ late → Field x 62 2 e.rst) ∧ Field x 60 2 e.sst ∧ Field x 59 1 e.flag.toNat ∧
              Field x 58 1 e.dup.toNat ∧ Field x 57 1 e.sat.toNat ∧ Field x 47 10 0 ∧ Field x 40 7 e.count ∧
              (∀ d, e.desc = some d → Field x 33 7 d.expect) ∧ Field x 32 1 0 ∧
              Field x 0 32 (KMap.get 0 s.stray (n / 2 ^ 11)))))) ∧
     (∀ x, KMap.find s.snaps (n % 256) = some x →
       (x.asid ≠ s.asidOn s.focus → Answers (.sstat a b g) s a 0) ∧
       (x.asid = s.asidOn s.focus → x.state < 4 → x.level < 4 → (∀ p ∈ x.parent, p < 256) → x.used < 2 ^ 32 →
         ∃ v : W64, Answers (.sstat a b g) s a v ∧ Field v 62 2 (if s.closing (n % 256) x then 3 else x.state) ∧ Field v 60 2 x.level ∧
           Field v 59 1 x.parent.isSome.toNat ∧ Field v 56 3 0 ∧ (∀ p, x.parent = some p → Field v 48 8 p) ∧ Field v 32 16 0 ∧
           Field v 0 32 x.used)) ∧
     (KMap.find s.snaps (n % 256) = none → Answers (.sstat a b g) s a 0) ∧
     (∀ core idx, n = core * 2 ^ 16 + idx → core < 384 → idx < 324 →
       (let e := s.chartAt core idx
        e.state < 8 → e.logical < 128 → e.errs < 2 ^ 16 → e.cursor < 2 ^ 16 →
        ∃ v : W64, Answers (.chartq a b g) s a v ∧ Field v 60 4 (chartClass idx) ∧ Field v 57 3 e.state ∧
          Field v 55 2 (if idx < 36 then idx / 9 else 0) ∧ Field v 48 7 e.logical ∧
          Field v 41 7 (if idx < 36 then idx % 9 else if idx < 70 then idx - 36 else if idx < 87 then idx - 70
            else if idx < 167 then idx - 87 else if idx < 235 then idx - 167 else if idx < 300 then idx - 235
            else if idx < 308 then idx - 300 else idx - 308) ∧
          Field v 32 9 0 ∧ Field v 16 16 e.errs ∧ Field v 0 16 (if e.state = 1 then e.cursor else 0))))

/-! ### Matrix commands, rings and accumulator tiles -/

namespace Sys2Proof.Says

/-- The remaps of an interval that has written tile k: as before when one of k is open, and else one more, which keeps the old tile
with its undefined elements and its poisoned rows (R127). -/
def Remapped (s : State) (k : Nat) (rs : List Remap) : Prop :=
  ((∃ m ∈ s.me.remaps, m.tile = k) → rs = s.me.remaps) ∧
  ((∀ m ∈ s.me.remaps, m.tile ≠ k) → ∃ lost bad, rs = s.me.remaps ++ [⟨k, KMap.get accZero (s.res s.focus).tiles k, lost, bad⟩] ∧
    (∀ i j, i ≤ 64 → j ≤ 64 → (TileUndef { s.res s.focus with tundef := lost } k i j ↔ TileUndef (s.res s.focus) k i j)) ∧
    ∀ i, i ∈ bad ↔ (k, i) ∈ (s.res s.focus).tpoison)

/-- `i` only queues matrix command c, and opens the remap of the tile it writes. -/
def QueuesCommand (i : Instr) (s : State) (c : MxCmd) (tile : Option Nat) : Prop :=
  ∃ t, exec i s = .next t ∧ OnlyPart s t s.focus ∧
    { t.me with remaps := s.me.remaps } = { s.me with seq := s.me.seq + 1, mxq := s.me.mxq ++ [c] } ∧
    (tile = none → t.me.remaps = s.me.remaps) ∧ ∀ k, tile = some k → Remapped s k t.me.remaps

/-- Ring q is named in the task's mask; it has slots (R228, R229). -/
def RingNamed (s : State) (q : BitVec 4) : Prop := (s.res s.focus).rmask.getLsbD q.toNat = true
def RingReady (s : State) (q : BitVec 4) : Prop := RingNamed s q ∧ (s.ring s.focus q.toNat).nslots ≠ 0

/-- Tile t is named in the task's mask (R228). -/
def TileNamed (s : State) (t : BitVec 6) : Prop := (s.res s.focus).tmask.getLsbD t.toNat = true

/-- `i` raises RING with reason r for ring q; ADDR with reason 8 for tile t (R228, R234). -/
def RingError (i : Instr) (s : State) (r : Nat) (q : BitVec 4) : Prop :=
  exec i s = .next (s.trap s.focus ⟨6, s.me.issA, BitVec.ofNat 64 (r * 2 ^ 56 + q.toNat * 2 ^ 48)⟩)
def TileError (i : Instr) (s : State) (t : BitVec 6) : Prop :=
  exec i s = .next (s.trap s.focus ⟨3, s.me.issA, BitVec.ofNat 64 (8 * 2 ^ 56 + t.toNat * 2 ^ 16)⟩)

end Sys2Proof.Says

/-- R223, R228, R234 to R236, R239: a matrix command whose ring and tile are the task's enters the partition's queue with the
formats of the latch, and a product into a tile opens its remap; a ring outside the mask or without slots raises RING with
reason 1 or 2, and a tile outside the mask ADDR with reason 8. R227 to R230, R232 to R234, R240: `mxfmt` puts its value in line,
in force four bundles on; `mxwait` stalls what follows while an internal operation is left; `ringcfg` gives a ring its units,
slots and zero pointers; `ringst` returns the status word and clears INX, at once or when the earlier operations on the ring
have completed; `tld` and `tst` queue a tile operation. Model's choices: log entries 52, 54 and 59. -/
def Obligations.MatrixIssue : Prop :=
  (∀ (s : State) (g : BitVec 5) (t : BitVec 6) (q : BitVec 4) (p : BitVec 1) (v : BitVec 5), s.guardOk g = true →
     (let cmd (k : MxKind) (t q : Nat) (pop rep : Bool) (e : Nat) : MxCmd :=
        ⟨k, s.me.seq, s.opKey s.focus, t, q, pop, s.me.regs.fa, s.me.regs.fb, rep, e, s.me.issA, false, 0⟩
      (RingReady s q →
        QueuesCommand (.mxw q p g) s (cmd .mxw 0 q.toNat (p == 1) false 0) none ∧
        QueuesCommand (.mxdrv v q p g) s (cmd .mxdrv v.toNat q.toNat (p == 1) false 0) none ∧
        (TileNamed s t →
          QueuesCommand (.mxmac t q p g) s (cmd .mxmac t.toNat q.toNat (p == 1) false 0) (some t.toNat) ∧
          QueuesCommand (.mxmul t q p g) s (cmd .mxmul t.toNat q.toNat (p == 1) false 0) (some t.toNat)) ∧
        (¬ TileNamed s t → TileError (.mxmac t q p g) s t ∧ TileError (.mxmul t q p g) s t)) ∧
      (∀ (r : BitVec 1) (e : BitVec 5),
        (TileNamed s t → QueuesCommand (.mxchk t r e g) s (cmd .mxchk t.toNat 0 false (r == 1) e.toNat) none) ∧
        (¬ TileNamed s t → TileError (.mxchk t r e g) s t)) ∧
      (∀ i : Instr, i = .mxw q p g ∨ i = .mxdrv v q p g ∨ i = .mxmac t q p g ∨ i = .mxmul t q p g →
        (¬ RingNamed s q → RingError i s 1 q) ∧
        (RingNamed s q → (s.ring s.focus q.toNat).nslots = 0 → RingError i s 2 q)))) ∧
  (∀ (s : State) (g : BitVec 5) (q : BitVec 4), s.guardOk g = true →
     (let r := s.ring s.focus q.toNat
      (∀ (a b : BitVec 4) (w : BitVec 1),
        exec (.mxfmt a b w g) s =
          .next (s.updMe fun P => { P with regs := { P.regs with fmtq := P.regs.fmtq ++ [(a, b, w == 1, 0)] } }) ∧
        ∀ (x : Regs) (n : Nat), x.fmtq = [(a, b, w == 1, n)] →
          x.ageFmt = if n < 3 then { x with fmtq := [(a, b, w == 1, n + 1)] } else { x with fa := a, fb := b, w := w == 1, fmtq := [] }) ∧
      (exec (.mxwait g) s = .next (s.updMe fun P => { P with waitAll := true }) ∧
        ∀ (u : State) (p : Nat) (ops : List Instr), (u.part p).waitAll = true →
          ((u.part p).mxq ≠ [] ∨ (u.part p).tq ≠ [] ∨ (u.part p).rsq ≠ [] ∨ (u.part p).aq ≠ []) → u.stalls p ops = true) ∧
      (∀ (t n : BitVec 6) (z : BitVec 2), RingNamed s q →
        (let units := n.toNat + 1
         let fits : Prop := r.slots = [] ∧ t.toNat + units ≤ (s.res s.focus).units ∧
           ∀ e ∈ (s.res s.focus).rings, e.1 ≠ q.toNat → e.2.nslots ≠ 0 →
             t.toNat + units ≤ e.2.base ∨ e.2.base + e.2.nunits ≤ t.toNat
         (¬ fits → RingError (.ringcfg t q n z g) s 6 q) ∧
         (fits → ∃ u, exec (.ringcfg t q n z g) s = .next u ∧ { u with tasks := s.tasks } = s ∧
           (∀ id, s.me.task ≠ some id → u.task id = s.task id) ∧
           { u.res s.focus with rings := (s.res s.focus).rings } = s.res s.focus ∧
           u.ring s.focus q.toNat =
             ⟨t.toNat, units, z.toNat, min 256 (units * 8192 / (2048 * 2 ^ z.toNat)), 0, 0, 0, 0, false, []⟩ ∧
           ∀ k, k ≠ q.toNat → u.ring s.focus k = s.ring s.focus k))) ∧
      (∀ (t : BitVec 5) (c : BitVec 1), RingNamed s q →
        (s.me.ringBefore q.toNat s.me.seq = true → exec (.ringst t q c g) s = .next (s.updMe fun P =>
          { P with seq := P.seq + 1, rsq := P.rsq ++ [⟨t.toNat, q.toNat, c == 1, P.seq, s.opKey s.focus⟩] })) ∧
        (s.me.ringBefore q.toNat s.me.seq = false → ∃ u x, exec (.ringst t q c g) s = .next u ∧
          (∃ due, u.me.flight = s.me.flight ++ if t = 0 then [] else [⟨.s t.toNat x, s.me.issT, due⟩]) ∧
          u.me.regs = s.me.regs ∧ u.me.rsq = s.me.rsq ∧ u.mem = s.mem ∧ u.hostMem = s.hostMem ∧
          u.ring s.focus q.toNat = (if c = 1 then { r with inx := false } else r) ∧
          (∀ k, k ≠ q.toNat → u.ring s.focus k = s.ring s.focus k) ∧
          (r.head < 256 → r.tail < 256 → r.count ≤ 256 → r.nslots ≤ 256 → r.base < 64 → r.nunits ≤ 64 → r.sz < 4 →
            Field x 56 8 r.head ∧ Field x 48 8 r.tail ∧ Field x 39 9 r.count ∧ Field x 30 9 r.nslots ∧ Field x 24 6 r.base ∧
            Field x 17 7 r.nunits ∧ Field x 15 2 r.sz ∧ Field x 5 10 0 ∧ Field x 0 1 r.inx.toNat ∧
            Field x 1 4 (match r.head? with | some d => d.fmt.toNat | none => 15)))) ∧
      (∀ (a : BitVec 5) (x : BitVec 1) (f d : BitVec 4) (b p : BitVec 1), Within s (s.rdS 0 a).toNat (imageSize f) 7 →
        (RingReady s q →
          (let pending := (s.me.tq.filter fun o => !o.store && o.q = q.toNat).length
           let small : Prop := 2048 * 2 ^ r.sz < 64 * rowBytes d
           (small → RingError (.tld q a x f b d g) s 4 q) ∧
           (¬ small → r.nslots ≤ r.slots.length + pending → RingError (.tld q a x f b d g) s 5 q) ∧
           (¬ small → r.slots.length + pending < r.nslots → exec (.tld q a x f b d g) s = .next (s.updMe fun P =>
             { P with seq := P.seq + 1
                      tq := P.tq ++ [⟨false, P.seq, s.opKey s.focus, q.toNat, (s.rdS 0 a).toNat, x == 1, f, d, b == 1, false, P.issA, 0⟩] }))) ∧
          exec (.tst q a x f p g) s = .next (s.updMe fun P =>
             { P with seq := P.seq + 1
                      tq := P.tq ++ [⟨true, P.seq, s.opKey s.focus, q.toNat, (s.rdS 0 a).toNat, x == 1, f, f, false, p == 1, P.issA, 0⟩] })) ∧
        (¬ RingNamed s q → RingError (.tld q a x f b d g) s 1 q ∧ RingError (.tst q a x f p g) s 1 q) ∧
        (RingNamed s q → r.nslots = 0 → RingError (.tld q a x f b d g) s 2 q ∧ RingError (.tst q a x f p g) s 2 q)) ∧
      (¬ RingNamed s q → (∀ (t n : BitVec 6) (z : BitVec 2), RingError (.ringcfg t q n z g) s 1 q) ∧
        ∀ (t : BitVec 5) (c : BitVec 1), RingError (.ringst t q c g) s 1 q)))

namespace Sys2Proof.Says

/-- An A-slot operation on tile t that no earlier operation holds up, no poisoned row meets and no residue turns away (R243, R330,
R332). -/
def TileFree (s : State) (t : BitVec 6) : Prop :=
  TileNamed s t ∧ s.me.tileBusy t.toNat s.me.seq = false ∧ (∀ e ∈ (s.res s.focus).tpoison, e.1 ≠ t.toNat) ∧
  (s.acc s.focus t.toNat).length = 4225 ∧ s.me.residue = false

/-- `i` writes vector register v + k with the k-th function of the element and, when it writes its tile, element (i, j) of it with
`cell i j`; the other registers, tiles, tasks and partitions and all memory stay. In a rerun the words read and written are noted. -/
def ActsOnTile (i : Instr) (s : State) (t : BitVec 6) (v : Nat) (outs : List (Nat → W32)) (cell : Option (Nat → Nat → W32)) : Prop :=
  ∃ u, exec i s = .next u ∧ { u with parts := s.parts, tasks := s.tasks } = s ∧ (∀ q, q ≠ s.focus → u.part q = s.part q) ∧
    (∀ id, s.me.task ≠ some id → u.task id = s.task id) ∧
    { u.me with regs := s.me.regs, flight := s.me.flight, remaps := s.me.remaps, seq := s.me.seq, trIn := s.me.trIn
                trOut := s.me.trOut, rpoison := s.me.rpoison } = s.me ∧
    (∀ b, b ∈ u.me.rpoison ↔ b ∈ s.me.rpoison ∧ ∀ k, k < outs.length → b ≠ .v (v + k)) ∧
    { u.me.regs with v := s.me.regs.v } = s.me.regs ∧
    (∀ n, (n < v ∨ v + outs.length ≤ n) → nth [] u.me.regs.v n = nth [] s.me.regs.v n) ∧
    (∀ k f, outs[k]? = some f → ∀ e, e < 1024 → Vec.el (nth [] u.me.regs.v (v + k)) e = f e) ∧
    ((∀ x ∈ s.me.flight, ∀ k, k < outs.length → x.wr.reg? ≠ some (.v (v + k))) → u.me.flight = s.me.flight) ∧
    { u.res s.focus with tiles := (s.res s.focus).tiles, tpoison := (s.res s.focus).tpoison, tundef := (s.res s.focus).tundef } =
      s.res s.focus ∧
    (∀ k a b, k ≠ t.toNat → a ≤ 64 → b ≤ 64 → accEl (u.acc s.focus k) a b = accEl (s.acc s.focus k) a b ∧
      (TileUndef (u.res s.focus) k a b ↔ TileUndef (s.res s.focus) k a b)) ∧
    (∀ a b, a ≤ 64 → b ≤ 64 → TileUndef (u.res s.focus) t.toNat a b → TileUndef (s.res s.focus) t.toNat a b) ∧
    (∀ e, e ∈ (u.res s.focus).tpoison ↔ e ∈ (s.res s.focus).tpoison) ∧
    match cell with
    | none => u.acc s.focus t.toNat = s.acc s.focus t.toNat ∧ u.me.remaps = s.me.remaps
    | some c => Remapped s t.toNat u.me.remaps ∧ ∀ a b, a ≤ 64 → b ≤ 64 → accEl (u.acc s.focus t.toNat) a b = c a b

end Sys2Proof.Says

/-- R63, R127, R228, R243 to R245: an A-slot operation on a tile of the task that no earlier operation holds up performs at
once. `ald` reads and `ast` and `aadd` write 16 rows or 16 elements of column 64; `azero`, `ascl` and `acks` write the whole
tile; a tile outside the mask raises ADDR with reason 8, and a tile an earlier operation holds keeps the operation waiting.
R193, R246, R247: `acvt` packs 32 rows as bf16 pairs in the rounding mode of fn; `aadam` takes one optimiser step on 16 rows of
the gradient, writes the new weights and moments, and zeroes the rows it consumed when z says so. Model's choices: log entries
54 and 59. -/
def Obligations.Accumulators : Prop :=
  (∀ (s : State) (v : BitVec 5) (t : BitVec 6) (r : BitVec 7) (f : BitVec 2) (g : BitVec 5), s.guardOk g = true → f.toNat ≤ 1 →
     r.toNat ≤ 49 → v.toNat < s.me.regs.v.length →
     (let a (i j : Nat) : W32 := accEl (s.acc s.focus t.toNat) i j
      let x (e : Nat) : W32 := Vec.el (s.rdV 0 v.toNat) e
      let inRows (i j : Nat) : Prop := r.toNat ≤ i ∧ i < r.toNat + 16 ∧ (if f = 1 then j = 64 else j < 64)
      let src (i j : Nat) : W32 := x (64 * (i - r.toNat) + if f = 1 then 0 else j)
      (TileFree s t →
        ActsOnTile (.ald v t r f g) s t v.toNat
          [fun e => if f = 1 then (if e % 64 = 0 then a (r.toNat + e / 64) 64 else 0) else a (r.toNat + e / 64) (e % 64)] none ∧
        ActsOnTile (.ast v t r f g) s t 0 [] (some fun i j =>
          if inRows i j then src i j else a i j) ∧
        ActsOnTile (.aadd v t r f g) s t 0 [] (some fun i j =>
          if inRows i j then rne32 (FV.add (f32 (a i j)) (f32 (src i j))) else a i j) ∧
        ActsOnTile (.azero t g) s t 0 [] (some fun _ _ => 0) ∧
        ActsOnTile (.ascl v t g) s t 0 [] (some fun i j => rne32 (FV.mul (f32 (a i j)) (f32 ((s.rdS 0 v).extractLsb' 0 32)))) ∧
        ActsOnTile (.acks t g) s t 0 [] (some fun i j =>
          if i < 64 then (if j < 64 then a i j else rnd32 ((List.range 64).map fun k => f32 (a i k)))
          else if j < 64 then rnd32 ((List.range 64).map fun k => f32 (a k j))
          else rnd32 ((List.range 4096).map fun k => f32 (a (k / 64) (k % 64))))) ∧
      (∀ i ∈ [Instr.ald v t r f g, .ast v t r f g, .aadd v t r f g, .azero t g,
          .ascl v t g, .acks t g, .acvt v t r f g, .aadam v t r 0 g, .aadam v t r 1 g],
        (¬ TileNamed s t → TileError i s t) ∧
        (TileNamed s t → s.me.tileBusy t.toNat s.me.seq = true → ∃ u k, exec i s = .next u ∧
          u.me.aq = s.me.aq ++ [⟨k, t.toNat, s.me.seq, s.opKey s.focus, s.me.issA⟩] ∧ u.me.regs = s.me.regs ∧ u.me.flight = s.me.flight ∧
          { u with parts := s.parts } = s ∧ ∀ q, q ≠ s.focus → u.part q = s.part q)))) ∧
  (∀ (s : State) (v : BitVec 5) (t : BitVec 6) (r : BitVec 7) (g : BitVec 5), s.guardOk g = true → TileFree s t →
     (let a (i j : Nat) : W32 := accEl (s.acc s.focus t.toNat) i j
      (∀ f : BitVec 2, (r.toNat = 0 ∨ r.toNat = 32) → v.toNat < s.me.regs.v.length →
        (let bf (i j : Nat) : Nat := (roundTo .bf16 (RMode.of f) false (f32 (a i j))).enc % 2 ^ 16
         ActsOnTile (.acvt v t r f g) s t v.toNat
           [fun e =>
             let i := r.toNat + 2 * (e / 64) + e % 64 / 32
             BitVec.ofNat 32 (bf i (2 * (e % 32)) + 2 ^ 16 * bf i (2 * (e % 32) + 1))] none)) ∧
      (∀ z : BitVec 1, r.toNat ≤ 48 → v.toNat + 3 < s.me.regs.v.length →
        (let el (k e : Nat) : FV := f32 (Vec.el (s.rdV k (v.toNat + k)) e)
         let step (e : Nat) : FV × FV × FV :=
           adamStep (fun n => el 3 n) (f32 (a (r.toNat + e / 64) (e % 64))) (el 0 e) (el 1 e) (el 2 e)
         ActsOnTile (.aadam v t r z g) s t v.toNat
           [fun e => rne32 (step e).1, fun e => rne32 (step e).2.1, fun e => rne32 (step e).2.2]
           (if z = 1 then some fun i j => if r.toNat ≤ i ∧ i < r.toNat + 16 then 0 else a i j else none)))))

/-- R116, R118: an instruction of the scalar, vector and mask families that works on registers alone changes nothing but the results on
their way, and adds results only for its own destinations; `vquant` adds one more, which sets SAT or only holds
MXSTAT's window open. -/
def Obligations.RegisterFrame : Prop :=
  ∀ (i : Instr) (s t : State),
    (match i with
      | .sadd .. | .ssub .. | .smul .. | .smulh .. | .sdiv .. | .srem .. | .smin .. | .smax .. | .sand .. | .sor .. | .sxor ..
      | .sandn .. | .sshl .. | .sshr .. | .ssra .. | .srot .. | .saddSi .. | .smulSi .. | .sandSi .. | .sorSi .. | .sxorSi ..
      | .sminSi .. | .smaxSi .. | .sshlSi .. | .sshrSi .. | .ssraSi .. | .srotSi .. | .sclz .. | .sctz .. | .spopc .. | .sext ..
      | .sbfx .. | .sbfi .. | .smov .. | .smovi .. | .scmp .. | .scmpSi .. | .ssel .. | .pset .. | .sfadd .. | .sfmul .. | .sffma ..
      | .sfcvt .. | .sfcmp .. | .vaddF .. | .vsubF .. | .vmulF .. | .vfma .. | .vfnma .. | .vminF .. | .vmaxF .. | .vabsF ..
      | .vnegF .. | .vcmpF .. | .vaddI .. | .vsubI .. | .vmulI .. | .vminI .. | .vmaxI .. | .vminN .. | .vmaxN .. | .vabsI ..
      | .vnegI .. | .vcmpI .. | .vcmpN .. | .vand .. | .vor .. | .vxor .. | .vshl .. | .vshr .. | .vsra .. | .vsel .. | .vmov ..
      | .vmovs .. | .viota .. | .vcvt .. | .vcvtSat .. | .vpack .. | .vunpk .. | .vquant .. | .vrotr .. | .vbcr .. | .vredr ..
      | .vrotc .. | .vbcc .. | .vredc .. | .vpermc .. | .vext .. | .vins .. | .mlog .. | .mpop .. | .mset .. | .mmov .. | .vrcp ..
      | .vrsq .. | .vexp2 .. | .vlog2 .. => true
      | _ => false) = true →
    exec i s = .next t →
    OnlyPart s t s.focus ∧ { t.me with flight := s.me.flight } = s.me ∧ t.mem = s.mem ∧ t.hostMem = s.hostMem ∧
    ∃ new, t.me.flight = s.me.flight ++ new ∧ ∀ f ∈ new, f.iss = s.me.issT ∧
      ((∃ r ∈ i.dests, f.wr.reg? = some r) ∨ ((f.wr = .sat ∨ f.wr = .quant) ∧ match i with | .vquant .. => True | _ => False))

/-! ### Events of a partition -/

namespace Sys2Proof.Says

/-- Stores to a place go straight home: the memories are canonical, no snapshot is in use, the home can be reached, and no answer of
one outside is in hand (R69, R104, R362). -/
def Plain (s : State) (l : Loc) : Prop := s.memWf ∧ s.snaps = [] ∧ s.reachable l = true ∧ s.ans = none

/-- A stamp with a status and sequence number has been written at l (R92): the error bit stands when the status is not 0. -/
def Stamped (s t : State) (l : Loc) (status : Nat) (seq : BitVec 56) : Prop :=
  ∃ w : W64, Wrote s t l (wordBytes w) ∧ Field w 0 56 seq.toNat ∧ Field w 56 7 status ∧ w.getLsbD 63 = decide (status ≠ 0)

/-- `i` commits the open interval of partition p (R124): the registers are copied, every withheld store is released in pieces that keep
its bytes, place, class and kind, every withheld command is released, and nothing of the interval is left; no memory changes. -/
def CommitsInterval (i : Instr) (s : State) (p : Nat) : Prop :=
  ∃ t, exec i s = .next t ∧ t.mem = s.mem ∧ t.hostMem = s.hostMem ∧ (∀ q, q ≠ p → t.part q = s.part q) ∧
    (t.part p).dup = (t.part p).regs ∧ (t.part p).flight = [] ∧ (t.part p).sb = [] ∧ (t.part p).sbn = 0 ∧ (t.part p).journal = [] ∧
    (t.part p).remaps = [] ∧ (t.part p).nb = 0 ∧ (t.part p).datumAfter = false ∧ (t.part p).rb = (s.part p).rb ∧
    (t.part p).ringsD = (t.res p).rings ∧ (∀ e ∈ (t.res p).rings, e.2.popped = 0) ∧
    ((s.part p).flight = [] → (s.part p).regs.fmtq = [] → (t.part p).regs = (s.part p).regs) ∧
    (∀ y ∈ s.released, y ∈ t.released) ∧
    (∀ g, .store g ∈ (s.part p).sb → ∀ k, k < g.data.length → ∃ y ∈ t.released, ∃ o, y.loc = g.loc.add o ∧ o ≤ k ∧
      y.data[k - o]? = g.data[k]? ∧ y.task = g.task ∧ y.cls = g.cls ∧ y.rel = g.rel) ∧
    (∀ c, .cmd c ∈ (s.part p).sb → ∃ y ∈ t.cmds, y.kind = c.kind ∧ y.task = c.task ∧ y.cls = c.cls)

/-- `i` ends the wait of monitor m on partition p with word x (R259): s[t] gets the word and s[t+1] status 0. -/
def EndsWait (i : Instr) (s : State) (p : Nat) (m : Monitor) (x : W64) (also : State → Prop) : Prop :=
  ∃ t d1 d2, exec i s = .next t ∧ also t ∧ (∀ q, q ≠ p → t.part q = s.part q) ∧
    (t.part p).regs = { (s.part p).regs with mon := none } ∧
    (t.part p).flight = (s.part p).flight ++ (if m.t = 0 then [] else [⟨.s m.t x, (s.part p).issT, d1⟩]) ++
      [⟨.s (m.t + 1) 0, (s.part p).issT, d2⟩]

end Sys2Proof.Says

/-- R115, R116, R305: a bundle that needs no datum and no stall issues: its operations wait in slot order, the program counter
stands behind it, it counts in its interval, and its charges are taken from BGI. R123, R124, R130: a datum that stands at a
boundary, or that the limit on the bundles of an interval forces, commits when the partition waits for nothing and its checks
have found no fault. R134, R136, R308, R310, R321: a balance below zero latches EXH, and GRACE at zero with a balance below zero
the grace latch, each with a stop; a stop request is noted with its source, and a pre-emption request that R136 forbids changes
nothing; a stop that has met no datum within 4,136 cycles rolls the partition back and, when it is a pre-emption, saves the task
there with WHY 1. R259, R260: a waiting partition whose word in this package's HBM4 is read again returns when the word has bit
63 set or has reached the target, and waits on otherwise; an answer from another package or the host also shows what that home
now holds. R317, R377: a late fault stays with a task that does not run; a task that runs with no other late fault takes it as a
trap of its own cause at the next bundle. Model's choices: log entries 11, 21, 38, 45, 46, 48, 53, 64 and 100. -/
def Obligations.PartitionEvents : Prop :=
  (∀ (s : State) (p : Nat) (k : Task) (f : Fetched) (b : Bundle), p < 1536 →
     ∀ u : State, u = { s with focus := p } →
     u.taskOn p = some k → k.late = [] → (u.part p).ownBad = none → (u.part p).vane = false → (u.part p).vdiff = [] →
     (u.part p).held = none → (u.part p).rpoison = [] →
     (u.part p).exiting = none → (u.part p).stopAt = none → (u.part p).regs.mon = none → (u.part p).datumAfter = false → (u.part p).regs.pc.getLsbD 0 = false →
     u.fetch p (u.part p).regs.pc.toNat = .ok f → u.fetchPoison (u.part p).regs.pc.toNat f = none → hdrD f.hdr = false →
     decodeBundle (u.decEnv p) f.hdr f.words = .ok b → (∀ o ∈ b.ops, o.2.isDatumOp = false) →
     (∀ a : State, a = u.arm p (bundleLen f.hdr) (u.issueCycle p b.ops) →
       a.needsDatum p (b.ops.map Prod.snd) = false → a.stalls p (b.ops.map Prod.snd) = false →
       ∃ v, exec (.bundleIssue p) s = .next v ∧ v.focus = p ∧ v.slots = b.ops ∧ v.mem = s.mem ∧ v.hostMem = s.hostMem ∧
         (∀ q, q ≠ p → v.part q = s.part q) ∧ v.me.issA = (u.part p).regs.pc ∧ v.me.issLen = bundleLen f.hdr ∧
         v.me.regs.pc = (u.part p).regs.pc + BitVec.ofNat 64 (bundleLen f.hdr) ∧ v.me.nb = (u.part p).nb + 1 ∧
         v.me.regs.s = a.me.regs.s ∧ v.me.regs.v = a.me.regs.v ∧
         (b.ops ≠ [] → a.me.regs.cm = false →
           v.me.bgi = max (-2 ^ 47) (min (2 ^ 47 - 1) (a.me.bgi - ((b.ops.map fun o => a.me.regs.charge o.2).sum : Nat)))))) ∧
  (∀ (s : State) (p : Nat), (s.part p).task.isSome = true → (s.part p).pend = [] → (s.part p).mxq = [] → (s.part p).tq = [] →
     (s.part p).rsq = [] → (s.part p).aq = [] → (s.part p).regs.mon = none → (s.part p).vane = false → (s.part p).residue = false →
     (s.part p).rpoison = [] → (s.part p).rerun = none → (s.part p).stopAt = none → (s.part p).held = none → s.snaps = [] →
     ((s.part p).datumAfter = true → CommitsInterval (.datumCommit p) s p) ∧
     ((s.part p).datumAfter = false → 4096 ≤ (s.part p).nb → CommitsInterval (.bundleLimitDatum p) s p)) ∧
  (∀ (s : State) (p : Nat) (id : W64), (s.part p).task = some id →
     (let P := s.part p
      let stops (i : Instr) (Q : Part → Prop) : Prop :=
        ∃ t, exec i s = .next t ∧ OnlyPart s t p ∧ Q (t.part p) ∧
          { (t.part p).regs with loops := P.regs.loops } = P.regs ∧ (t.part p).flight = P.flight ∧ (t.part p).sb = P.sb ∧
          (∀ u, P.stopAt = some u → (t.part p).stopAt = some u) ∧ (t.part p).stopAt ≠ none
      (P.regs.cm = false → P.exh = false → (P.bgi < 0 ∨ P.bgm < 0) → stops (.budgetExhaustion p) fun Q => Q.exh = true ∧ Q.gl = P.gl) ∧
      (P.regs.cm = true → P.grace = 0 → P.gl = false → (P.bgi < 0 ∨ P.bgm < 0) →
        stops (.graceExhaustion p) fun Q => Q.gl = true ∧ Q.exh = P.exh) ∧
      (∀ (g : Bool) (r : BitVec 3), P.exiting = none →
        ((∀ l, s.launchOn p = some l → l.record.cls ≠ 2) → (P.lastRestore = false ∨ g = true) →
          stops (.stopRequest p (.preempt g)) fun Q => Q.preempt = true ∧ Q.relocate = P.relocate) ∧
        (P.lastRestore = true → exec (.stopRequest p (.preempt false)) s = .next s) ∧
        (∀ l, s.launchOn p = some l → l.record.cls = 2 → exec (.stopRequest p (.preempt g)) s = .next s) ∧
        stops (.stopRequest p (.relocate r)) fun Q => Q.relocate = some r.toNat ∧ Q.preempt = P.preempt) ∧
      (∀ u k, P.exiting = none → P.stopAt = some u → u + 4136 ≤ s.cyc → P.preempt = true → P.relocate = none → P.yieldD = false →
        s.ownPoison p = none →
        s.task id = some k → ∃ t x c, exec (.stopAbandon p) s = .next t ∧ (t.part p).task = none ∧ t.task id = some x ∧
          x.st = .saved ∧ x.why = 1 ∧ x.ctx = some c ∧ c.regs = P.dup ∧ ∀ q, q ≠ p → t.part q = s.part q))) ∧
  (∀ (s : State) (p : Nat) (m : Monitor) (x : W64), (s.part p).regs.mon = some m → (s.part p).dup.mon = none →
     (s.part p).task.isSome = true → s.ans = none → s.poisonedAt m.loc 8 = false →
     (let met : Bool := x.getLsbD 63 || m.target.toNat ≤ x.toNat % 2 ^ 56
      (s.localHome m.loc = true → IsWord x (s.readHome m.loc 8) →
        (met = true → EndsWait (.monitorWake p) s p m x fun t => t.mem = s.mem ∧ t.hostMem = s.hostMem) ∧
        (met = false → exec (.monitorWake p) s = .next (s.touch m.loc 8 false m.pol))) ∧
      (∀ i : Instr, s.memWf →
        ((∃ a, m.loc = .hbm a ∧ s.isOwn a = false) ∧ (i = .mwaitRemoteRecheck p x ∨ i = .wakeMessage p x) ∨
          (∃ a, m.loc = .host a) ∧ i = .mwaitHostPoll p x) →
        (met = true → EndsWait i s p m x fun t => Wrote s t m.loc (wordBytes x)) ∧
        (met = false → ∃ t, exec i s = .next t ∧ t.parts = s.parts ∧ Wrote s t m.loc (wordBytes x))))) ∧
  (∀ (s : State) (id : W64) (f : LateFault) (k : Task), s.task id = some k →
     ((∀ p, k.st ≠ .running p) → ∃ t, exec (.remoteFaultDelivery id f) s = .next t ∧ { t with tasks := s.tasks } = s ∧
       t.task id = some { k with late := k.late ++ [f] }) ∧
     (∀ p, k.st = .running p → (s.part p).task = some id → (s.part p).vane = false → (s.part p).exiting = none → (∀ u ∈ s.tasks, u.id = id → u.late = []) →
       ∃ u, OnlyPart s u p ∧ u.part p = s.part p ∧
         exec (.remoteFaultDelivery id f) s = .next (u.trap p
           (match f with
             | .shadowfull a => ⟨8, (s.part p).regs.pc, a⟩
             | .poison sp a => ⟨9, (s.part p).regs.pc, BitVec.ofNat 64 (sp.toNat * 2 ^ 56 + a.toNat)⟩
             | .handle h => ⟨5, (s.part p).regs.pc, BitVec.ofNat 64 (7 * 2 ^ 56 + h.toNat)⟩))))

/-! ### Events of the matrix engine -/

/-- R197, R223 to R225: the engine takes the command its round-robin points at; an `mxw` or `mxchk` starts, and a product puts
its 64 by 64 dot products, each rounded once, into the drain buffer; a sum of integer terms has no −0. R198, R223, R236, R237: a
drain buffer that passes every row and column test goes to its destination: `mxmul` replaces the tile, `mxmac` adds into it with
one rounding, `mxdrv` writes four vector registers; the command retires and pops its ring when it says so. R224, R235, R239: the
load of an `mxw` makes the head slot the current stationary buffer and pops the slot when it says so; an `mxchk` whose tile
passes retires and leaves the tile, and one that fails with the reporting form sets CKF. R22, R57, R58, R126, R232, R233: a
`tld` whose image passes its verification fills the tail slot with the converted tile; a `tst` writes the image of the head slot
in the swizzled view, journaled, and pops the slot when it says so. Model's choices: log entries 1, 54, 59 and 74. -/
def Obligations.MatrixEvents : Prop :=
  (∀ (s : State) (k p : Nat) (c : MxCmd) (a : TileData), s.nextFront k = some p → (s.part p).mxq.head? = some c →
     (let starts (also : State → Prop) : Prop :=
        ∃ t, exec (.matrixCommandStart k) s = .next t ∧ also t ∧ (t.core k).rr = p % 4 ∧
          (t.part p).mxq = { c with started := true } :: (s.part p).mxq.drop 1 ∧ (t.part p).regs = (s.part p).regs ∧
          t.tasks = s.tasks ∧ t.mem = s.mem ∧ ∀ q, q ≠ p → t.part q = s.part q
      let mx (f : BitVec 4) : Prop := f = 6 ∨ f = 7 ∨ f = 8
      (c.kind = .mxchk → starts fun t => (t.core k).drain = (s.core k).drain) ∧
      (s.headTile p c.q = some a → a.poison = false → a.fmt = c.fb → (mx a.fmt → a.cb = true) → c.kind = .mxw →
        starts fun t => (t.core k).drain = (s.core k).drain) ∧
      (∀ b, s.headTile p c.q = some a → ((s.res p).stat).current = some b → a.poison = false → b.poison = false →
        a.fmt = c.fa → b.fmt = c.fb → (mx a.fmt → a.cb = false) → (mx b.fmt → b.cb = true) → (s.core k).flips = [] →
        (c.kind = .mxmac → ∀ e ∈ (s.res p).tpoison, e.1 ≠ c.t) → (c.kind = .mxmac ∨ c.kind = .mxmul ∨ c.kind = .mxdrv) →
        starts fun t => ∃ d, (t.core k).drain = some d ∧ d.part = p ∧ d.d.length = 4225 ∧
          ∀ i j, i < 64 → j < 64 →
            (let v := dotExact ((List.range 64).map fun n => a.value i n) ((List.range 64).map fun n => b.value n j)
             dAt d.d i j = .f (rne32 (if isIntFmt a.fmt && v.isZero then .fin false 0 0 else v)))))) ∧
  (∀ (s : State) (k : Nat) (d : Drain) (c : MxCmd) (x : Task), s.draining k = some d → (s.part d.part).front = some c →
     s.taskOn d.part = some x → d.d.length = 4225 → (c.kind = .mxmac → ∀ e ∈ (s.res d.part).tpoison, e.1 ≠ c.t) →
     (let v := drainCheck (pairTol c.fa c.fb) fun i j => (dAt d.d i j).val
      v.fr = [] → v.fc = [] →
      ∃ t, exec (.drainCheck k) s = .next t ∧ (t.part d.part).mxq = (s.part d.part).mxq.drop 1 ∧ (t.core k).drain = none ∧
        (∀ q, q ≠ d.part → t.part q = s.part q) ∧ t.mem = s.mem ∧ t.hostMem = s.hostMem ∧
        (c.kind = .mxmul → ∀ i j, i ≤ 64 → j ≤ 64 → accEl (t.acc d.part c.t) i j = (dAt d.d i j).out) ∧
        (c.kind = .mxmac → (s.acc d.part c.t).length = 4225 → ∀ i j, i ≤ 64 → j ≤ 64 →
          accEl (t.acc d.part c.t) i j = rne32 (FV.add (f32 (accEl (s.acc d.part c.t) i j)) (dAt d.d i j).val)) ∧
        (c.kind = .mxdrv → c.t + 4 ≤ (s.part d.part).regs.v.length →
          (∀ n e, n < 4 → e < 1024 →
            Vec.el (nth [] (t.part d.part).regs.v (c.t + n)) e = (dAt d.d (16 * n + e / 64) (e % 64)).out) ∧
          ∀ n, n < c.t ∨ c.t + 4 ≤ n → nth [] (t.part d.part).regs.v n = nth [] (s.part d.part).regs.v n) ∧
        t.ring d.part c.q =
          (let r := s.ring d.part c.q
           if c.pop = true then { r with head := (r.head + 1) % max 1 r.nslots, count := r.count - 1, popped := r.popped + 1 } else r))) ∧
  (∀ (s : State) (p : Nat) (c : MxCmd) (x : Task), (s.part p).mxq.head? = some c → c.started = true → s.taskOn p = some x →
     (∀ a, c.kind = .mxw → s.headTile p c.q = some a →
       ∃ t, exec (.mxwLoadComplete p) s = .next t ∧ (t.part p).mxq = (s.part p).mxq.drop 1 ∧ ((t.res p).stat).current = some a ∧
         ((t.res p).stat).loaded = true ∧ (t.part p).regs = (s.part p).regs ∧ t.mem = s.mem ∧
         (∀ b, ((s.res p).stat).current = some b → (t.res p).stat.b0 = some b ∨ (t.res p).stat.b1 = some b) ∧
         (t.ring p c.q).head = (if c.pop = true then ((s.ring p c.q).head + 1) % max 1 (s.ring p c.q).nslots else (s.ring p c.q).head)) ∧
     (c.kind = .mxchk → (∀ e ∈ (s.res p).tpoison, e.1 ≠ c.t) →
       (let v := drainCheck (some c.e) fun i j => f32 (accEl (s.acc p c.t) i j)
        ((v.fr = [] ∧ v.fc = []) ∨ c.rep = true →
          ∃ t, exec (.mxchkComplete p) s = .next t ∧ (t.part p).mxq = (s.part p).mxq.drop 1 ∧ t.tasks = s.tasks ∧ t.mem = s.mem ∧
            (t.part p).regs.mxstat = (s.part p).regs.mxstat ||| (if v.nc then bitNC else 0) |||
              (if v.fr = [] ∧ v.fc = [] then 0 else bitCKF) ∧
            { (t.part p).regs with mxstat := (s.part p).regs.mxstat } = (s.part p).regs)))) ∧
  (∀ (s : State) (p : Nat) (o : TileOp) (rest : List TileOp) (k : Task), (s.part p).tq = o :: rest → s.tileReady p 0 = true →
     s.taskOn p = some k → (s.part p).residue = false →
     (let r := s.ring p o.q
      let img := TileData.ofImage o.f o.cb (s.spRead p true o.off (imageSize o.f)) false
      (o.store = false → (s.res p).poisonAt true o.off (imageSize o.f) = none → testsPass img.tests = true →
        ∃ t, exec (.tldComplete p) s = .next t ∧ (t.part p).tq = rest ∧ t.mem = s.mem ∧
          t.ring p o.q =
            { r with slots := KMap.set r.slots r.tail ⟨(o.convert img).1, true, false⟩, tail := (r.tail + 1) % max 1 r.nslots
                     count := r.count + 1, inx := r.inx || (o.convert img).2.1 } ∧
          (o.tr = false → o.fd = o.f → (o.convert img).1 = img) ∧
          { t.res p with rings := (s.res p).rings } = s.res p ∧ (t.part p).flight = (s.part p).flight ∧
          { (t.part p).regs with mxstat := (s.part p).regs.mxstat } = (s.part p).regs) ∧
      (∀ a, o.store = true → o.tr = false → s.headTile p o.q = some a → a.fmt = o.f → a.poison = false → k.res.sp.cells.wf →
        ∃ t, exec (.tstComplete p) s = .next t ∧ (t.part p).tq = rest ∧ t.mem = s.mem ∧ (t.part p).regs = (s.part p).regs ∧
          (∀ n, n < a.image.length →
            Mem.read (t.res p).sp.cells (128 * viewLine true ((o.off + n) / 128) + (o.off + n) % 128) = nth 0 a.image n) ∧
          (∀ q, (∀ n, n < a.image.length → q ≠ 128 * viewLine true ((o.off + n) / 128) + (o.off + n) % 128) →
            Mem.read (t.res p).sp.cells q = Mem.read (s.res p).sp.cells q) ∧
          Journals s t p (fun l => ∃ n, n < a.image.length ∧ viewLine true ((o.off + n) / 128) = l) ∧
          (t.ring p o.q).head = (if o.pop = true then (r.head + 1) % max 1 r.nslots else r.head))))

/-! ### Events of the engines -/

namespace Sys2Proof.Says

/-- v placed on the grid of anchor A: its tag and, when it is finite, v * 2^(64 - A) rounded to the nearest integer, ties to even (R203). -/
def OnTheGrid (A : Int) (v : FV) (tag : Nat) (g : Int) : Prop :=
  match v with
  | .nan => tag = 3
  | .inf neg => tag = if neg = true then 2 else 1
  | .fin neg m e =>
    tag = 0 ∧
    (let k := e + 64 - A
     let x : Int := if neg = true then -(m : Int) else m
     (0 ≤ k → g = x * 2 ^ k.toNat) ∧
     (k < 0 →
       (let D : Int := 2 ^ (-k).toNat
        2 * (g * D - x) ≤ D ∧ 2 * (x - g * D) ≤ D ∧ ((2 * (g * D - x) = D ∨ 2 * (x - g * D) = D) → g % 2 = 0))))

/-- An integer saturated to the range of VAL (R64). -/
def toVal (x : Int) : Int := max (-2 ^ 95) (min (2 ^ 95 - 1) x)

/-- Element `new` is `old` with v added (op 1), or the larger (op 2) or smaller (op 3) of the two, v taken whole when it is the first to
arrive (R203, R204). A first arrival that is not finite leaves VAL open, since its tag says that VAL is ignored (R65). -/
def Combines (op : Nat) (A : Int) (first : Prop) (v : FV) (old new : Fixed) : Prop :=
  ∃ tag g, OnTheGrid A v tag g ∧
    (let beyond (x : Int) : Bool := decide (x < -2 ^ 95 ∨ 2 ^ 95 - 1 < x)
     let either (n : Nat) : Prop := old.tag = n ∨ tag = n
     (op = 1 →
       (either 3 → new.tag = 3) ∧ (old.tag = 0 → new.tag = tag) ∧ (tag = 0 → new.tag = old.tag) ∧
       (old.tag ≠ 0 → tag ≠ 0 → old.tag ≠ tag → new.tag = 3) ∧ (old.tag = tag → new.tag = tag) ∧
       (tag = 0 → new.val = toVal (old.val + g) ∧ new.sat = (old.sat || beyond (old.val + g))) ∧
       (tag ≠ 0 → new.val = old.val ∧ new.sat = old.sat)) ∧
     (op = 2 ∨ op = 3 →
       (tag = 0 → new.sat = (old.sat || beyond g)) ∧ (tag ≠ 0 → new.sat = old.sat) ∧
       (first → new.tag = tag ∧ (tag = 0 → new.val = toVal g)) ∧
       (¬ first →
         (either 3 → new.tag = 3) ∧
         (¬ either 3 →
           (let high := if op = 2 then 1 else 2
            let low := if op = 2 then 2 else 1
            (either high → new.tag = high) ∧ (¬ either high → either 0 → new.tag = 0) ∧
            (old.tag = low → tag = low → new.tag = low))) ∧
         (tag = 0 → new.val = if op = 2 then max old.val (toVal g) else min old.val (toVal g)) ∧ (tag ≠ 0 → new.val = old.val))))

/-- y is element f read out to fp32 with anchor A (R205). -/
def ReadsOut (A : Int) (f : Fixed) (y : W32) : Prop :=
  (f.tag = 1 → y = 0x7F800000) ∧ (f.tag = 2 → y = 0xFF800000) ∧ (f.tag = 3 → y = 0x7FC00000) ∧
  (f.tag = 0 → y.toNat = rne .fp32 (.fin (decide (f.val < 0)) f.val.natAbs (A - 64)) % 2 ^ 32)

/-- The element at byte a of a reservation is f, as R64 lays it out. -/
def ElementAt (st : Store) (a : Nat) (f : Fixed) : Prop :=
  ∃ x : BitVec 128, IsWord x ((List.range 16).map fun k => Mem.read st.cells (a + k)) ∧ f.val = (x.extractLsb' 0 96).toInt ∧
    f.tag = (x.extractLsb' 96 2).toNat ∧ f.sat = x.getLsbD 98

/-- A reservation that an engine reads without a choice: nothing in it is undefined or poisoned, and no other view of a line stands. -/
def Clear (r : Resident) : Prop := r.views = [] ∧ r.sp.undef = [] ∧ r.sp.poison = [] ∧ r.sp.cells.wf

/-- The values that field of width w and format f gives, element e of a run of bytes (R270). -/
def sourceValue (f : BitVec 4) (bs : List Byte) (e : Nat) : FV :=
  (fmtOf f).value (leNat ((bs.drop (elemBytes f * e)).take (elemBytes f)))

/-- Nothing has come to the element at byte a since the zeros there were stored (R204; log entry 91). -/
def Untouched (r : Resident) (a : Nat) (f : Fixed) : Prop := f = ⟨0, 0, false⟩ ∧ a / 16 ∉ r.took

end Sys2Proof.Says

/-- R57, R58, R92 to R94, R193, R196, R203 to R205, R268, R270, R272, R334: a copy that may go on performs the first run it has
not performed: a run of bytes writes at its destination what stood at its source; a run with OP 1 to 3 combines its source's
values into the elements at its destination, and one with OP 4 writes what its source's elements read out to; a tile image that
passes its verification is written as it stands, or converted, and one that fails each time it is read writes nothing and notes
CHECK; a finished copy and a `stamp` write their stamps. A source outside the task's reservation lies in this package or in host
memory, and no answer from outside is in hand. Model's choices: log entries 21, 44, 69, 75, 83, 91, 92, 98 and 101. -/
def Obligations.CopiesAndStamps : Prop :=
  ∀ (s : State) (k : Nat) (c : Cmd), s.cmds[k]? = some c → s.pinsHeld c = true → s.heldBy c = false →
    (∀ d st seq r src dst ps pd, c.kind = .copy d st seq → c.done = false → c.prog = [] → (∀ x ∈ d.runs, s.placeStands x.1 = true ∧
      s.placeStands x.2 = true) → d.runs[r]? = some (.glob src ps, .glob dst pd) → r ∉ c.did → (∀ q, q < r → q ∈ c.did) →
      s.mem.poison = [] → s.hostMem.poison = [] → s.mem.undef = [] → s.hostMem.undef = [] → s.reachable src = true → s.ans = none →
      (s.localHome src = true ∨ ∃ b, src = .host b) →
      (let next (status : Nat) (t : State) : Prop := ∃ c', t.cmds[k]? = some c' ∧ c'.did = c.did ++ [r] ∧
         c'.status = (if c.status = 0 then status else c.status) ∧ c'.done = decide (d.runs.length ≤ c.did.length + 1) ∧
         c'.kind = c.kind
       (d.tile = false → d.op = 0 → 0 < d.n0 → Plain s dst → s.wayOpen dst = true →
         ∃ t, exec (.copyExecute ⟨k, none⟩) s = .next t ∧ Wrote s t dst (s.readHome src d.n0) ∧ next 0 t) ∧
       (d.tile = true → Plain s dst → s.wayOpen dst = true →
         (let img := TileData.ofImage d.sfmt d.cb (s.readHome src (imageSize d.sfmt)) false
          testsPass img.tests = true →
          ∃ t, exec (.copyExecute ⟨k, none⟩) s = .next t ∧ next 0 t ∧
            Wrote s t dst (if d.sfmt = d.dfmt then s.readHome src (imageSize d.sfmt) else (img.recode d.dfmt d.cb).1.image))) ∧
       (d.tile = true → s.regs.logq.getLsbD 63 = false →
         testsPass (TileData.ofImage d.sfmt d.cb (s.readHome src (imageSize d.sfmt)) false).tests = false →
         ∃ t, exec (.copyExecute ⟨k, none⟩) s = .next t ∧ SameBytes s t ∧ next 2 t))) ∧
    (∀ d st seq r far id off pol, c.kind = .copy d st seq → c.done = false → c.prog = [] → (∀ x ∈ d.runs, s.placeStands x.1 = true ∧
      s.placeStands x.2 = true) → r ∉ c.did → (∀ q, q < r → q ∈ c.did) → d.tile = false → 0 < d.n0 →
      s.mem.poison = [] → s.hostMem.poison = [] → s.mem.undef = [] → s.hostMem.undef = [] → s.ans = none →
      (s.task id).isSome = true → Clear (s.resOf id) →
      (let next (t : State) : Prop := ∃ c', t.cmds[k]? = some c' ∧ c'.did = c.did ++ [r] ∧ c'.status = c.status ∧
         c'.done = decide (d.runs.length ≤ c.did.length + 1) ∧ c'.kind = c.kind
       (d.runs[r]? = some (.glob far pol, .sp id off) → s.tentative (.sp id off) (16 * d.n0) = false → off % 16 = 0 →
         (d.op = 1 ∨ d.op = 2 ∨ d.op = 3) → (d.sfmt.toNat ≤ 4 ∨ d.sfmt = 9 ∨ d.sfmt = 11 ∨ d.sfmt = 13) → s.reachable far = true →
         (s.localHome far = true ∨ ∃ b, far = .host b) →
         ∃ t, exec (.copyExecute ⟨k, none⟩) s = .next t ∧ next t ∧ SameBytes s t ∧
           (∀ e f, e < d.n0 → ElementAt (s.resOf id).sp (off + 16 * e) f → ∃ f', ElementAt (t.resOf id).sp (off + 16 * e) f' ∧
             Combines d.op d.anchor (Untouched (s.resOf id) (off + 16 * e) f)
               (sourceValue d.sfmt (s.readHome far (elemBytes d.sfmt * d.n0)) e) f f') ∧
           ∀ a, (a < off ∨ off + 16 * d.n0 ≤ a) → Mem.read (t.resOf id).sp.cells a = Mem.read (s.resOf id).sp.cells a) ∧
       (d.runs[r]? = some (.sp id off, .glob far pol) → s.tentative (.sp id off) (16 * d.n0) = false → d.op = 4 → Plain s far →
         s.wayOpen far = true →
         ∃ (t : State) (ys : List W32), exec (.copyExecute ⟨k, none⟩) s = .next t ∧ next t ∧ ys.length = d.n0 ∧ Wrote s t far (ys.flatMap wordBytes) ∧
           ∀ e f, e < d.n0 → ElementAt (s.resOf id).sp (off + 16 * e) f → ∃ y, ys[e]? = some y ∧ ReadsOut d.anchor f y))) ∧
    (∀ d l pol seq, c.kind = .copy d (.global ⟨l, pol⟩) seq → c.done = true → c.slots = [] → s.stampsBefore c = false →
      c.status < 128 → Plain s l → s.wayOpen l = true →
      ∃ t, exec (.copyStamp k) s = .next t ∧ t.cmds = s.cmds.eraseIdx k ∧ Stamped s t l c.status seq) ∧
    (∀ l pol seq, c.kind = .stamp (.global ⟨l, pol⟩) seq → s.stampsBefore c = false → Plain s l → s.wayOpen l = true →
      ∃ t, exec (.stampWrite k) s = .next t ∧ t.cmds = s.cmds.eraseIdx k ∧ Stamped s t l 0 seq)

/-- R96, R97, R102, R274, R275: `ctarm` arms a free entry of its own address space with empty counts and a zeroed destination,
firing at once when the send flag stands, or ends BUSY; `ctarm.dis` returns both sides to IDLE, after the TIMEOUT stamp when the
deadline has passed; `ctset` fires a waiting entry or leaves its flag. R55, R66, R96, R98 to R102, R203 to R205, R276: a firing
sends its verified source to the next peer, line by line, and what goes to a peer of this package is combined there at once;
when no peer is left the send stamp is written; a contribution for an entry that is not armed is stray, and one that has come
already is a duplicate; each element of a line of a new one is combined into its element of the destination tile, the last line
counts, and when the count reaches what is expected the tile is ready: its read-out is written as an fp32 image where a result
is named, and then the completion stamp, with OVF when an element has saturated or overflows as it is read out; an armed entry
whose deadline has passed times out, at the latest when the next line comes, which is stray then. Model's choices: log entries
24, 44, 49, 60, 65, 91, 92, 97 and 102. -/
def Obligations.CollectiveEvents : Prop :=
  (∀ (s : State) (k : Nat) (c : Cmd), s.cmds[k]? = some c → s.pinsHeld c = true → s.heldBy c = false →
     (∀ sd e d, c.kind = .ctarm sd e d →
       (let x := s.entry sd e
        let busy : Prop := x.rst = 1 ∨ x.sst = 1 ∨ x.sst = 2 ∨ x.owed = true
        (¬ busy → (∀ a, x.asid = some a → a = c.asid) → c.part / 4 / 48 = sd →
          (d.rx = true → s.tentative (.sp c.task d.dtile) 65536 = false) →
          ∃ t, exec (.collectiveArm k) s = .next t ∧ t.cmds = s.cmds.eraseIdx k ∧
            (let y := t.entry sd e
             y.rst = d.rx.toNat ∧ y.sst = (if d.tx = true then (if x.flag = true then 2 else 1) else 0) ∧
             y.flag = (x.flag && !d.tx) ∧ y.desc = some d ∧ y.asid = some c.asid ∧ y.task = c.task ∧ y.bitmap = 0 ∧ y.count = 0 ∧
             y.dup = false ∧ y.sat = false ∧ y.armedAt = s.cyc) ∧
            ∀ u, s.task c.task = some u → d.rx = true → u.res.sp.cells.wf → ∀ a, d.dtile ≤ a → a < d.dtile + 65536 →
              Mem.read (t.resOf c.task).sp.cells a = 0) ∧
        (busy → s.pastDeadline x = false → (d.rx = true → s.tentative (.sp c.task d.dtile) 65536 = false) →
          ∃ t, exec (.collectiveArm k) s = .next t ∧ t.cmds = s.cmds.eraseIdx k ∧ t.entries = s.entries ∧
            (∀ l, d.rx = true → d.cstamp = some l → Plain s l.loc → Stamped s t l.loc 7 d.cseq) ∧
            ∀ l, d.rx = false → d.sstamp = some l → Plain s l.loc → Stamped s t l.loc 7 d.sseq))) ∧
     (∀ sd e, (∀ a, (s.entry sd e).asid = some a → a = c.asid) →
       (c.kind = .ctarmDis sd e → (s.entry sd e).sst ≠ 2 → (s.entry sd e).owed = false →
         (∀ d l, s.pastDeadline (s.entry sd e) = true → (s.entry sd e).desc = some d → d.cstamp = some l → Plain s l.loc →
           ∃ t, exec (.collectiveDisarm k) s = .next t ∧ t.cmds = s.cmds.eraseIdx k ∧ Stamped s t l.loc 11 d.cseq ∧
             (t.entry sd e).rst = 0 ∧ (t.entry sd e).sst = 0 ∧ (t.entry sd e).asid = none) ∧
         (s.pastDeadline (s.entry sd e) = false → ∃ t, exec (.collectiveDisarm k) s = .next t ∧ t.cmds = s.cmds.eraseIdx k ∧ t.mem = s.mem ∧
           (t.entry sd e).rst = 0 ∧ (t.entry sd e).sst = 0 ∧ (t.entry sd e).asid = none ∧
           (t.entry sd e).flag = (s.entry sd e).flag)) ∧
       (c.kind = .ctset sd e →
         ∃ t, exec (.sendFlagSet k) s = .next t ∧ t.cmds = s.cmds.eraseIdx k ∧ t.mem = s.mem ∧
           (t.entry sd e).rst = (s.entry sd e).rst ∧
           ((s.entry sd e).sst = 1 → (t.entry sd e).sst = 2 ∧ (t.entry sd e).flag = false ∧ (t.entry sd e).sent = 0) ∧
           ((s.entry sd e).sst ≠ 1 → (t.entry sd e).sst = (s.entry sd e).sst ∧ (t.entry sd e).flag = true)))) ∧
  (∀ (s : State) (sd e : Nat),
     (let x := s.entry sd e
      (∀ d p src pol, x.desc = some d → d.source = some (.glob src pol) → (d.peers.find? fun q => x.sent ≤ q.idx) = some p → x.sst = 2 →
        p.pkg ≠ s.regs.podid → x.half = false → s.colRoom d.sfmt p = true → s.reachable src = true → s.ans = none → s.wayOpen src = true → s.mem.poison = [] → s.hostMem.poison = [] →
        testsPass (TileData.ofImage d.sfmt false (s.readHome src (imageSize d.sfmt)) false).tests = true →
        ∃ t, exec (.collectiveSend sd e) s = .next t ∧ t.mem = s.mem ∧ t.hostMem = s.hostMem ∧ (t.entry sd e).sent = p.idx + 1 ∧
          (t.entry sd e).sst = 2 ∧
          (s.noCol p = true → (t.entry sd e).sendStatus = if x.sendStatus = 0 then 4 else x.sendStatus) ∧
          (s.noCol p = false → s.localHome src = true →
            t.lmsgs.length = s.lmsgs.length + contribLines d.sfmt ∧ t.lmsgs.drop (contribLines d.sfmt) = s.lmsgs ∧
            ∀ j, j < contribLines d.sfmt → ∃ n line,
              (t.lmsgs.take (contribLines d.sfmt))[contribLines d.sfmt - 1 - j]? =
                some (.col n p.pkg p.sd p.entry ⟨s.regs.podid, sd, e, j, line, false⟩) ∧
              ∀ b, b < 128 → line.extractLsb' (8 * b) 8 = nth 0 (s.readHome src (imageSize d.sfmt)) (dataStart d.sfmt + 128 * j + b))) ∧
      (∀ d p src pol, x.desc = some d → d.source = some (.glob src pol) → (d.peers.find? fun q => x.sent ≤ q.idx) = some p → x.sst = 2 →
        p.pkg = s.regs.podid → x.half = false → s.reachable src = true → s.ans = none → s.localHome src = true → s.mem.poison = [] →
        s.tentative (s.entry p.sd p.entry).dest 65536 = false →
        testsPass (TileData.ofImage d.sfmt false (s.readHome src (imageSize d.sfmt)) false).tests = true →
        ∃ (u v : State) (ls : List Line), { u with msc := s.msc } = s ∧ ls.length = contribLines d.sfmt ∧
          (∀ j line, ls[j]? = some line → ∀ b, b < 128 →
            line.extractLsb' (8 * b) 8 = nth 0 (s.readHome src (imageSize d.sfmt)) (dataStart d.sfmt + 128 * j + b)) ∧
          v = ((ls.zipIdx).foldl (fun w y => w.contribute p.sd p.entry ⟨w.regs.podid, sd, e, y.2, y.1, false⟩ true) u).draw ∧
          ((v.entry p.sd p.entry).owed = false → exec (.collectiveSend sd e) s = .next (v.sentTo sd e p))) ∧
      (∀ d l, x.desc = some d → x.sst = 2 → x.dying = false → (∀ p ∈ d.peers, p.idx < x.sent) → d.sstamp = some l → x.sendStatus < 128 →
        Plain s l.loc →
        ∃ t, exec (.sendComplete sd e) s = .next t ∧ (t.entry sd e).sst = 3 ∧ Stamped s t l.loc x.sendStatus d.sseq) ∧
      (∀ c : ContribLine,
        (x.rst ≠ 1 → ∃ t, exec (.contributionArrival sd e c) s = .next t ∧ t.entries = s.entries ∧ t.mem = s.mem ∧
          KMap.get 0 t.stray sd = min (2 ^ 32 - 1) (KMap.get 0 s.stray sd + 1)) ∧
        (∀ d l, x.desc = some d → x.rst = 1 → s.pastDeadline x = true → s.tentative x.dest 65536 = false → d.cstamp = some l →
          Plain s l.loc → ∃ t, exec (.contributionArrival sd e c) s = .next t ∧ (t.entry sd e).rst = 3 ∧
            Stamped s t l.loc 11 d.cseq ∧ KMap.get 0 t.stray sd = min (2 ^ 32 - 1) (KMap.get 0 s.stray sd + 1)) ∧
        (∀ d p, x.desc = some d → x.rst = 1 → s.pastDeadline x = false → s.tentative x.dest 65536 = false →
          (d.peers.find? fun q => q.pkg = c.pkg && q.sd = c.sd && q.entry = c.entry) = some p →
          (x.bitmap.getLsbD p.idx = true → ∃ t, exec (.contributionArrival sd e c) s = .next t ∧ t.mem = s.mem ∧ t.tasks = s.tasks ∧
            t.entry sd e = { x with dup := true }) ∧
          (x.bitmap.getLsbD p.idx = false → d.sfmt.toNat ≤ 2 → d.op ≤ 2 → d.dtile % 16 = 0 → c.line < contribLines d.sfmt →
            c.poisoned = false → (s.task x.task).isSome = true → Clear (s.resOf x.task) →
            (let n := lineElems d.sfmt
             let line := (List.range 128).map fun b => c.data.extractLsb' (8 * b) 8
             let whole : Prop := contribLines d.sfmt ≤ KMap.get 0 x.lines p.idx + 1
             let combined (t : State) : Prop := ∀ j f, j < 4096 → ElementAt (s.resOf x.task).sp (d.dtile + 16 * j) f →
               ∃ f', ElementAt (t.resOf x.task).sp (d.dtile + 16 * j) f' ∧
                 (j / n ≠ c.line → f' = f) ∧
                 (j / n = c.line → Combines (d.op + 1) d.anchor (Untouched (s.resOf x.task) (d.dtile + 16 * j) f)
                   (sourceValue d.sfmt line (j % n)) f f')
             let counts (t : State) : Prop := (t.entry sd e).count = x.count + 1 ∧
               (t.entry sd e).bitmap = x.bitmap ||| BitVec.twoPow 64 p.idx
             (¬ whole → ∃ t, exec (.contributionArrival sd e c) s = .next t ∧ SameBytes s t ∧ combined t ∧ (t.entry sd e).rst = 1 ∧
               (t.entry sd e).count = x.count ∧ (t.entry sd e).bitmap = x.bitmap) ∧
             (whole → x.count + 1 < d.expect → ∃ t, exec (.contributionArrival sd e c) s = .next t ∧ SameBytes s t ∧ combined t ∧
               (t.entry sd e).rst = 1 ∧ counts t) ∧
             (∀ l, whole → d.expect ≤ x.count + 1 → d.cstamp = some l → Plain s l.loc →
               (let beyond (t : State) : Prop := ∃ j f, j < 4096 ∧ ElementAt (t.resOf x.task).sp (d.dtile + 16 * j) f ∧ f.sat = true
                (d.result = none → ∃ t, exec (.contributionArrival sd e c) s = .next t ∧ combined t ∧ (t.entry sd e).rst = 2 ∧ counts t ∧
                  (beyond t → Stamped s t l.loc 12 d.cseq) ∧ (¬ beyond t → Stamped s t l.loc 0 d.cseq)) ∧
                (∀ r, d.result = some r → Plain s r.loc →
                  ∃ (t m : State) (ys : List W32), exec (.contributionArrival sd e c) s = .next t ∧ combined t ∧ (t.entry sd e).rst = 2 ∧ counts t ∧
                    ys.length = 4096 ∧
                    (∀ j f, j < 4096 → ElementAt (t.resOf x.task).sp (d.dtile + 16 * j) f →
                      ∃ y, ys[j]? = some y ∧ ReadsOut d.anchor f y) ∧
                    Wrote s m r.loc (({ fmt := 0, cb := false, el := ys, sc := [], csc := [], csr := [], csz := 0, poison := false } :
                      TileData).summed).image ∧
                    (let ovf : Prop := beyond t ∨ ∃ j f, j < 4096 ∧ ElementAt (t.resOf x.task).sp (d.dtile + 16 * j) f ∧ f.tag = 0 ∧
                       (ys[j]? = some 0x7F800000 ∨ ys[j]? = some 0xFF800000)
                     (ovf → Stamped m t l.loc 12 d.cseq) ∧ (¬ ovf → Stamped m t l.loc 0 d.cseq))))))))) ∧
      (∀ d l, x.desc = some d → x.rst = 1 → 0 < d.deadline → x.armedAt + 2250 * d.deadline ≤ s.cyc → d.cstamp = some l → Plain s l.loc →
        ∃ t, exec (.collectiveTimeout sd e) s = .next t ∧ (t.entry sd e).rst = 3 ∧ Stamped s t l.loc 11 d.cseq)))

/-- R35, R36, R278, R279: an offer, a binding, a return and a withdrawal as they perform, and the handle fault of a binding
whose home entry offers nothing. R103, R106, R107, R282: a snapshot opens with its range and arena; `sacc` closes it, leaves
every byte and hands its shadows to the parent where the parent has none; `srej` closes it and puts back what each shadowed line
held. R301, R313, R314: a `grow` adds its tasks to the launch; a `bgadd` reaches a running task of the same address space, or
one named by a supervisor, and otherwise the pool of the issuer's launch. Model's choices: log entries 50, 51, 55, 60 and 70. -/
def Obligations.HandleAndSnapshotEvents : Prop :=
  (∀ (s : State) (k : Nat) (c : Cmd), s.cmds[k]? = some c →
     (let me := c.part / 4
      let home (peer : Nat) : Nat := me / 8 * 8 + peer
      (∀ h peer n r0, c.kind = .hgive h peer n r0 → s.heldAll c = false →
        ∃ t, exec (.handleOffer k) s = .next t ∧ t.cmds = s.cmds.eraseIdx k ∧
          KMap.find (t.core me).handles h = some (⟨1, peer, 0, n, r0, c.task, c.part % 4, false⟩ : Handle)) ∧
      (∀ h peer ph, c.kind = .htake h peer ph → s.heldBy c = false →
        (∀ x, home peer ≠ me → KMap.find (s.core (home peer)).handles ph = some x → x.state = 1 → x.resv = false → x.peer = me % 8 →
          ∃ t, exec (.handleBind k) s = .next t ∧ t.cmds = s.cmds.eraseIdx k ∧
            KMap.find (t.core (home peer)).handles ph = some { x with state := 2, peerh := h } ∧
            KMap.find (t.core me).handles h = some (⟨3, peer, ph, x.nrows, x.baserow, c.task, c.part % 4, false⟩ : Handle) ∧
            (t.core me).l1 = []) ∧
        (∀ u, KMap.find (s.core (home peer)).handles ph = none → s.task c.task = some u →
          ∃ t, exec (.handleBind k) s = .next t ∧ t.cmds = s.cmds.eraseIdx k ∧ KMap.find (t.core me).handles h = none ∧
            t.task c.task = some { u with late := u.late ++ [.handle (BitVec.ofNat 6 ph)] })) ∧
      (∀ h x, c.kind = .hgiveRet h → s.heldAll c = false → KMap.find (s.core me).handles h = some x → x.state = 3 → x.owner = c.task →
        ∃ t, exec (.handleReturn k) s = .next t ∧ t.cmds = s.cmds.eraseIdx k ∧ KMap.find (t.core me).handles h = none ∧
          KMap.find (t.core (home x.peer)).handles x.peerh = none) ∧
      (∀ h x, c.kind = .htakeWd h → s.heldBy c = false → KMap.find (s.core me).handles h = some x → x.state = 1 → x.owner = c.task →
        ∃ t, exec (.handleWithdraw k) s = .next t ∧ t.cmds = s.cmds.eraseIdx k ∧ KMap.find (t.core me).handles h = none))) ∧
  (∀ (s : State) (k : Nat) (c : Cmd), s.cmds[k]? = some c → s.pinsHeld c = true →
     (∀ n d parent level, c.kind = .snap (some n) d → s.heldAll c = false → s.storesIn d.range = false → s.nest d = .ok (parent, level) → d.stamp = none →
       ∃ t x, exec (.snapInstall k) s = .next t ∧ t.cmds = s.cmds.eraseIdx k ∧ SameBytes s t ∧ KMap.find t.snaps n = some x ∧
         x.state = 2 ∧ x.asid = c.asid ∧ x.parent = parent ∧ x.level = level ∧ x.range = d.range ∧ x.arena = d.arena ∧
         x.alines = d.alines ∧ x.shadows = [] ∧ x.quota = []) ∧
     (∀ h x seq, s.heldBy c = false → KMap.find s.snaps h = some x → x.state = 2 → x.asid = c.asid → s.isInnermost h = true →
       (c.kind = .sacc h none seq →
         ∃ t, exec (.snapshotAccept k) s = .next t ∧ t.cmds = s.cmds.eraseIdx k ∧ SameBytes s t ∧
           (x.parent = none → KMap.find t.snaps h = none) ∧
           ∀ q y, x.parent = some q → KMap.find (KMap.del s.snaps h) q = some y → ∃ y', KMap.find t.snaps q = some y' ∧
             (∀ z ∈ y.shadows, z ∈ y'.shadows) ∧ ∀ z ∈ x.shadows, y.shadowed z.line = false → z ∈ y'.shadows) ∧
       (c.kind = .srej h none seq → s.memWf → (x.shadows.map Shadow.line).Nodup →
         ∃ t, exec (.snapshotReject k) s = .next t ∧ t.cmds = s.cmds.eraseIdx k ∧
           (x.parent = none → KMap.find t.snaps h = none) ∧
           (∀ z ∈ x.shadows, ∀ j, j < 128 → Mem.read t.mem.cells (128 * z.line + j) = z.old.data.extractLsb' (8 * j) 8) ∧
           (∀ a, (∀ z ∈ x.shadows, z.line ≠ a / 128) → Mem.read t.mem.cells a = Mem.read s.mem.cells a) ∧
           ∀ a, Mem.read t.hostMem.cells a = Mem.read s.hostMem.cells a))) ∧
  (∀ (s : State) (k : Nat) (c : Cmd) (u : Task) (l : Launch), s.cmds[k]? = some c → s.task c.task = some u →
     s.launch u.lid = some l →
     (∀ n bi bm di dm, c.kind = .grow n bi bm di dm → l.count + n ≤ 2 ^ 32 - 1 →
       ∃ t, exec (.growApply k) s = .next t ∧ t.cmds = s.cmds.eraseIdx k ∧ t.launch l.lid = some { l with count := l.count + n } ∧
         t.mem = s.mem ∧ t.parts = s.parts) ∧
     (∀ target m amt sup, c.kind = .bgadd target m amt sup →
       (∀ v p, s.task target = some v → v.st = .running p → (sup = true ∨ s.asidOf target = some c.asid) →
         ∃ t, exec (.bgaddApply k) s = .next t ∧ t.cmds = s.cmds.eraseIdx k ∧ (∀ q, q ≠ p → t.part q = s.part q) ∧
           (t.part p).bgi = (if m = true then (s.part p).bgi else min ((s.part p).bgi + amt) (2 ^ 47 - 1)) ∧
           (t.part p).bgm = (if m = true then min ((s.part p).bgm + amt) (2 ^ 47 - 1) else (s.part p).bgm)) ∧
       (s.task target = none → sup = false → (∀ v ∈ s.tasks, v.lid = l.lid → v.st = .saved → v.why ≠ 3) →
         ∃ t y, exec (.bgaddApply k) s = .next t ∧ t.cmds = s.cmds.eraseIdx k ∧ t.parts = s.parts ∧ t.launch l.lid = some y ∧
           y.poolI = (if m = true then l.poolI else max (-2 ^ 63) (min (2 ^ 63 - 1) (l.poolI + amt))) ∧
           y.poolM = (if m = true then max (-2 ^ 63) (min (2 ^ 63 - 1) (l.poolM + amt)) else l.poolM))))

/-! ### Reliability events -/

/-- R24, R40, R43, R285, R376: a retired scratchpad or tile-store bank with a spare hands its logical index to the spare and
evacuates line by line under the cursor; the last line ends the evacuation in state 2; a compaction removes the tasks that no
longer fit, waits while one that exits keeps the rest from fitting, and starts the fold copy, which the cursor ends. R327, R331,
R338 to R340, R343: 64 errors of an entry within 2^32 cycles quarantine its core; a self-test that finds nothing ends the
quarantine and returns every entry in state 4 to service; the patrol scrubber poisons and counts a line it cannot correct and
leaves a good one; a fault that strikes marks what a check will find. Model's choices: log entries 26, 40, 41, 55, 71, 72, 87,
93 and 96. -/
def Obligations.ReliabilityEvents : Prop :=
  (∀ (s : State) (n : Nat),
     (∀ k c core i spare, s.cmds[k]? = some c → c.kind = .evac core i → s.heldBy c = false →
       (∀ x ∈ s.cmds.take k, ∀ a b, x.kind = .evac a b → a ≠ core) → s.evacuating core = false → (s.core core).waiting = [] →
       (chartClass i = 1 ∨ chartClass i = 2) → ((s.chartAt core i).state = 0 ∨ (s.chartAt core i).state = 4) →
       (s.chartAt core i).logical ≠ 0x7F → s.spareFor core i = some spare →
       ∃ t, exec (.retirement k) s = .next t ∧ t.cmds = s.cmds.eraseIdx k ∧ (t.core core).evac = some ⟨i, spare, 0, false, (s.chartAt core i).logical⟩ ∧
         (t.chartAt core i).state = 1 ∧ (t.chartAt core i).cursor = 0 ∧
         (t.chartAt core spare).logical = (s.chartAt core i).logical ∧ t.tasks = s.tasks ∧ t.mem = s.mem) ∧
     (∀ v, (s.core n).evac = some v → n < 384 → (s.core n).waiting = [] → v.fold = false →
       ∃ t, exec (.evacuationLineCopy n) s = .next t ∧ t.tasks = s.tasks ∧ t.mem = s.mem ∧
         (v.cursor + 1 < classLines (chartClass v.idx) →
           (t.core n).evac = some { v with cursor := v.cursor + 1 } ∧ (t.chartAt n v.idx).cursor = v.cursor + 1) ∧
         (classLines (chartClass v.idx) ≤ v.cursor + 1 →
           (t.core n).evac = none ∧ (t.chartAt n v.idx).state = 2 ∧ (t.chartAt n v.idx).logical = 0x7F)) ∧
     (∀ i l u, (s.core n).compact = some (i, l) → u = s.shrink n (classReg (chartClass i)) →
       (u.overfull n (u.residents n) = true → exec (.compaction n) s = .next u) ∧
       (u.overfull n (u.residents n) = false → ∃ t, exec (.compaction n) s = .next t ∧ (t.core n).compact = none ∧
         (t.core n).evac = some ⟨i, i, 0, true, l⟩ ∧ t.chart = u.chart ∧ t.mem = u.mem)) ∧
     (∀ v, (s.core n).evac = some v → v.fold = true →
       ∃ t, exec (.foldCopy n) s = .next t ∧ t.tasks = s.tasks ∧ t.mem = s.mem ∧
         (v.cursor + 1 < classLines (chartClass v.idx) →
           (t.core n).evac = some { v with cursor := v.cursor + 1 } ∧ t.chart = s.chart) ∧
         (classLines (chartClass v.idx) ≤ v.cursor + 1 → (t.core n).evac = none))) ∧
  (∀ (s : State) (core i : Nat),
     (∀ a, (s.chartAt core i).recent[63]? = some a → (s.chartAt core i).recent.headD 0 ≤ a + 2 ^ 32 →
       ∃ t, exec (.errsThreshold core i) s = .next t ∧ (t.core core).quar = true) ∧
     ((s.core core).quar = true → ∃ t, exec (.selfTestComplete core ⟨[], [], 0, false, false⟩) s = .next t ∧ (t.core core).quar = false ∧
       ∀ j, j < 324 → (t.chartAt core j).state = if (s.chartAt core j).state = 4 then 0 else (s.chartAt core j).state) ∧
     (∀ line, exec (.patrolScrub line false) s = .next s ∧
       (line < 2 ^ 32 → s.absent.getLsbD (line / 2 ^ 29) = false → (s.mem.poison.contains (s.own (128 * line) / 128)) = false → s.regs.logq.getLsbD 63 = false →
         (let isl := 1200 + 2 * (line / 2 ^ 29)
          ∃ t, exec (.patrolScrub line true) s = .next t ∧ t.mem.cells = s.mem.cells ∧
            t.mem.poison.contains (s.own (128 * line) / 128) = true ∧ (t.errc isl).1 = min 0xFFFF ((s.errc isl).1 + 1)))) ∧
     (∀ p id, (s.part p).task = some id → (s.part p).sealed = false → (s.part p).exiting = none →
       exec (.softError (.vane p)) s = .next (s.updPart p fun P => { P with vane := true }) ∧
       exec (.softError (.residue p)) s = .next (s.updPart p fun P => { P with residue := true })) ∧
     (∀ row col bit, exec (.softError (.drain core row col bit)) s =
       .next (s.updCore core fun x => { x with flips := x.flips ++ [(row, col, bit)] })) ∧
     exec (.softError (.cacheParity core)) s = .next (s.updCore core fun x => { x with l1 := [], ic := [], pf := [] }))

/-! ### Events of Meridian -/

/-- R111, R187, R288, R290, R292, R293, R295, R297, R299, R359: Meridian, where the ways to what it reads are open, asks the
homes outside the package and admits the published record at the head of a reorder ring as a launch with the record's ticket and
a number that no incomplete launch has; a launch whose waits are met becomes dispatchable; the one launch of a queue has its
next index started on the partition chosen for it, with the record's routine, arguments and budgets; a class-1 launch that waits
past BOUND is promoted one level. R135, R296, R322: the one saved task of a launch with no index left is dispatched to the
partition chosen for it and resumes with what its context block holds: s0 to s31, p0 to p7, the masks, the vectors, PC, CONT and
the balances; loops, MXSTAT, formats and the continuation's come back as they were saved, so do latches, rings and stationary
buffers. No line of the block is poisoned. What a save writes is what a restore reads. R367: a window of 2,250,000 cycles has
passed, and ends; before, nothing happens: the use counts start again, the reserve is what 2.5 J leave after the overdraft, and
the next rate is between 4 and 16. Model's choices: log entries 8, 27, 34, 35, 47, 62, 82, 90, 95, 103 and 105. -/
def Obligations.MeridianEvents : Prop :=
  (∀ (s : State) (q : Nat),
     (∀ (bs : List Byte) (w0 w1 : Wait) (a b u v : State) (h : Nat), q < 4096 → s.qOn q = true → s.qBytes q = false →
       (s.queue q).head = h →
       (let seq := s.qBlock q + 0x80 + 8 * (h % s.qSize q)
        let slot := s.qRing q + 64 * (h % s.qSize q)
        let r := Rec.ofBytes bs
        s.mShut (s.qAsid q) [(seq, 8)] = false → a = s.mAsk (s.qAsid q) [(seq, 8)] → a.mWord (s.qAsid q) seq = some h →
        a.mRead (s.qAsid q) slot 64 = some bs → a.mShut (s.qAsid q) ((slot, 64) :: a.waitReads (s.qAsid q) r) = false →
        b = a.mAsk (s.qAsid q) ((slot, 64) :: a.waitReads (s.qAsid q) r) → u = b.setHead q (h + 1) → v = (u.curGen (u.qAsid q)).2 →
        r.ver ≠ 0 → r.cls ≠ 2 → r.count ≠ 0 → (u.curGen (u.qAsid q)).1.bad = false → v.recOk q r bs = true →
        v.readWait (u.qAsid q) r 0 = some w0 → v.readWait (u.qAsid q) r 1 = some w1 → v.fitsAnywhere r = true →
        s.launches.length < 2 ^ 32 →
        ∃ t l, exec (.admission q) s = .next t ∧ t.launches = s.launches ++ [l] ∧ (∀ m ∈ s.launches, m.lid ≠ l.lid) ∧
          l.lid = BitVec.ofNat 32 t.lastLid ∧ l.q = some q ∧ l.ticket = h ∧ l.record = r ∧ l.asid = u.qAsid q ∧
          l.waits = [w0, w1] ∧ l.count = r.count ∧ l.next = 0 ∧ l.exited = 0 ∧ t.tasks = s.tasks ∧ (t.queue q).head = h + 1)) ∧
     (∀ l, s.launch l.lid = some l → l.ready = false → l.count ≠ 0 → l.exited = 0 → l.trigd = [] →
       (let met (w : Wait) : Bool := w.met || s.waitNow l w
        ∃ t, exec (.waitMet l.lid) s = .next t ∧ t.tasks = s.tasks ∧ t.mem = s.mem ∧
          t.launch l.lid =
            some { l with waits := l.waits.map (fun w => { w with met := met w }), ready := l.waits.all met, readyAt := s.cyc })) ∧
     (∀ (l : Launch) (p : Nat), s.launches = [l] → s.tasks = [] → l.q = some q → l.ready = true → l.next < l.count → l.serves = none →
       l.record.cls = 0 → l.record.prio < 8 → l.reserved = [] → s.blockTake.isSome = true → s.fitsAnywhere l.record = true →
       s.nextSpot l none = some (none, p, []) → 0 < s.qWeight q →
       (let id := BitVec.ofNat 64 (l.lid.toNat * 2 ^ 32 + l.next)
        let budget (n : Nat) : Int := min (n : Int) (2 ^ 47 - 1)
        ∃ t k, exec .dispatch s = .next t ∧ k ∈ t.tasks ∧ k.id = id ∧ k.lid = l.lid ∧ k.idx = l.next ∧ k.st = .running p ∧
          (t.part p).task = some id ∧ (t.part p).regs.pc = l.record.routine ∧ nth 0 (t.part p).regs.s 1 = l.record.args ∧
          (∀ n, n ≠ 1 → nth 0 (t.part p).regs.s n = 0) ∧ (t.part p).dup = (t.part p).regs ∧
          (t.part p).bgi = budget l.record.bgi ∧ (t.part p).bgm = budget l.record.bgm)) ∧
     (∀ l, s.queueLaunch q = some l → s.launch l.lid = some l → l.record.cls = 1 → s.qBound q ≠ 0 →
       l.readyAt + 2250 * s.qBound q < s.cyc →
       ∃ t m, exec (.ageingPromotion q) s = .next t ∧ t.launch l.lid = some m ∧ m = { l with promoted := true } ∧
         m.level = min 7 (l.record.prio + 1) ∧ (∀ n, n ≠ l.lid → t.launch n = s.launch n) ∧ { t with launches := s.launches } = s)) ∧
  ((∀ (s : State) (q : Nat) (l : Launch) (k : Task) (c : Ctx) (p : Nat), s.launches = [l] → s.tasks = [k] → k.lid = l.lid → l.q = some q →
     l.ready = true → l.next = l.count → l.serves = none → l.record.cls = 0 → l.record.prio < 8 → l.reserved = [] → 0 < s.qWeight q →
     s.fitsAnywhere l.record = true → s.memWf → s.snaps = [] → k.st = .saved → k.ctx = some c → k.late = [] → c.exh = false → c.gl = false → s.badContext k.block = [] →
     s.nextSpot l none = some (some k, p, []) →
     ∃ t k', exec .dispatch s = .next t ∧ t.task k.id = some k' ∧ k'.st = .running p ∧ k'.ctx = none ∧ k'.block = k.block ∧
       k'.core = some (p / 4) ∧ (k.core.isSome = true → k'.res = k.res) ∧ k'.res.sp = k.res.sp ∧ k'.res.tiles = k.res.tiles ∧
       (let P := t.part p
        P.task = some k.id ∧ P.regs = s.restoredRegs k.block c.regs ∧ P.dup = P.regs ∧ P.bgi = s.blockBal k.block 0x40 ∧
        P.bgm = s.blockBal k.block 0x48 ∧ P.exh = false ∧ P.gl = false ∧ P.grace = c.grace ∧ P.sus = c.sus ∧
        P.rerun.map Rerun.cause = c.rr ∧ P.rpoison = [] ∧ P.ringsD = k.res.rings ∧ P.statD = k.res.stat ∧ P.flight = [] ∧ P.sb = [] ∧
        P.journal = [] ∧ P.lastRestore = true)) ∧
   (∀ (s : State) (p why : Nat) (k : Task), s.memWf → s.snaps = [] → s.taskOn p = some k →
     (let t := s.save p why
      let r := (s.part p).regs
      let x := t.restoredRegs k.block r
      r.s.length = 32 → nth 0 r.s 0 = 0 → r.m.length = 8 → nth 0 r.m 0 = BitVec.allOnes 1024 → r.v.length = 32 →
      (∀ v ∈ r.v, v.length = 1024) →
      { x with p := r.p } = r ∧ (∀ n, 1 ≤ n → n ≤ 7 → x.p.getLsbD n = r.p.getLsbD n) ∧
      (let fits (n : Int) : Prop := -2 ^ 47 ≤ n ∧ n < 2 ^ 47
       (fits (s.part p).bgi → t.blockBal k.block 0x40 = (s.part p).bgi) ∧
       (fits (s.part p).bgm → t.blockBal k.block 0x48 = (s.part p).bgm))))) ∧
  (∀ s : State,
     (s.cyc < (s.isobar.windows + 1) * 2250000 → exec .isobarWindow s = .next s) ∧
     ((s.isobar.windows + 1) * 2250000 ≤ s.cyc → ∃ t, exec .isobarWindow s = .next t ∧ { t with isobar := s.isobar } = s ∧ t.isobar.use = [] ∧
     t.isobar.windows = s.isobar.windows + 1 ∧ 4 ≤ t.isobar.rate ∧ t.isobar.rate ≤ 16 ∧
     (let e := s.isobar.energy
      t.isobar.reserve = 2500000000000 - max 0 (e - s.isobar.reserve) ∧
      (0 < e → (t.isobar.rate : Int) = max 4 (min 16 (16 * t.isobar.reserve / e))))))

/-! ### Events of the host -/

namespace Sys2Proof.Says

/-- A host access to n bytes at a local address keeps the rules of its message and finds its home (R348). -/
def HostMay (s : State) (addr n al : Nat) : Prop :=
  s.hostUp = true ∧ 0 < n ∧ n ≤ 128 ∧ addr % al = 0 ∧ addr % 128 + n ≤ 128 ∧ addr + n ≤ 2 ^ 39 ∧
  s.reachable (.hbm (s.own addr)) = true

/-- `i` only completes with a status and bytes to requester rq (R348). -/
def OnlyReplies (i : Instr) (s : State) (rq status : Nat) (bs : List Byte) : Prop :=
  ∃ t, exec i s = .next t ∧ { t with cpls := s.cpls, fresh := s.fresh } = s ∧ t.cpls = ⟨rq, status, bs⟩ :: s.cpls

/-- `i`, an access of requester rq to the register space, completes with OK and changes nothing else but registers there, of which Q
says what they become (R348, R352). -/
def OnlyRegs (i : Instr) (s : State) (rq : Nat) (Q : State → HostRegs → Prop) : Prop :=
  ∃ t, exec i s = .next t ∧ { t with regs := s.regs, cpls := s.cpls } = s ∧ t.cpls = ⟨rq, 0, []⟩ :: s.cpls ∧ Q t t.regs

/-- The k-th pending read of partition p, of scalar register d, is answered by a home outside the package with these bytes: the register
gets them under the task's own earlier withheld bytes, and the home is seen to hold them (R16, R70). -/
def AnswersRead (i : Instr) (s : State) (p k : Nat) (x : Pend) (d : Nat) (data : List Byte) : Prop :=
  ∃ t f v, exec i s = .next t ∧ (t.part p).pend = (s.part p).pend.eraseIdx k ∧ (t.part p).flight = (s.part p).flight ++ [f] ∧
    f.wr = .s d v ∧ f.iss = (s.part p).issT ∧ (∀ q, q ≠ p → t.part q = s.part q) ∧ Wrote s t x.loc data ∧
    Loads v x.sext x.size fun j => match (s.withheld p x.sb x.loc x.size).find? fun e => e.1 = j with | some e => e.2 | none => nth 0 data j

end Sys2Proof.Says

/-- R348 to R350: host reads, masked writes, acquire and release accesses, fences and atomics at their home, each with its
completion; an access that breaks the rules of its message completes with UNSUP and does nothing. R16, R70, R348, R359: the
host, or another package, answers a pending read of a scalar register that asks it for some byte: one that the task's own
earlier withheld stores do not supply. R7, R17, R286, R304, R315, R320, R348, R352 to R357: what accesses to the register space
do; each completes. R39, R346, R354, R364, R369, R371: a package reset that goes through leaves no task and no launch, every
register of the host space at its reset value, this package's HBM4 all zero and the host's memory as it was; an attestation
report carries its nonce; a UCIe module that fails leaves the hash and raises BHP. Model's choices: log entries 12, 13, 15 to
17, 19, 21, 25 and 105. -/
def Obligations.HostEvents : Prop :=
  (∀ (s : State) (rq addr : Nat),
     (let l : Loc := .hbm (s.own addr)
      let ok (n : Nat) : Nat := if s.poisonedAt l n then 3 else 0
      (∀ n, HostMay s addr (8 * n) 8 → OnlyReplies (.bhpRd rq addr n) s rq (ok (8 * n)) (s.readHome l (8 * n))) ∧
      (HostMay s addr 8 8 → 2 ≤ s.bhp → OnlyReplies (.bhpRdAq rq addr) s rq (ok 8) (s.readHome l 8)) ∧
      (∀ n, s.hostUp = true → (n = 0 ∨ 16 < n ∨ addr % 8 ≠ 0 ∨ 128 < addr % 128 + 8 * n) →
        OnlyReplies (.bhpRd rq addr n) s rq 4 [] ∧ ∀ m d, OnlyReplies (.bhpWr rq addr n m d) s rq 4 []) ∧
      (∀ n (mask : BitVec 128) (d : BitVec 1024), HostMay s addr (8 * n) 8 → s.memWf → s.snaps = [] →
        ∃ t, exec (.bhpWr rq addr n mask d) s = .next t ∧ t.cpls = ⟨rq, 0, []⟩ :: s.cpls ∧ t.hostMem = s.hostMem ∧ t.parts = s.parts ∧
          ∀ a, Mem.read t.mem.cells a =
            if s.own addr ≤ a ∧ a < s.own addr + 8 * n ∧ mask.getLsbD (a - s.own addr) = true then
              d.extractLsb' (8 * (a - s.own addr)) 8
            else Mem.read s.mem.cells a) ∧
      (∀ d : BitVec 64, HostMay s addr 8 8 → 2 ≤ s.bhp → s.memWf → s.snaps = [] →
        ∃ t, exec (.bhpWrRl rq addr d) s = .next t ∧ t.cpls = ⟨rq, 0, []⟩ :: s.cpls ∧ Wrote s t l (wordBytes d)) ∧
      (s.hostUp = true → OnlyReplies (.bhpFence rq) s rq 0 []) ∧
      (∀ (size : Nat) (y e : BitVec 64) (old : BitVec (8 * size)), (size = 4 ∨ size = 8) → HostMay s addr size size → s.memWf →
        s.snaps = [] → s.poisonedAt l size = false → IsWord old (s.readHome l size) →
        (let does (op : AtOp) (new? : Option (BitVec (8 * size))) : Prop :=
           ∃ t, exec (.bhpAt rq addr size op y e) s = .next t ∧ t.cpls = ⟨rq, 0, s.readHome l size⟩ :: s.cpls ∧
             match new? with
             | some x => Wrote s t l (wordBytes x)
             | none => SameBytes s t
         does .add (some (old + y.setWidth (8 * size))) ∧ does .xchg (some (y.setWidth (8 * size))) ∧
         does .cas (if old = e.setWidth (8 * size) then some (y.setWidth (8 * size)) else none))))) ∧
  (∀ (s : State) (p k d : Nat) (x : Pend) (w : Bool) (data : List Byte), (s.part p).pend[k]? = some x → s.pendReady p k = true → x.dst = .s d →
     d ≠ 0 → x.elem = none → x.rmw = none → s.ans = none → s.poisonedAt x.loc x.size = false → 0 < x.size → x.size ≤ 8 →
     data.length = x.size → s.memWf → s.withheldBad p x.sb x.loc x.size = false → (s.part p).sealed = false → s.homePieces p x ≠ [] →
     ((∃ a, x.loc = .host a) → AnswersRead (.bhpCpl (.read p k) w 0 data) s p k x d data) ∧
     (∀ a, x.loc = .hbm a → s.isOwn a = false → AnswersRead (.rsp (.read p k) w 0 data) s p k x d data)) ∧
  (∀ (s : State) (rq : Nat) (v : W64), s.hostUp = true →
     (OnlyRegs (.registerWrite 0x48 ⟨rq, some v⟩) s rq (fun _ r => ∀ j, j < 64 → r.spill.getLsbD j = (v.getLsbD j && (decide (40 ≤ j) || (decide (18 ≤ j) && decide (j < 39))))) ∧
      OnlyRegs (.registerWrite 0xA0 ⟨rq, some v⟩) s rq (fun _ r => r = { s.regs with htsel := v }) ∧
      OnlyRegs (.registerWrite 0x68 ⟨rq, some v⟩) s rq (fun _ r => r = { s.regs with intctl := v &&& 0x7F }) ∧
      exec (.registerWrite 0 ⟨rq, some v⟩) s = .next (s.reply rq 0 []) ∧
      OnlyReplies (.registerWrite 0x68 ⟨rq, none⟩) s rq 0 (bytesOf 8 s.regs.intctl) ∧
      (∀ off x, off % 8 ≠ 0 → exec (.registerWrite off ⟨rq, x⟩) s = .next (s.reply rq 4 [])) ∧
      (∀ a, a < 4096 → ∃ t, exec (.wbaseWrite a ⟨rq, v⟩) s = .next t ∧ t.launches = s.launches ∧ t.mem = s.mem ∧
        (let old := KMap.get 0 s.regs.wbase a
         let new := KMap.get 0 t.regs.wbase a
         Field new 48 15 ((old.toNat / 2 ^ 48 % 2 ^ 15 + 1) % 2 ^ 15) ∧ new.getLsbD 63 = v.getLsbD 63 ∧
         Field new 14 28 (v.toNat / 2 ^ 14 % 2 ^ 28) ∧ Field new 0 14 0 ∧ Field new 42 6 0)) ∧
      (∀ q, q < 4096 → s.qOn q = false →
        (let w := qctlFields v ||| BitVec.twoPow 64 63
         let u := s.setQctl q w
         (s.regs.lock = true → qctlInRange w = true → ∀ h, u.mWord (u.qAsid q) (u.qBlock q + 0x40) = some h →
           ∃ t, exec (.queueEnable q ⟨rq, v⟩) s = .next t ∧ t.qOn q = true ∧ (t.queue q).head = h ∧ t.mem = s.mem) ∧
         (s.regs.lock = false ∨ qctlInRange w = false →
           ∃ t, exec (.queueEnable q ⟨rq, v⟩) s = .next t ∧ t.qOn q = false ∧ (t.qctl q).getLsbD 61 = true ∧
             t.regs.intcause.getLsbD 1 = true ∧ t.queues = s.queues))) ∧
      (∀ q, q < 4096 → s.qOn q = true → OnlyRegs (.queueDisable q ⟨rq, v⟩) s rq fun t r =>
        t.qOn q = false ∧ { r with qctl := s.regs.qctl } = s.regs) ∧
      (v.getLsbD 63 = true → OnlyRegs (.featctlLock ⟨rq, v⟩) s rq fun _ r => r = { s.regs with lock := true }) ∧
      (∃ t, exec (.quiesceClear ⟨rq, v⟩) s = .next t ∧ (∀ c, (t.core c).halted = false ∧ (t.core c).accepting = true) ∧
        t.tasks = s.tasks ∧ t.parts = s.parts) ∧
      OnlyRegs (.intcauseClear ⟨rq, v⟩) s rq (fun _ r => r = { s.regs with intcause := s.regs.intcause &&& ~~~v }) ∧
      (∀ k, s.task v = some k → k.st = .trapped → s.getMem (k.block + 0x20) 8 % 4 = 0 →
        ∃ t, exec (.htret ⟨rq, v⟩) s = .next t ∧ t.task v = some { k with st := .saved } ∧
          { t with tasks := s.tasks, cpls := s.cpls } = s) ∧
      (∀ k p, s.task s.regs.htsel = some k → k.st = .running p →
        ∃ t, exec (.htopup ⟨rq, v⟩) s = .next t ∧ (∀ q, q ≠ p → t.part q = s.part q) ∧ { t with parts := s.parts, cpls := s.cpls } = s ∧
          (let amt : Int := (v.toNat % 2 ^ 47 : Nat)
           (t.part p).bgi = (if v.getLsbD 63 = true then (s.part p).bgi else min ((s.part p).bgi + amt) (2 ^ 47 - 1)) ∧
           (t.part p).bgm = (if v.getLsbD 63 = true then min ((s.part p).bgm + amt) (2 ^ 47 - 1) else (s.part p).bgm))))) ∧
  (∀ s : State,
     (∀ (mode : Bool) (r : BringUp), r.code = 0 → r.failing = [] → r.failed = 0 → max r.bhpLow 1 ≤ min r.bhp 3 →
       ∃ t, exec (.packageReset mode r) s = .next t ∧ t.tasks = [] ∧ t.launches = [] ∧ t.parts = [] ∧ t.cyc = 0 ∧
         t.regs = State.reset.regs ∧ t.released = [] ∧ t.cmds = [] ∧ t.entries = [] ∧ t.snaps = [] ∧ t.pins = [] ∧ t.hostMem = s.hostMem ∧
         t.sideband = 0 ∧ t.bhp = min r.bhp 3 ∧ t.hatom = r.hatom ∧ ∀ a, a < 2 ^ 42 → Mem.read t.mem.cells a = 0) ∧
     (∀ nonce : BitVec 256, (s.sideband = 0 ∨ s.sideband = 4) → ∃ t, exec (.attestationRequest nonce) s = .next t ∧
       { t with report := s.report } = s ∧ ∀ k, k < 32 → nth 0 t.report k = nonce.extractLsb' (8 * k) 8) ∧
     (∀ m, m < 4 → s.ucie.getLsbD m = true → ∃ t, exec (.ucieModuleFail m) s = .next t ∧ t.ucie.getLsbD m = false ∧
       (∀ n, n ≠ m → t.ucie.getLsbD n = s.ucie.getLsbD n) ∧ t.regs.intcause.getLsbD 5 = true ∧ t.mem = s.mem))

/-! ### Events of Galtum Link -/

/-- R16, R109, R331, R359: what another package asks of a home here: reads and writes of bytes, a write that carries poison
poisoning its line, and pins. R335, R343, R346, R354, R359 to R363: a port trains at the highest link version it shares with its
peer, and stays as it is with none; lanes pause and resume; acknowledged flits leave the replay buffer; a NAK or a flit that
fails its CRC, which is answered with NAK, is a replay, counted against the port; eight replays in a row that fail retrain it; a
port that does not come back goes down and raises PORT. Model's choices: log entries 18, 21 to 24, 83 and 105. -/
def Obligations.LinkEvents : Prop :=
  (∀ (s : State) (src addr : Nat), s.anyPort = true → src ≠ s.regs.podid →
     (let l : Loc := .hbm (s.own addr)
      (∀ n, addr + n ≤ 2 ^ 39 → s.reachable l = true →
        ∃ t, exec (.req ⟨src, .now⟩ (.read addr n)) s = .next t ∧
          { t with rsps := s.rsps, fresh := s.fresh, ports := s.ports, routes := s.routes, peerq := s.peerq } = s ∧
          OnItsWay s t (.rsp ⟨src, if s.poisonedAt l n then 3 else 0, s.readHome l n⟩) s.rsps) ∧
      (∀ data : List Byte, addr + data.length ≤ 2 ^ 39 → Plain s l →
        ∀ bad : Bool, ∃ t, exec (.req ⟨src, .now⟩ (.write addr data bad)) s = .next t ∧ Wrote s t l data ∧
          OnItsWay s t (.rsp ⟨src, 0, []⟩) s.rsps ∧ t.parts = s.parts ∧
          (bad = true → t.mem.poison.contains (s.own addr / 128) = true)) ∧
      (∀ page, page < 2 ^ 21 →
        (let pg := (false, s.own (2 ^ 18 * page) / 2 ^ 18)
         (s.pinCount pg < 0xFFFF → ∃ t, exec (.req ⟨src, .now⟩ (.pin page true)) s = .next t ∧ t.pinCount pg = s.pinCount pg + 1 ∧ t.mem = s.mem) ∧
         ∃ t, exec (.req ⟨src, .now⟩ (.pin page false)) s = .next t ∧ t.pinCount pg = s.pinCount pg - 1 ∧ t.mem = s.mem)))) ∧
  (∀ (s : State) (n : Nat), n < 16 →
     (let x := s.port n
      let ce (t : State) : Prop := (t.errc (1216 + n)).2.2 = min 0xFFFFFFFF ((s.errc (1216 + n)).2.2 + 1)
      let flushed (t : State) (y : Port) : Prop :=
        { t.port n with replay := y.replay } = y ∧ y.replay ≤ (t.port n).replay ∧ (s.outbox = [] → s.peerq = [] → t.port n = y)
      let only (t : State) : Prop :=
        { t with ports := s.ports, lmsgs := s.lmsgs, routes := s.routes, outbox := s.outbox
                 rsps := s.rsps, wakes := s.wakes, peerq := s.peerq } = s ∧
          (s.outbox = [] → s.peerq = [] → { t with ports := s.ports } = s)
      (∀ (offer : LinkOffer) members, s.regs.lock = true → s.hostUp = true → (x.up = false ∨ x.training = true) →
        (let ver := min 3 offer.high
         ((1 ≤ ver ∧ offer.low ≤ ver) → ∃ t, exec (.linkTrain n offer false members) s = .next t ∧
           flushed t { x with up := true, training := false, ver := ver, fails := 0, rfails := 0 } ∧ t.mem = s.mem ∧
           (∀ m ∈ s.pod, m ∈ t.pod) ∧ ∀ m ∈ members, m < 768 → m ≠ s.regs.podid → m ∈ t.pod) ∧
         (¬ (1 ≤ ver ∧ offer.low ≤ ver) → exec (.linkTrain n offer false members) s = .next s)) ∧
        ∃ t, exec (.linkTrain n offer true members) s = .next t ∧ t.ports = s.ports ∧ t.regs.intcause.getLsbD 4 = true) ∧
      (x.up = true →
        (∀ lane, lane < 16 →
          (∃ t, exec (.pause n lane) s = .next t ∧ { t with ports := s.ports } = s ∧
            t.port n = { x with paused := x.paused ||| BitVec.twoPow 16 lane }) ∧
          ∃ t, exec (.resume n lane) s = .next t ∧ only t ∧
            flushed t { x with paused := x.paused &&& ~~~(BitVec.twoPow 16 lane) }) ∧
        (∀ k, (∃ t, exec (.ack n k) s = .next t ∧ only t ∧
            flushed t { x with replay := x.replay - k, fails := if k = 0 then x.fails else 0 }) ∧
          ∃ t, exec (.nak n k) s = .next t ∧ ce t ∧
            flushed t { x with replay := x.replay - k, resend := x.replay - k, fails := (if k = 0 then x.fails else 0) + 1 }) ∧
        (∃ t, exec (.flitCrcFail n) s = .next t ∧ t.port n = { x with rfails := x.rfails + 1 } ∧ t.lmsgs = .nak n :: s.lmsgs ∧ ce t) ∧
        ((9 ≤ x.fails ∨ 9 ≤ x.rfails) → ∃ t, exec (.portRetrain n) s = .next t ∧ { t with ports := s.ports } = s ∧
          t.port n = { x with training := true })) ∧
      (x.training = true → ∃ t, exec (.portDown n) s = .next t ∧ (t.port n).up = false ∧ t.regs.intcause.getLsbD 4 = true ∧
        ((∀ k, k < 16 → k ≠ n → (s.port k).up = false) → t.pod = []))))

end
end

