-- ==== Sys2Proof/Laws/Bits.lean ====
section
/-! SUPPORT. Fields of a word put together from its fields (R141 to R152): what the encoder writes is what the decoder reads. -/

namespace Sys2Proof

/-- A field that lies in the upper part of two parts joined. -/
theorem extract_hi {m n : Nat} (x : BitVec m) (y : BitVec n) (s l : Nat) (h : n ≤ s) :
    (x ++ y).extractLsb' s l = x.extractLsb' (s - n) l := by
  ext i hi
  simp only [BitVec.getElem_extractLsb', BitVec.getLsbD_append]
  rw [if_neg (by omega)]
  congr 1
  omega

/-- A field that lies in the lower part. -/
theorem extract_lo {m n : Nat} (x : BitVec m) (y : BitVec n) (s l : Nat) (h : s + l ≤ n) :
    (x ++ y).extractLsb' s l = y.extractLsb' s l := by
  ext i hi
  simp only [BitVec.getElem_extractLsb', BitVec.getLsbD_append]
  rw [if_pos (by omega)]

/-- The whole of a field. -/
theorem extract_full {n : Nat} (x : BitVec n) : x.extractLsb' 0 n = x := by
  ext i hi
  simp

/-- A word is the join of its fields at any cut. -/
theorem extract_join {n : Nat} (x : BitVec n) (a b c : Nat) : (x.extractLsb' (a + b) c ++ x.extractLsb' a b) = x.extractLsb' a (c + b) := by
  apply BitVec.eq_of_getLsbD_eq
  intro i hi
  simp only [BitVec.getLsbD_append, BitVec.getLsbD_extractLsb']
  by_cases h : i < b
  · simp [h, show i < c + b by omega]
  · simp only [h, if_false, hi, decide_true, Bool.true_and]
    rw [show a + b + (i - b) = a + i by omega]
    simp [show i - b < c by omega]

end Sys2Proof
end

