-- ==== Sys2Proof/Laws/State.lean ====
section
/-! SUPPORT. What each update of the state leaves alone: one lemma for each field and update, true by definition. -/

namespace Sys2Proof.Machine

/-! ### State.updPart -/

@[simp] theorem State.updPart_fresh (s : State) (p : Nat) (f : Part → Part) : (s.updPart p f).fresh = s.fresh := rfl
@[simp] theorem State.updPart_ans (s : State) (p : Nat) (f : Part → Part) : (s.updPart p f).ans = s.ans := rfl
@[simp] theorem State.updPart_agenda (s : State) (p : Nat) (f : Part → Part) : (s.updPart p f).agenda = s.agenda := rfl
@[simp] theorem State.updPart_focus (s : State) (p : Nat) (f : Part → Part) : (s.updPart p f).focus = s.focus := rfl
@[simp] theorem State.updPart_turn (s : State) (p : Nat) (f : Part → Part) : (s.updPart p f).turn = s.turn := rfl
@[simp] theorem State.updPart_slots (s : State) (p : Nat) (f : Part → Part) : (s.updPart p f).slots = s.slots := rfl
@[simp] theorem State.updPart_cyc (s : State) (p : Nat) (f : Part → Part) : (s.updPart p f).cyc = s.cyc := rfl
@[simp] theorem State.updPart_mem (s : State) (p : Nat) (f : Part → Part) : (s.updPart p f).mem = s.mem := rfl
@[simp] theorem State.updPart_hostMem (s : State) (p : Nat) (f : Part → Part) : (s.updPart p f).hostMem = s.hostMem := rfl
@[simp] theorem State.updPart_msc (s : State) (p : Nat) (f : Part → Part) : (s.updPart p f).msc = s.msc := rfl
@[simp] theorem State.updPart_pins (s : State) (p : Nat) (f : Part → Part) : (s.updPart p f).pins = s.pins := rfl
@[simp] theorem State.updPart_hostPins (s : State) (p : Nat) (f : Part → Part) : (s.updPart p f).hostPins = s.hostPins := rfl
@[simp] theorem State.updPart_regs (s : State) (p : Nat) (f : Part → Part) : (s.updPart p f).regs = s.regs := rfl
@[simp] theorem State.updPart_gens (s : State) (p : Nat) (f : Part → Part) : (s.updPart p f).gens = s.gens := rfl
@[simp] theorem State.updPart_cores (s : State) (p : Nat) (f : Part → Part) : (s.updPart p f).cores = s.cores := rfl
@[simp] theorem State.updPart_chart (s : State) (p : Nat) (f : Part → Part) : (s.updPart p f).chart = s.chart := rfl
@[simp] theorem State.updPart_launches (s : State) (p : Nat) (f : Part → Part) : (s.updPart p f).launches = s.launches := rfl
@[simp] theorem State.updPart_tasks (s : State) (p : Nat) (f : Part → Part) : (s.updPart p f).tasks = s.tasks := rfl
@[simp] theorem State.updPart_queues (s : State) (p : Nat) (f : Part → Part) : (s.updPart p f).queues = s.queues := rfl
@[simp] theorem State.updPart_levelPtr (s : State) (p : Nat) (f : Part → Part) : (s.updPart p f).levelPtr = s.levelPtr := rfl
@[simp] theorem State.updPart_lastLid (s : State) (p : Nat) (f : Part → Part) : (s.updPart p f).lastLid = s.lastLid := rfl
@[simp] theorem State.updPart_poolUsed (s : State) (p : Nat) (f : Part → Part) : (s.updPart p f).poolUsed = s.poolUsed := rfl
@[simp] theorem State.updPart_quiesces (s : State) (p : Nat) (f : Part → Part) : (s.updPart p f).quiesces = s.quiesces := rfl
@[simp] theorem State.updPart_released (s : State) (p : Nat) (f : Part → Part) : (s.updPart p f).released = s.released := rfl
@[simp] theorem State.updPart_cmds (s : State) (p : Nat) (f : Part → Part) : (s.updPart p f).cmds = s.cmds := rfl
@[simp] theorem State.updPart_rseq (s : State) (p : Nat) (f : Part → Part) : (s.updPart p f).rseq = s.rseq := rfl
@[simp] theorem State.updPart_dseq (s : State) (p : Nat) (f : Part → Part) : (s.updPart p f).dseq = s.dseq := rfl
@[simp] theorem State.updPart_entries (s : State) (p : Nat) (f : Part → Part) : (s.updPart p f).entries = s.entries := rfl
@[simp] theorem State.updPart_stray (s : State) (p : Nat) (f : Part → Part) : (s.updPart p f).stray = s.stray := rfl
@[simp] theorem State.updPart_snaps (s : State) (p : Nat) (f : Part → Part) : (s.updPart p f).snaps = s.snaps := rfl
@[simp] theorem State.updPart_ports (s : State) (p : Nat) (f : Part → Part) : (s.updPart p f).ports = s.ports := rfl
@[simp] theorem State.updPart_pod (s : State) (p : Nat) (f : Part → Part) : (s.updPart p f).pod = s.pod := rfl
@[simp] theorem State.updPart_ucie (s : State) (p : Nat) (f : Part → Part) : (s.updPart p f).ucie = s.ucie := rfl
@[simp] theorem State.updPart_bhp (s : State) (p : Nat) (f : Part → Part) : (s.updPart p f).bhp = s.bhp := rfl
@[simp] theorem State.updPart_hatom (s : State) (p : Nat) (f : Part → Part) : (s.updPart p f).hatom = s.hatom := rfl
@[simp] theorem State.updPart_cpls (s : State) (p : Nat) (f : Part → Part) : (s.updPart p f).cpls = s.cpls := rfl
@[simp] theorem State.updPart_ints (s : State) (p : Nat) (f : Part → Part) : (s.updPart p f).ints = s.ints := rfl
@[simp] theorem State.updPart_lmsgs (s : State) (p : Nat) (f : Part → Part) : (s.updPart p f).lmsgs = s.lmsgs := rfl
@[simp] theorem State.updPart_rsps (s : State) (p : Nat) (f : Part → Part) : (s.updPart p f).rsps = s.rsps := rfl
@[simp] theorem State.updPart_wakes (s : State) (p : Nat) (f : Part → Part) : (s.updPart p f).wakes = s.wakes := rfl
@[simp] theorem State.updPart_rmons (s : State) (p : Nat) (f : Part → Part) : (s.updPart p f).rmons = s.rmons := rfl
@[simp] theorem State.updPart_outbox (s : State) (p : Nat) (f : Part → Part) : (s.updPart p f).outbox = s.outbox := rfl
@[simp] theorem State.updPart_peerq (s : State) (p : Nat) (f : Part → Part) : (s.updPart p f).peerq = s.peerq := rfl
@[simp] theorem State.updPart_routes (s : State) (p : Nat) (f : Part → Part) : (s.updPart p f).routes = s.routes := rfl
@[simp] theorem State.updPart_farFull (s : State) (p : Nat) (f : Part → Part) : (s.updPart p f).farFull = s.farFull := rfl
@[simp] theorem State.updPart_isobar (s : State) (p : Nat) (f : Part → Part) : (s.updPart p f).isobar = s.isobar := rfl
@[simp] theorem State.updPart_measure (s : State) (p : Nat) (f : Part → Part) : (s.updPart p f).measure = s.measure := rfl
@[simp] theorem State.updPart_report (s : State) (p : Nat) (f : Part → Part) : (s.updPart p f).report = s.report := rfl
@[simp] theorem State.updPart_sideband (s : State) (p : Nat) (f : Part → Part) : (s.updPart p f).sideband = s.sideband := rfl
@[simp] theorem State.updPart_absent (s : State) (p : Nat) (f : Part → Part) : (s.updPart p f).absent = s.absent := rfl

/-! ### State.updMe -/

@[simp] theorem State.updMe_fresh (s : State) (f : Part → Part) : (s.updMe f).fresh = s.fresh := rfl
@[simp] theorem State.updMe_ans (s : State) (f : Part → Part) : (s.updMe f).ans = s.ans := rfl
@[simp] theorem State.updMe_agenda (s : State) (f : Part → Part) : (s.updMe f).agenda = s.agenda := rfl
@[simp] theorem State.updMe_focus (s : State) (f : Part → Part) : (s.updMe f).focus = s.focus := rfl
@[simp] theorem State.updMe_turn (s : State) (f : Part → Part) : (s.updMe f).turn = s.turn := rfl
@[simp] theorem State.updMe_slots (s : State) (f : Part → Part) : (s.updMe f).slots = s.slots := rfl
@[simp] theorem State.updMe_cyc (s : State) (f : Part → Part) : (s.updMe f).cyc = s.cyc := rfl
@[simp] theorem State.updMe_mem (s : State) (f : Part → Part) : (s.updMe f).mem = s.mem := rfl
@[simp] theorem State.updMe_hostMem (s : State) (f : Part → Part) : (s.updMe f).hostMem = s.hostMem := rfl
@[simp] theorem State.updMe_msc (s : State) (f : Part → Part) : (s.updMe f).msc = s.msc := rfl
@[simp] theorem State.updMe_pins (s : State) (f : Part → Part) : (s.updMe f).pins = s.pins := rfl
@[simp] theorem State.updMe_hostPins (s : State) (f : Part → Part) : (s.updMe f).hostPins = s.hostPins := rfl
@[simp] theorem State.updMe_regs (s : State) (f : Part → Part) : (s.updMe f).regs = s.regs := rfl
@[simp] theorem State.updMe_gens (s : State) (f : Part → Part) : (s.updMe f).gens = s.gens := rfl
@[simp] theorem State.updMe_cores (s : State) (f : Part → Part) : (s.updMe f).cores = s.cores := rfl
@[simp] theorem State.updMe_chart (s : State) (f : Part → Part) : (s.updMe f).chart = s.chart := rfl
@[simp] theorem State.updMe_launches (s : State) (f : Part → Part) : (s.updMe f).launches = s.launches := rfl
@[simp] theorem State.updMe_tasks (s : State) (f : Part → Part) : (s.updMe f).tasks = s.tasks := rfl
@[simp] theorem State.updMe_queues (s : State) (f : Part → Part) : (s.updMe f).queues = s.queues := rfl
@[simp] theorem State.updMe_levelPtr (s : State) (f : Part → Part) : (s.updMe f).levelPtr = s.levelPtr := rfl
@[simp] theorem State.updMe_lastLid (s : State) (f : Part → Part) : (s.updMe f).lastLid = s.lastLid := rfl
@[simp] theorem State.updMe_poolUsed (s : State) (f : Part → Part) : (s.updMe f).poolUsed = s.poolUsed := rfl
@[simp] theorem State.updMe_quiesces (s : State) (f : Part → Part) : (s.updMe f).quiesces = s.quiesces := rfl
@[simp] theorem State.updMe_released (s : State) (f : Part → Part) : (s.updMe f).released = s.released := rfl
@[simp] theorem State.updMe_cmds (s : State) (f : Part → Part) : (s.updMe f).cmds = s.cmds := rfl
@[simp] theorem State.updMe_rseq (s : State) (f : Part → Part) : (s.updMe f).rseq = s.rseq := rfl
@[simp] theorem State.updMe_dseq (s : State) (f : Part → Part) : (s.updMe f).dseq = s.dseq := rfl
@[simp] theorem State.updMe_entries (s : State) (f : Part → Part) : (s.updMe f).entries = s.entries := rfl
@[simp] theorem State.updMe_stray (s : State) (f : Part → Part) : (s.updMe f).stray = s.stray := rfl
@[simp] theorem State.updMe_snaps (s : State) (f : Part → Part) : (s.updMe f).snaps = s.snaps := rfl
@[simp] theorem State.updMe_ports (s : State) (f : Part → Part) : (s.updMe f).ports = s.ports := rfl
@[simp] theorem State.updMe_pod (s : State) (f : Part → Part) : (s.updMe f).pod = s.pod := rfl
@[simp] theorem State.updMe_ucie (s : State) (f : Part → Part) : (s.updMe f).ucie = s.ucie := rfl
@[simp] theorem State.updMe_bhp (s : State) (f : Part → Part) : (s.updMe f).bhp = s.bhp := rfl
@[simp] theorem State.updMe_hatom (s : State) (f : Part → Part) : (s.updMe f).hatom = s.hatom := rfl
@[simp] theorem State.updMe_cpls (s : State) (f : Part → Part) : (s.updMe f).cpls = s.cpls := rfl
@[simp] theorem State.updMe_ints (s : State) (f : Part → Part) : (s.updMe f).ints = s.ints := rfl
@[simp] theorem State.updMe_lmsgs (s : State) (f : Part → Part) : (s.updMe f).lmsgs = s.lmsgs := rfl
@[simp] theorem State.updMe_rsps (s : State) (f : Part → Part) : (s.updMe f).rsps = s.rsps := rfl
@[simp] theorem State.updMe_wakes (s : State) (f : Part → Part) : (s.updMe f).wakes = s.wakes := rfl
@[simp] theorem State.updMe_rmons (s : State) (f : Part → Part) : (s.updMe f).rmons = s.rmons := rfl
@[simp] theorem State.updMe_outbox (s : State) (f : Part → Part) : (s.updMe f).outbox = s.outbox := rfl
@[simp] theorem State.updMe_peerq (s : State) (f : Part → Part) : (s.updMe f).peerq = s.peerq := rfl
@[simp] theorem State.updMe_routes (s : State) (f : Part → Part) : (s.updMe f).routes = s.routes := rfl
@[simp] theorem State.updMe_farFull (s : State) (f : Part → Part) : (s.updMe f).farFull = s.farFull := rfl
@[simp] theorem State.updMe_isobar (s : State) (f : Part → Part) : (s.updMe f).isobar = s.isobar := rfl
@[simp] theorem State.updMe_measure (s : State) (f : Part → Part) : (s.updMe f).measure = s.measure := rfl
@[simp] theorem State.updMe_report (s : State) (f : Part → Part) : (s.updMe f).report = s.report := rfl
@[simp] theorem State.updMe_sideband (s : State) (f : Part → Part) : (s.updMe f).sideband = s.sideband := rfl
@[simp] theorem State.updMe_absent (s : State) (f : Part → Part) : (s.updMe f).absent = s.absent := rfl

/-! ### State.updCore -/

@[simp] theorem State.updCore_fresh (s : State) (c : Nat) (f : Core → Core) : (s.updCore c f).fresh = s.fresh := rfl
@[simp] theorem State.updCore_ans (s : State) (c : Nat) (f : Core → Core) : (s.updCore c f).ans = s.ans := rfl
@[simp] theorem State.updCore_agenda (s : State) (c : Nat) (f : Core → Core) : (s.updCore c f).agenda = s.agenda := rfl
@[simp] theorem State.updCore_focus (s : State) (c : Nat) (f : Core → Core) : (s.updCore c f).focus = s.focus := rfl
@[simp] theorem State.updCore_turn (s : State) (c : Nat) (f : Core → Core) : (s.updCore c f).turn = s.turn := rfl
@[simp] theorem State.updCore_slots (s : State) (c : Nat) (f : Core → Core) : (s.updCore c f).slots = s.slots := rfl
@[simp] theorem State.updCore_cyc (s : State) (c : Nat) (f : Core → Core) : (s.updCore c f).cyc = s.cyc := rfl
@[simp] theorem State.updCore_mem (s : State) (c : Nat) (f : Core → Core) : (s.updCore c f).mem = s.mem := rfl
@[simp] theorem State.updCore_hostMem (s : State) (c : Nat) (f : Core → Core) : (s.updCore c f).hostMem = s.hostMem := rfl
@[simp] theorem State.updCore_msc (s : State) (c : Nat) (f : Core → Core) : (s.updCore c f).msc = s.msc := rfl
@[simp] theorem State.updCore_pins (s : State) (c : Nat) (f : Core → Core) : (s.updCore c f).pins = s.pins := rfl
@[simp] theorem State.updCore_hostPins (s : State) (c : Nat) (f : Core → Core) : (s.updCore c f).hostPins = s.hostPins := rfl
@[simp] theorem State.updCore_regs (s : State) (c : Nat) (f : Core → Core) : (s.updCore c f).regs = s.regs := rfl
@[simp] theorem State.updCore_gens (s : State) (c : Nat) (f : Core → Core) : (s.updCore c f).gens = s.gens := rfl
@[simp] theorem State.updCore_parts (s : State) (c : Nat) (f : Core → Core) : (s.updCore c f).parts = s.parts := rfl
@[simp] theorem State.updCore_chart (s : State) (c : Nat) (f : Core → Core) : (s.updCore c f).chart = s.chart := rfl
@[simp] theorem State.updCore_launches (s : State) (c : Nat) (f : Core → Core) : (s.updCore c f).launches = s.launches := rfl
@[simp] theorem State.updCore_tasks (s : State) (c : Nat) (f : Core → Core) : (s.updCore c f).tasks = s.tasks := rfl
@[simp] theorem State.updCore_queues (s : State) (c : Nat) (f : Core → Core) : (s.updCore c f).queues = s.queues := rfl
@[simp] theorem State.updCore_levelPtr (s : State) (c : Nat) (f : Core → Core) : (s.updCore c f).levelPtr = s.levelPtr := rfl
@[simp] theorem State.updCore_lastLid (s : State) (c : Nat) (f : Core → Core) : (s.updCore c f).lastLid = s.lastLid := rfl
@[simp] theorem State.updCore_poolUsed (s : State) (c : Nat) (f : Core → Core) : (s.updCore c f).poolUsed = s.poolUsed := rfl
@[simp] theorem State.updCore_quiesces (s : State) (c : Nat) (f : Core → Core) : (s.updCore c f).quiesces = s.quiesces := rfl
@[simp] theorem State.updCore_released (s : State) (c : Nat) (f : Core → Core) : (s.updCore c f).released = s.released := rfl
@[simp] theorem State.updCore_cmds (s : State) (c : Nat) (f : Core → Core) : (s.updCore c f).cmds = s.cmds := rfl
@[simp] theorem State.updCore_rseq (s : State) (c : Nat) (f : Core → Core) : (s.updCore c f).rseq = s.rseq := rfl
@[simp] theorem State.updCore_dseq (s : State) (c : Nat) (f : Core → Core) : (s.updCore c f).dseq = s.dseq := rfl
@[simp] theorem State.updCore_entries (s : State) (c : Nat) (f : Core → Core) : (s.updCore c f).entries = s.entries := rfl
@[simp] theorem State.updCore_stray (s : State) (c : Nat) (f : Core → Core) : (s.updCore c f).stray = s.stray := rfl
@[simp] theorem State.updCore_snaps (s : State) (c : Nat) (f : Core → Core) : (s.updCore c f).snaps = s.snaps := rfl
@[simp] theorem State.updCore_ports (s : State) (c : Nat) (f : Core → Core) : (s.updCore c f).ports = s.ports := rfl
@[simp] theorem State.updCore_pod (s : State) (c : Nat) (f : Core → Core) : (s.updCore c f).pod = s.pod := rfl
@[simp] theorem State.updCore_ucie (s : State) (c : Nat) (f : Core → Core) : (s.updCore c f).ucie = s.ucie := rfl
@[simp] theorem State.updCore_bhp (s : State) (c : Nat) (f : Core → Core) : (s.updCore c f).bhp = s.bhp := rfl
@[simp] theorem State.updCore_hatom (s : State) (c : Nat) (f : Core → Core) : (s.updCore c f).hatom = s.hatom := rfl
@[simp] theorem State.updCore_cpls (s : State) (c : Nat) (f : Core → Core) : (s.updCore c f).cpls = s.cpls := rfl
@[simp] theorem State.updCore_ints (s : State) (c : Nat) (f : Core → Core) : (s.updCore c f).ints = s.ints := rfl
@[simp] theorem State.updCore_lmsgs (s : State) (c : Nat) (f : Core → Core) : (s.updCore c f).lmsgs = s.lmsgs := rfl
@[simp] theorem State.updCore_rsps (s : State) (c : Nat) (f : Core → Core) : (s.updCore c f).rsps = s.rsps := rfl
@[simp] theorem State.updCore_wakes (s : State) (c : Nat) (f : Core → Core) : (s.updCore c f).wakes = s.wakes := rfl
@[simp] theorem State.updCore_rmons (s : State) (c : Nat) (f : Core → Core) : (s.updCore c f).rmons = s.rmons := rfl
@[simp] theorem State.updCore_outbox (s : State) (c : Nat) (f : Core → Core) : (s.updCore c f).outbox = s.outbox := rfl
@[simp] theorem State.updCore_peerq (s : State) (c : Nat) (f : Core → Core) : (s.updCore c f).peerq = s.peerq := rfl
@[simp] theorem State.updCore_routes (s : State) (c : Nat) (f : Core → Core) : (s.updCore c f).routes = s.routes := rfl
@[simp] theorem State.updCore_farFull (s : State) (c : Nat) (f : Core → Core) : (s.updCore c f).farFull = s.farFull := rfl
@[simp] theorem State.updCore_isobar (s : State) (c : Nat) (f : Core → Core) : (s.updCore c f).isobar = s.isobar := rfl
@[simp] theorem State.updCore_measure (s : State) (c : Nat) (f : Core → Core) : (s.updCore c f).measure = s.measure := rfl
@[simp] theorem State.updCore_report (s : State) (c : Nat) (f : Core → Core) : (s.updCore c f).report = s.report := rfl
@[simp] theorem State.updCore_sideband (s : State) (c : Nat) (f : Core → Core) : (s.updCore c f).sideband = s.sideband := rfl
@[simp] theorem State.updCore_absent (s : State) (c : Nat) (f : Core → Core) : (s.updCore c f).absent = s.absent := rfl

/-! ### State.updTask -/

@[simp] theorem State.updTask_fresh (s : State) (id : W64) (f : Task → Task) : (s.updTask id f).fresh = s.fresh := rfl
@[simp] theorem State.updTask_ans (s : State) (id : W64) (f : Task → Task) : (s.updTask id f).ans = s.ans := rfl
@[simp] theorem State.updTask_agenda (s : State) (id : W64) (f : Task → Task) : (s.updTask id f).agenda = s.agenda := rfl
@[simp] theorem State.updTask_focus (s : State) (id : W64) (f : Task → Task) : (s.updTask id f).focus = s.focus := rfl
@[simp] theorem State.updTask_turn (s : State) (id : W64) (f : Task → Task) : (s.updTask id f).turn = s.turn := rfl
@[simp] theorem State.updTask_slots (s : State) (id : W64) (f : Task → Task) : (s.updTask id f).slots = s.slots := rfl
@[simp] theorem State.updTask_cyc (s : State) (id : W64) (f : Task → Task) : (s.updTask id f).cyc = s.cyc := rfl
@[simp] theorem State.updTask_mem (s : State) (id : W64) (f : Task → Task) : (s.updTask id f).mem = s.mem := rfl
@[simp] theorem State.updTask_hostMem (s : State) (id : W64) (f : Task → Task) : (s.updTask id f).hostMem = s.hostMem := rfl
@[simp] theorem State.updTask_msc (s : State) (id : W64) (f : Task → Task) : (s.updTask id f).msc = s.msc := rfl
@[simp] theorem State.updTask_pins (s : State) (id : W64) (f : Task → Task) : (s.updTask id f).pins = s.pins := rfl
@[simp] theorem State.updTask_hostPins (s : State) (id : W64) (f : Task → Task) : (s.updTask id f).hostPins = s.hostPins := rfl
@[simp] theorem State.updTask_regs (s : State) (id : W64) (f : Task → Task) : (s.updTask id f).regs = s.regs := rfl
@[simp] theorem State.updTask_gens (s : State) (id : W64) (f : Task → Task) : (s.updTask id f).gens = s.gens := rfl
@[simp] theorem State.updTask_parts (s : State) (id : W64) (f : Task → Task) : (s.updTask id f).parts = s.parts := rfl
@[simp] theorem State.updTask_cores (s : State) (id : W64) (f : Task → Task) : (s.updTask id f).cores = s.cores := rfl
@[simp] theorem State.updTask_chart (s : State) (id : W64) (f : Task → Task) : (s.updTask id f).chart = s.chart := rfl
@[simp] theorem State.updTask_launches (s : State) (id : W64) (f : Task → Task) : (s.updTask id f).launches = s.launches := rfl
@[simp] theorem State.updTask_queues (s : State) (id : W64) (f : Task → Task) : (s.updTask id f).queues = s.queues := rfl
@[simp] theorem State.updTask_levelPtr (s : State) (id : W64) (f : Task → Task) : (s.updTask id f).levelPtr = s.levelPtr := rfl
@[simp] theorem State.updTask_lastLid (s : State) (id : W64) (f : Task → Task) : (s.updTask id f).lastLid = s.lastLid := rfl
@[simp] theorem State.updTask_poolUsed (s : State) (id : W64) (f : Task → Task) : (s.updTask id f).poolUsed = s.poolUsed := rfl
@[simp] theorem State.updTask_quiesces (s : State) (id : W64) (f : Task → Task) : (s.updTask id f).quiesces = s.quiesces := rfl
@[simp] theorem State.updTask_released (s : State) (id : W64) (f : Task → Task) : (s.updTask id f).released = s.released := rfl
@[simp] theorem State.updTask_cmds (s : State) (id : W64) (f : Task → Task) : (s.updTask id f).cmds = s.cmds := rfl
@[simp] theorem State.updTask_rseq (s : State) (id : W64) (f : Task → Task) : (s.updTask id f).rseq = s.rseq := rfl
@[simp] theorem State.updTask_dseq (s : State) (id : W64) (f : Task → Task) : (s.updTask id f).dseq = s.dseq := rfl
@[simp] theorem State.updTask_entries (s : State) (id : W64) (f : Task → Task) : (s.updTask id f).entries = s.entries := rfl
@[simp] theorem State.updTask_stray (s : State) (id : W64) (f : Task → Task) : (s.updTask id f).stray = s.stray := rfl
@[simp] theorem State.updTask_snaps (s : State) (id : W64) (f : Task → Task) : (s.updTask id f).snaps = s.snaps := rfl
@[simp] theorem State.updTask_ports (s : State) (id : W64) (f : Task → Task) : (s.updTask id f).ports = s.ports := rfl
@[simp] theorem State.updTask_pod (s : State) (id : W64) (f : Task → Task) : (s.updTask id f).pod = s.pod := rfl
@[simp] theorem State.updTask_ucie (s : State) (id : W64) (f : Task → Task) : (s.updTask id f).ucie = s.ucie := rfl
@[simp] theorem State.updTask_bhp (s : State) (id : W64) (f : Task → Task) : (s.updTask id f).bhp = s.bhp := rfl
@[simp] theorem State.updTask_hatom (s : State) (id : W64) (f : Task → Task) : (s.updTask id f).hatom = s.hatom := rfl
@[simp] theorem State.updTask_cpls (s : State) (id : W64) (f : Task → Task) : (s.updTask id f).cpls = s.cpls := rfl
@[simp] theorem State.updTask_ints (s : State) (id : W64) (f : Task → Task) : (s.updTask id f).ints = s.ints := rfl
@[simp] theorem State.updTask_lmsgs (s : State) (id : W64) (f : Task → Task) : (s.updTask id f).lmsgs = s.lmsgs := rfl
@[simp] theorem State.updTask_rsps (s : State) (id : W64) (f : Task → Task) : (s.updTask id f).rsps = s.rsps := rfl
@[simp] theorem State.updTask_wakes (s : State) (id : W64) (f : Task → Task) : (s.updTask id f).wakes = s.wakes := rfl
@[simp] theorem State.updTask_rmons (s : State) (id : W64) (f : Task → Task) : (s.updTask id f).rmons = s.rmons := rfl
@[simp] theorem State.updTask_outbox (s : State) (id : W64) (f : Task → Task) : (s.updTask id f).outbox = s.outbox := rfl
@[simp] theorem State.updTask_peerq (s : State) (id : W64) (f : Task → Task) : (s.updTask id f).peerq = s.peerq := rfl
@[simp] theorem State.updTask_routes (s : State) (id : W64) (f : Task → Task) : (s.updTask id f).routes = s.routes := rfl
@[simp] theorem State.updTask_farFull (s : State) (id : W64) (f : Task → Task) : (s.updTask id f).farFull = s.farFull := rfl
@[simp] theorem State.updTask_isobar (s : State) (id : W64) (f : Task → Task) : (s.updTask id f).isobar = s.isobar := rfl
@[simp] theorem State.updTask_measure (s : State) (id : W64) (f : Task → Task) : (s.updTask id f).measure = s.measure := rfl
@[simp] theorem State.updTask_report (s : State) (id : W64) (f : Task → Task) : (s.updTask id f).report = s.report := rfl
@[simp] theorem State.updTask_sideband (s : State) (id : W64) (f : Task → Task) : (s.updTask id f).sideband = s.sideband := rfl
@[simp] theorem State.updTask_absent (s : State) (id : W64) (f : Task → Task) : (s.updTask id f).absent = s.absent := rfl

/-! ### State.updLaunch -/

@[simp] theorem State.updLaunch_fresh (s : State) (l : BitVec 32) (f : Launch → Launch) : (s.updLaunch l f).fresh = s.fresh := rfl
@[simp] theorem State.updLaunch_ans (s : State) (l : BitVec 32) (f : Launch → Launch) : (s.updLaunch l f).ans = s.ans := rfl
@[simp] theorem State.updLaunch_agenda (s : State) (l : BitVec 32) (f : Launch → Launch) : (s.updLaunch l f).agenda = s.agenda := rfl
@[simp] theorem State.updLaunch_focus (s : State) (l : BitVec 32) (f : Launch → Launch) : (s.updLaunch l f).focus = s.focus := rfl
@[simp] theorem State.updLaunch_turn (s : State) (l : BitVec 32) (f : Launch → Launch) : (s.updLaunch l f).turn = s.turn := rfl
@[simp] theorem State.updLaunch_slots (s : State) (l : BitVec 32) (f : Launch → Launch) : (s.updLaunch l f).slots = s.slots := rfl
@[simp] theorem State.updLaunch_cyc (s : State) (l : BitVec 32) (f : Launch → Launch) : (s.updLaunch l f).cyc = s.cyc := rfl
@[simp] theorem State.updLaunch_mem (s : State) (l : BitVec 32) (f : Launch → Launch) : (s.updLaunch l f).mem = s.mem := rfl
@[simp] theorem State.updLaunch_hostMem (s : State) (l : BitVec 32) (f : Launch → Launch) : (s.updLaunch l f).hostMem = s.hostMem := rfl
@[simp] theorem State.updLaunch_msc (s : State) (l : BitVec 32) (f : Launch → Launch) : (s.updLaunch l f).msc = s.msc := rfl
@[simp] theorem State.updLaunch_pins (s : State) (l : BitVec 32) (f : Launch → Launch) : (s.updLaunch l f).pins = s.pins := rfl
@[simp] theorem State.updLaunch_hostPins (s : State) (l : BitVec 32) (f : Launch → Launch) : (s.updLaunch l f).hostPins = s.hostPins := rfl
@[simp] theorem State.updLaunch_regs (s : State) (l : BitVec 32) (f : Launch → Launch) : (s.updLaunch l f).regs = s.regs := rfl
@[simp] theorem State.updLaunch_gens (s : State) (l : BitVec 32) (f : Launch → Launch) : (s.updLaunch l f).gens = s.gens := rfl
@[simp] theorem State.updLaunch_parts (s : State) (l : BitVec 32) (f : Launch → Launch) : (s.updLaunch l f).parts = s.parts := rfl
@[simp] theorem State.updLaunch_cores (s : State) (l : BitVec 32) (f : Launch → Launch) : (s.updLaunch l f).cores = s.cores := rfl
@[simp] theorem State.updLaunch_chart (s : State) (l : BitVec 32) (f : Launch → Launch) : (s.updLaunch l f).chart = s.chart := rfl
@[simp] theorem State.updLaunch_tasks (s : State) (l : BitVec 32) (f : Launch → Launch) : (s.updLaunch l f).tasks = s.tasks := rfl
@[simp] theorem State.updLaunch_queues (s : State) (l : BitVec 32) (f : Launch → Launch) : (s.updLaunch l f).queues = s.queues := rfl
@[simp] theorem State.updLaunch_levelPtr (s : State) (l : BitVec 32) (f : Launch → Launch) : (s.updLaunch l f).levelPtr = s.levelPtr := rfl
@[simp] theorem State.updLaunch_lastLid (s : State) (l : BitVec 32) (f : Launch → Launch) : (s.updLaunch l f).lastLid = s.lastLid := rfl
@[simp] theorem State.updLaunch_poolUsed (s : State) (l : BitVec 32) (f : Launch → Launch) : (s.updLaunch l f).poolUsed = s.poolUsed := rfl
@[simp] theorem State.updLaunch_quiesces (s : State) (l : BitVec 32) (f : Launch → Launch) : (s.updLaunch l f).quiesces = s.quiesces := rfl
@[simp] theorem State.updLaunch_released (s : State) (l : BitVec 32) (f : Launch → Launch) : (s.updLaunch l f).released = s.released := rfl
@[simp] theorem State.updLaunch_cmds (s : State) (l : BitVec 32) (f : Launch → Launch) : (s.updLaunch l f).cmds = s.cmds := rfl
@[simp] theorem State.updLaunch_rseq (s : State) (l : BitVec 32) (f : Launch → Launch) : (s.updLaunch l f).rseq = s.rseq := rfl
@[simp] theorem State.updLaunch_dseq (s : State) (l : BitVec 32) (f : Launch → Launch) : (s.updLaunch l f).dseq = s.dseq := rfl
@[simp] theorem State.updLaunch_entries (s : State) (l : BitVec 32) (f : Launch → Launch) : (s.updLaunch l f).entries = s.entries := rfl
@[simp] theorem State.updLaunch_stray (s : State) (l : BitVec 32) (f : Launch → Launch) : (s.updLaunch l f).stray = s.stray := rfl
@[simp] theorem State.updLaunch_snaps (s : State) (l : BitVec 32) (f : Launch → Launch) : (s.updLaunch l f).snaps = s.snaps := rfl
@[simp] theorem State.updLaunch_ports (s : State) (l : BitVec 32) (f : Launch → Launch) : (s.updLaunch l f).ports = s.ports := rfl
@[simp] theorem State.updLaunch_pod (s : State) (l : BitVec 32) (f : Launch → Launch) : (s.updLaunch l f).pod = s.pod := rfl
@[simp] theorem State.updLaunch_ucie (s : State) (l : BitVec 32) (f : Launch → Launch) : (s.updLaunch l f).ucie = s.ucie := rfl
@[simp] theorem State.updLaunch_bhp (s : State) (l : BitVec 32) (f : Launch → Launch) : (s.updLaunch l f).bhp = s.bhp := rfl
@[simp] theorem State.updLaunch_hatom (s : State) (l : BitVec 32) (f : Launch → Launch) : (s.updLaunch l f).hatom = s.hatom := rfl
@[simp] theorem State.updLaunch_cpls (s : State) (l : BitVec 32) (f : Launch → Launch) : (s.updLaunch l f).cpls = s.cpls := rfl
@[simp] theorem State.updLaunch_ints (s : State) (l : BitVec 32) (f : Launch → Launch) : (s.updLaunch l f).ints = s.ints := rfl
@[simp] theorem State.updLaunch_lmsgs (s : State) (l : BitVec 32) (f : Launch → Launch) : (s.updLaunch l f).lmsgs = s.lmsgs := rfl
@[simp] theorem State.updLaunch_rsps (s : State) (l : BitVec 32) (f : Launch → Launch) : (s.updLaunch l f).rsps = s.rsps := rfl
@[simp] theorem State.updLaunch_wakes (s : State) (l : BitVec 32) (f : Launch → Launch) : (s.updLaunch l f).wakes = s.wakes := rfl
@[simp] theorem State.updLaunch_rmons (s : State) (l : BitVec 32) (f : Launch → Launch) : (s.updLaunch l f).rmons = s.rmons := rfl
@[simp] theorem State.updLaunch_outbox (s : State) (l : BitVec 32) (f : Launch → Launch) : (s.updLaunch l f).outbox = s.outbox := rfl
@[simp] theorem State.updLaunch_peerq (s : State) (l : BitVec 32) (f : Launch → Launch) : (s.updLaunch l f).peerq = s.peerq := rfl
@[simp] theorem State.updLaunch_routes (s : State) (l : BitVec 32) (f : Launch → Launch) : (s.updLaunch l f).routes = s.routes := rfl
@[simp] theorem State.updLaunch_farFull (s : State) (l : BitVec 32) (f : Launch → Launch) : (s.updLaunch l f).farFull = s.farFull := rfl
@[simp] theorem State.updLaunch_isobar (s : State) (l : BitVec 32) (f : Launch → Launch) : (s.updLaunch l f).isobar = s.isobar := rfl
@[simp] theorem State.updLaunch_measure (s : State) (l : BitVec 32) (f : Launch → Launch) : (s.updLaunch l f).measure = s.measure := rfl
@[simp] theorem State.updLaunch_report (s : State) (l : BitVec 32) (f : Launch → Launch) : (s.updLaunch l f).report = s.report := rfl
@[simp] theorem State.updLaunch_sideband (s : State) (l : BitVec 32) (f : Launch → Launch) : (s.updLaunch l f).sideband = s.sideband := rfl
@[simp] theorem State.updLaunch_absent (s : State) (l : BitVec 32) (f : Launch → Launch) : (s.updLaunch l f).absent = s.absent := rfl

/-! ### State.draw -/

@[simp] theorem State.draw_ans (s : State) : (s.draw).ans = s.ans := rfl
@[simp] theorem State.draw_agenda (s : State) : (s.draw).agenda = s.agenda := rfl
@[simp] theorem State.draw_focus (s : State) : (s.draw).focus = s.focus := rfl
@[simp] theorem State.draw_turn (s : State) : (s.draw).turn = s.turn := rfl
@[simp] theorem State.draw_slots (s : State) : (s.draw).slots = s.slots := rfl
@[simp] theorem State.draw_cyc (s : State) : (s.draw).cyc = s.cyc := rfl
@[simp] theorem State.draw_mem (s : State) : (s.draw).mem = s.mem := rfl
@[simp] theorem State.draw_hostMem (s : State) : (s.draw).hostMem = s.hostMem := rfl
@[simp] theorem State.draw_msc (s : State) : (s.draw).msc = s.msc := rfl
@[simp] theorem State.draw_pins (s : State) : (s.draw).pins = s.pins := rfl
@[simp] theorem State.draw_hostPins (s : State) : (s.draw).hostPins = s.hostPins := rfl
@[simp] theorem State.draw_regs (s : State) : (s.draw).regs = s.regs := rfl
@[simp] theorem State.draw_gens (s : State) : (s.draw).gens = s.gens := rfl
@[simp] theorem State.draw_parts (s : State) : (s.draw).parts = s.parts := rfl
@[simp] theorem State.draw_cores (s : State) : (s.draw).cores = s.cores := rfl
@[simp] theorem State.draw_chart (s : State) : (s.draw).chart = s.chart := rfl
@[simp] theorem State.draw_launches (s : State) : (s.draw).launches = s.launches := rfl
@[simp] theorem State.draw_tasks (s : State) : (s.draw).tasks = s.tasks := rfl
@[simp] theorem State.draw_queues (s : State) : (s.draw).queues = s.queues := rfl
@[simp] theorem State.draw_levelPtr (s : State) : (s.draw).levelPtr = s.levelPtr := rfl
@[simp] theorem State.draw_lastLid (s : State) : (s.draw).lastLid = s.lastLid := rfl
@[simp] theorem State.draw_poolUsed (s : State) : (s.draw).poolUsed = s.poolUsed := rfl
@[simp] theorem State.draw_quiesces (s : State) : (s.draw).quiesces = s.quiesces := rfl
@[simp] theorem State.draw_released (s : State) : (s.draw).released = s.released := rfl
@[simp] theorem State.draw_cmds (s : State) : (s.draw).cmds = s.cmds := rfl
@[simp] theorem State.draw_rseq (s : State) : (s.draw).rseq = s.rseq := rfl
@[simp] theorem State.draw_dseq (s : State) : (s.draw).dseq = s.dseq := rfl
@[simp] theorem State.draw_entries (s : State) : (s.draw).entries = s.entries := rfl
@[simp] theorem State.draw_stray (s : State) : (s.draw).stray = s.stray := rfl
@[simp] theorem State.draw_snaps (s : State) : (s.draw).snaps = s.snaps := rfl
@[simp] theorem State.draw_ports (s : State) : (s.draw).ports = s.ports := rfl
@[simp] theorem State.draw_pod (s : State) : (s.draw).pod = s.pod := rfl
@[simp] theorem State.draw_ucie (s : State) : (s.draw).ucie = s.ucie := rfl
@[simp] theorem State.draw_bhp (s : State) : (s.draw).bhp = s.bhp := rfl
@[simp] theorem State.draw_hatom (s : State) : (s.draw).hatom = s.hatom := rfl
@[simp] theorem State.draw_cpls (s : State) : (s.draw).cpls = s.cpls := rfl
@[simp] theorem State.draw_ints (s : State) : (s.draw).ints = s.ints := rfl
@[simp] theorem State.draw_lmsgs (s : State) : (s.draw).lmsgs = s.lmsgs := rfl
@[simp] theorem State.draw_rsps (s : State) : (s.draw).rsps = s.rsps := rfl
@[simp] theorem State.draw_wakes (s : State) : (s.draw).wakes = s.wakes := rfl
@[simp] theorem State.draw_rmons (s : State) : (s.draw).rmons = s.rmons := rfl
@[simp] theorem State.draw_outbox (s : State) : (s.draw).outbox = s.outbox := rfl
@[simp] theorem State.draw_peerq (s : State) : (s.draw).peerq = s.peerq := rfl
@[simp] theorem State.draw_routes (s : State) : (s.draw).routes = s.routes := rfl
@[simp] theorem State.draw_farFull (s : State) : (s.draw).farFull = s.farFull := rfl
@[simp] theorem State.draw_isobar (s : State) : (s.draw).isobar = s.isobar := rfl
@[simp] theorem State.draw_measure (s : State) : (s.draw).measure = s.measure := rfl
@[simp] theorem State.draw_report (s : State) : (s.draw).report = s.report := rfl
@[simp] theorem State.draw_sideband (s : State) : (s.draw).sideband = s.sideband := rfl
@[simp] theorem State.draw_absent (s : State) : (s.draw).absent = s.absent := rfl

/-! ### State.putMem -/

@[simp] theorem State.putMem_ans (s : State) (a : Nat) (bs : List Byte) : (s.putMem a bs).ans = s.ans := rfl
@[simp] theorem State.putMem_agenda (s : State) (a : Nat) (bs : List Byte) : (s.putMem a bs).agenda = s.agenda := rfl
@[simp] theorem State.putMem_focus (s : State) (a : Nat) (bs : List Byte) : (s.putMem a bs).focus = s.focus := rfl
@[simp] theorem State.putMem_turn (s : State) (a : Nat) (bs : List Byte) : (s.putMem a bs).turn = s.turn := rfl
@[simp] theorem State.putMem_slots (s : State) (a : Nat) (bs : List Byte) : (s.putMem a bs).slots = s.slots := rfl
@[simp] theorem State.putMem_cyc (s : State) (a : Nat) (bs : List Byte) : (s.putMem a bs).cyc = s.cyc := rfl
@[simp] theorem State.putMem_hostMem (s : State) (a : Nat) (bs : List Byte) : (s.putMem a bs).hostMem = s.hostMem := rfl
@[simp] theorem State.putMem_pins (s : State) (a : Nat) (bs : List Byte) : (s.putMem a bs).pins = s.pins := rfl
@[simp] theorem State.putMem_hostPins (s : State) (a : Nat) (bs : List Byte) : (s.putMem a bs).hostPins = s.hostPins := rfl
@[simp] theorem State.putMem_regs (s : State) (a : Nat) (bs : List Byte) : (s.putMem a bs).regs = s.regs := rfl
@[simp] theorem State.putMem_gens (s : State) (a : Nat) (bs : List Byte) : (s.putMem a bs).gens = s.gens := rfl
@[simp] theorem State.putMem_parts (s : State) (a : Nat) (bs : List Byte) : (s.putMem a bs).parts = s.parts := rfl
@[simp] theorem State.putMem_cores (s : State) (a : Nat) (bs : List Byte) : (s.putMem a bs).cores = s.cores := rfl
@[simp] theorem State.putMem_chart (s : State) (a : Nat) (bs : List Byte) : (s.putMem a bs).chart = s.chart := rfl
@[simp] theorem State.putMem_launches (s : State) (a : Nat) (bs : List Byte) : (s.putMem a bs).launches = s.launches := rfl
@[simp] theorem State.putMem_tasks (s : State) (a : Nat) (bs : List Byte) : (s.putMem a bs).tasks = s.tasks := rfl
@[simp] theorem State.putMem_queues (s : State) (a : Nat) (bs : List Byte) : (s.putMem a bs).queues = s.queues := rfl
@[simp] theorem State.putMem_levelPtr (s : State) (a : Nat) (bs : List Byte) : (s.putMem a bs).levelPtr = s.levelPtr := rfl
@[simp] theorem State.putMem_lastLid (s : State) (a : Nat) (bs : List Byte) : (s.putMem a bs).lastLid = s.lastLid := rfl
@[simp] theorem State.putMem_poolUsed (s : State) (a : Nat) (bs : List Byte) : (s.putMem a bs).poolUsed = s.poolUsed := rfl
@[simp] theorem State.putMem_quiesces (s : State) (a : Nat) (bs : List Byte) : (s.putMem a bs).quiesces = s.quiesces := rfl
@[simp] theorem State.putMem_released (s : State) (a : Nat) (bs : List Byte) : (s.putMem a bs).released = s.released := rfl
@[simp] theorem State.putMem_cmds (s : State) (a : Nat) (bs : List Byte) : (s.putMem a bs).cmds = s.cmds := rfl
@[simp] theorem State.putMem_rseq (s : State) (a : Nat) (bs : List Byte) : (s.putMem a bs).rseq = s.rseq := rfl
@[simp] theorem State.putMem_dseq (s : State) (a : Nat) (bs : List Byte) : (s.putMem a bs).dseq = s.dseq := rfl
@[simp] theorem State.putMem_entries (s : State) (a : Nat) (bs : List Byte) : (s.putMem a bs).entries = s.entries := rfl
@[simp] theorem State.putMem_stray (s : State) (a : Nat) (bs : List Byte) : (s.putMem a bs).stray = s.stray := rfl
@[simp] theorem State.putMem_ports (s : State) (a : Nat) (bs : List Byte) : (s.putMem a bs).ports = s.ports := rfl
@[simp] theorem State.putMem_pod (s : State) (a : Nat) (bs : List Byte) : (s.putMem a bs).pod = s.pod := rfl
@[simp] theorem State.putMem_ucie (s : State) (a : Nat) (bs : List Byte) : (s.putMem a bs).ucie = s.ucie := rfl
@[simp] theorem State.putMem_bhp (s : State) (a : Nat) (bs : List Byte) : (s.putMem a bs).bhp = s.bhp := rfl
@[simp] theorem State.putMem_hatom (s : State) (a : Nat) (bs : List Byte) : (s.putMem a bs).hatom = s.hatom := rfl
@[simp] theorem State.putMem_cpls (s : State) (a : Nat) (bs : List Byte) : (s.putMem a bs).cpls = s.cpls := rfl
@[simp] theorem State.putMem_ints (s : State) (a : Nat) (bs : List Byte) : (s.putMem a bs).ints = s.ints := rfl
@[simp] theorem State.putMem_lmsgs (s : State) (a : Nat) (bs : List Byte) : (s.putMem a bs).lmsgs = s.lmsgs := rfl
@[simp] theorem State.putMem_rsps (s : State) (a : Nat) (bs : List Byte) : (s.putMem a bs).rsps = s.rsps := rfl
@[simp] theorem State.putMem_wakes (s : State) (a : Nat) (bs : List Byte) : (s.putMem a bs).wakes = s.wakes := rfl
@[simp] theorem State.putMem_rmons (s : State) (a : Nat) (bs : List Byte) : (s.putMem a bs).rmons = s.rmons := rfl
@[simp] theorem State.putMem_outbox (s : State) (a : Nat) (bs : List Byte) : (s.putMem a bs).outbox = s.outbox := rfl
@[simp] theorem State.putMem_peerq (s : State) (a : Nat) (bs : List Byte) : (s.putMem a bs).peerq = s.peerq := rfl
@[simp] theorem State.putMem_routes (s : State) (a : Nat) (bs : List Byte) : (s.putMem a bs).routes = s.routes := rfl
@[simp] theorem State.putMem_farFull (s : State) (a : Nat) (bs : List Byte) : (s.putMem a bs).farFull = s.farFull := rfl
@[simp] theorem State.putMem_isobar (s : State) (a : Nat) (bs : List Byte) : (s.putMem a bs).isobar = s.isobar := rfl
@[simp] theorem State.putMem_measure (s : State) (a : Nat) (bs : List Byte) : (s.putMem a bs).measure = s.measure := rfl
@[simp] theorem State.putMem_report (s : State) (a : Nat) (bs : List Byte) : (s.putMem a bs).report = s.report := rfl
@[simp] theorem State.putMem_sideband (s : State) (a : Nat) (bs : List Byte) : (s.putMem a bs).sideband = s.sideband := rfl
@[simp] theorem State.putMem_absent (s : State) (a : Nat) (bs : List Byte) : (s.putMem a bs).absent = s.absent := rfl

/-! ### State.countErr -/

@[simp] theorem State.countErr_fresh (s : State) (i due mis ce : Nat) : (s.countErr i due mis ce).fresh = s.fresh := rfl
@[simp] theorem State.countErr_ans (s : State) (i due mis ce : Nat) : (s.countErr i due mis ce).ans = s.ans := rfl
@[simp] theorem State.countErr_agenda (s : State) (i due mis ce : Nat) : (s.countErr i due mis ce).agenda = s.agenda := rfl
@[simp] theorem State.countErr_focus (s : State) (i due mis ce : Nat) : (s.countErr i due mis ce).focus = s.focus := rfl
@[simp] theorem State.countErr_turn (s : State) (i due mis ce : Nat) : (s.countErr i due mis ce).turn = s.turn := rfl
@[simp] theorem State.countErr_slots (s : State) (i due mis ce : Nat) : (s.countErr i due mis ce).slots = s.slots := rfl
@[simp] theorem State.countErr_cyc (s : State) (i due mis ce : Nat) : (s.countErr i due mis ce).cyc = s.cyc := rfl
@[simp] theorem State.countErr_mem (s : State) (i due mis ce : Nat) : (s.countErr i due mis ce).mem = s.mem := rfl
@[simp] theorem State.countErr_hostMem (s : State) (i due mis ce : Nat) : (s.countErr i due mis ce).hostMem = s.hostMem := rfl
@[simp] theorem State.countErr_msc (s : State) (i due mis ce : Nat) : (s.countErr i due mis ce).msc = s.msc := rfl
@[simp] theorem State.countErr_pins (s : State) (i due mis ce : Nat) : (s.countErr i due mis ce).pins = s.pins := rfl
@[simp] theorem State.countErr_hostPins (s : State) (i due mis ce : Nat) : (s.countErr i due mis ce).hostPins = s.hostPins := rfl
@[simp] theorem State.countErr_gens (s : State) (i due mis ce : Nat) : (s.countErr i due mis ce).gens = s.gens := rfl
@[simp] theorem State.countErr_parts (s : State) (i due mis ce : Nat) : (s.countErr i due mis ce).parts = s.parts := rfl
@[simp] theorem State.countErr_cores (s : State) (i due mis ce : Nat) : (s.countErr i due mis ce).cores = s.cores := rfl
@[simp] theorem State.countErr_chart (s : State) (i due mis ce : Nat) : (s.countErr i due mis ce).chart = s.chart := rfl
@[simp] theorem State.countErr_launches (s : State) (i due mis ce : Nat) : (s.countErr i due mis ce).launches = s.launches := rfl
@[simp] theorem State.countErr_tasks (s : State) (i due mis ce : Nat) : (s.countErr i due mis ce).tasks = s.tasks := rfl
@[simp] theorem State.countErr_queues (s : State) (i due mis ce : Nat) : (s.countErr i due mis ce).queues = s.queues := rfl
@[simp] theorem State.countErr_levelPtr (s : State) (i due mis ce : Nat) : (s.countErr i due mis ce).levelPtr = s.levelPtr := rfl
@[simp] theorem State.countErr_lastLid (s : State) (i due mis ce : Nat) : (s.countErr i due mis ce).lastLid = s.lastLid := rfl
@[simp] theorem State.countErr_poolUsed (s : State) (i due mis ce : Nat) : (s.countErr i due mis ce).poolUsed = s.poolUsed := rfl
@[simp] theorem State.countErr_quiesces (s : State) (i due mis ce : Nat) : (s.countErr i due mis ce).quiesces = s.quiesces := rfl
@[simp] theorem State.countErr_released (s : State) (i due mis ce : Nat) : (s.countErr i due mis ce).released = s.released := rfl
@[simp] theorem State.countErr_cmds (s : State) (i due mis ce : Nat) : (s.countErr i due mis ce).cmds = s.cmds := rfl
@[simp] theorem State.countErr_rseq (s : State) (i due mis ce : Nat) : (s.countErr i due mis ce).rseq = s.rseq := rfl
@[simp] theorem State.countErr_dseq (s : State) (i due mis ce : Nat) : (s.countErr i due mis ce).dseq = s.dseq := rfl
@[simp] theorem State.countErr_entries (s : State) (i due mis ce : Nat) : (s.countErr i due mis ce).entries = s.entries := rfl
@[simp] theorem State.countErr_stray (s : State) (i due mis ce : Nat) : (s.countErr i due mis ce).stray = s.stray := rfl
@[simp] theorem State.countErr_snaps (s : State) (i due mis ce : Nat) : (s.countErr i due mis ce).snaps = s.snaps := rfl
@[simp] theorem State.countErr_ports (s : State) (i due mis ce : Nat) : (s.countErr i due mis ce).ports = s.ports := rfl
@[simp] theorem State.countErr_pod (s : State) (i due mis ce : Nat) : (s.countErr i due mis ce).pod = s.pod := rfl
@[simp] theorem State.countErr_ucie (s : State) (i due mis ce : Nat) : (s.countErr i due mis ce).ucie = s.ucie := rfl
@[simp] theorem State.countErr_bhp (s : State) (i due mis ce : Nat) : (s.countErr i due mis ce).bhp = s.bhp := rfl
@[simp] theorem State.countErr_hatom (s : State) (i due mis ce : Nat) : (s.countErr i due mis ce).hatom = s.hatom := rfl
@[simp] theorem State.countErr_cpls (s : State) (i due mis ce : Nat) : (s.countErr i due mis ce).cpls = s.cpls := rfl
@[simp] theorem State.countErr_ints (s : State) (i due mis ce : Nat) : (s.countErr i due mis ce).ints = s.ints := rfl
@[simp] theorem State.countErr_lmsgs (s : State) (i due mis ce : Nat) : (s.countErr i due mis ce).lmsgs = s.lmsgs := rfl
@[simp] theorem State.countErr_rsps (s : State) (i due mis ce : Nat) : (s.countErr i due mis ce).rsps = s.rsps := rfl
@[simp] theorem State.countErr_wakes (s : State) (i due mis ce : Nat) : (s.countErr i due mis ce).wakes = s.wakes := rfl
@[simp] theorem State.countErr_rmons (s : State) (i due mis ce : Nat) : (s.countErr i due mis ce).rmons = s.rmons := rfl
@[simp] theorem State.countErr_outbox (s : State) (i due mis ce : Nat) : (s.countErr i due mis ce).outbox = s.outbox := rfl
@[simp] theorem State.countErr_peerq (s : State) (i due mis ce : Nat) : (s.countErr i due mis ce).peerq = s.peerq := rfl
@[simp] theorem State.countErr_routes (s : State) (i due mis ce : Nat) : (s.countErr i due mis ce).routes = s.routes := rfl
@[simp] theorem State.countErr_farFull (s : State) (i due mis ce : Nat) : (s.countErr i due mis ce).farFull = s.farFull := rfl
@[simp] theorem State.countErr_isobar (s : State) (i due mis ce : Nat) : (s.countErr i due mis ce).isobar = s.isobar := rfl
@[simp] theorem State.countErr_measure (s : State) (i due mis ce : Nat) : (s.countErr i due mis ce).measure = s.measure := rfl
@[simp] theorem State.countErr_report (s : State) (i due mis ce : Nat) : (s.countErr i due mis ce).report = s.report := rfl
@[simp] theorem State.countErr_sideband (s : State) (i due mis ce : Nat) : (s.countErr i due mis ce).sideband = s.sideband := rfl
@[simp] theorem State.countErr_absent (s : State) (i due mis ce : Nat) : (s.countErr i due mis ce).absent = s.absent := rfl

/-! ### State.updRes -/

@[simp] theorem State.updRes_fresh (s : State) (p : Nat) (f : Resident → Resident) : (s.updRes p f).fresh = s.fresh := by
  unfold State.updRes; split <;> rfl
@[simp] theorem State.updRes_ans (s : State) (p : Nat) (f : Resident → Resident) : (s.updRes p f).ans = s.ans := by
  unfold State.updRes; split <;> rfl
@[simp] theorem State.updRes_agenda (s : State) (p : Nat) (f : Resident → Resident) : (s.updRes p f).agenda = s.agenda := by
  unfold State.updRes; split <;> rfl
@[simp] theorem State.updRes_focus (s : State) (p : Nat) (f : Resident → Resident) : (s.updRes p f).focus = s.focus := by
  unfold State.updRes; split <;> rfl
@[simp] theorem State.updRes_turn (s : State) (p : Nat) (f : Resident → Resident) : (s.updRes p f).turn = s.turn := by
  unfold State.updRes; split <;> rfl
@[simp] theorem State.updRes_slots (s : State) (p : Nat) (f : Resident → Resident) : (s.updRes p f).slots = s.slots := by
  unfold State.updRes; split <;> rfl
@[simp] theorem State.updRes_cyc (s : State) (p : Nat) (f : Resident → Resident) : (s.updRes p f).cyc = s.cyc := by
  unfold State.updRes; split <;> rfl
@[simp] theorem State.updRes_mem (s : State) (p : Nat) (f : Resident → Resident) : (s.updRes p f).mem = s.mem := by
  unfold State.updRes; split <;> rfl
@[simp] theorem State.updRes_hostMem (s : State) (p : Nat) (f : Resident → Resident) : (s.updRes p f).hostMem = s.hostMem := by
  unfold State.updRes; split <;> rfl
@[simp] theorem State.updRes_msc (s : State) (p : Nat) (f : Resident → Resident) : (s.updRes p f).msc = s.msc := by
  unfold State.updRes; split <;> rfl
@[simp] theorem State.updRes_pins (s : State) (p : Nat) (f : Resident → Resident) : (s.updRes p f).pins = s.pins := by
  unfold State.updRes; split <;> rfl
@[simp] theorem State.updRes_hostPins (s : State) (p : Nat) (f : Resident → Resident) : (s.updRes p f).hostPins = s.hostPins := by
  unfold State.updRes; split <;> rfl
@[simp] theorem State.updRes_regs (s : State) (p : Nat) (f : Resident → Resident) : (s.updRes p f).regs = s.regs := by
  unfold State.updRes; split <;> rfl
@[simp] theorem State.updRes_gens (s : State) (p : Nat) (f : Resident → Resident) : (s.updRes p f).gens = s.gens := by
  unfold State.updRes; split <;> rfl
@[simp] theorem State.updRes_parts (s : State) (p : Nat) (f : Resident → Resident) : (s.updRes p f).parts = s.parts := by
  unfold State.updRes; split <;> rfl
@[simp] theorem State.updRes_cores (s : State) (p : Nat) (f : Resident → Resident) : (s.updRes p f).cores = s.cores := by
  unfold State.updRes; split <;> rfl
@[simp] theorem State.updRes_chart (s : State) (p : Nat) (f : Resident → Resident) : (s.updRes p f).chart = s.chart := by
  unfold State.updRes; split <;> rfl
@[simp] theorem State.updRes_launches (s : State) (p : Nat) (f : Resident → Resident) : (s.updRes p f).launches = s.launches := by
  unfold State.updRes; split <;> rfl
@[simp] theorem State.updRes_queues (s : State) (p : Nat) (f : Resident → Resident) : (s.updRes p f).queues = s.queues := by
  unfold State.updRes; split <;> rfl
@[simp] theorem State.updRes_levelPtr (s : State) (p : Nat) (f : Resident → Resident) : (s.updRes p f).levelPtr = s.levelPtr := by
  unfold State.updRes; split <;> rfl
@[simp] theorem State.updRes_lastLid (s : State) (p : Nat) (f : Resident → Resident) : (s.updRes p f).lastLid = s.lastLid := by
  unfold State.updRes; split <;> rfl
@[simp] theorem State.updRes_poolUsed (s : State) (p : Nat) (f : Resident → Resident) : (s.updRes p f).poolUsed = s.poolUsed := by
  unfold State.updRes; split <;> rfl
@[simp] theorem State.updRes_quiesces (s : State) (p : Nat) (f : Resident → Resident) : (s.updRes p f).quiesces = s.quiesces := by
  unfold State.updRes; split <;> rfl
@[simp] theorem State.updRes_released (s : State) (p : Nat) (f : Resident → Resident) : (s.updRes p f).released = s.released := by
  unfold State.updRes; split <;> rfl
@[simp] theorem State.updRes_cmds (s : State) (p : Nat) (f : Resident → Resident) : (s.updRes p f).cmds = s.cmds := by
  unfold State.updRes; split <;> rfl
@[simp] theorem State.updRes_rseq (s : State) (p : Nat) (f : Resident → Resident) : (s.updRes p f).rseq = s.rseq := by
  unfold State.updRes; split <;> rfl
@[simp] theorem State.updRes_dseq (s : State) (p : Nat) (f : Resident → Resident) : (s.updRes p f).dseq = s.dseq := by
  unfold State.updRes; split <;> rfl
@[simp] theorem State.updRes_entries (s : State) (p : Nat) (f : Resident → Resident) : (s.updRes p f).entries = s.entries := by
  unfold State.updRes; split <;> rfl
@[simp] theorem State.updRes_stray (s : State) (p : Nat) (f : Resident → Resident) : (s.updRes p f).stray = s.stray := by
  unfold State.updRes; split <;> rfl
@[simp] theorem State.updRes_snaps (s : State) (p : Nat) (f : Resident → Resident) : (s.updRes p f).snaps = s.snaps := by
  unfold State.updRes; split <;> rfl
@[simp] theorem State.updRes_ports (s : State) (p : Nat) (f : Resident → Resident) : (s.updRes p f).ports = s.ports := by
  unfold State.updRes; split <;> rfl
@[simp] theorem State.updRes_pod (s : State) (p : Nat) (f : Resident → Resident) : (s.updRes p f).pod = s.pod := by
  unfold State.updRes; split <;> rfl
@[simp] theorem State.updRes_ucie (s : State) (p : Nat) (f : Resident → Resident) : (s.updRes p f).ucie = s.ucie := by
  unfold State.updRes; split <;> rfl
@[simp] theorem State.updRes_bhp (s : State) (p : Nat) (f : Resident → Resident) : (s.updRes p f).bhp = s.bhp := by
  unfold State.updRes; split <;> rfl
@[simp] theorem State.updRes_hatom (s : State) (p : Nat) (f : Resident → Resident) : (s.updRes p f).hatom = s.hatom := by
  unfold State.updRes; split <;> rfl
@[simp] theorem State.updRes_cpls (s : State) (p : Nat) (f : Resident → Resident) : (s.updRes p f).cpls = s.cpls := by
  unfold State.updRes; split <;> rfl
@[simp] theorem State.updRes_ints (s : State) (p : Nat) (f : Resident → Resident) : (s.updRes p f).ints = s.ints := by
  unfold State.updRes; split <;> rfl
@[simp] theorem State.updRes_lmsgs (s : State) (p : Nat) (f : Resident → Resident) : (s.updRes p f).lmsgs = s.lmsgs := by
  unfold State.updRes; split <;> rfl
@[simp] theorem State.updRes_rsps (s : State) (p : Nat) (f : Resident → Resident) : (s.updRes p f).rsps = s.rsps := by
  unfold State.updRes; split <;> rfl
@[simp] theorem State.updRes_wakes (s : State) (p : Nat) (f : Resident → Resident) : (s.updRes p f).wakes = s.wakes := by
  unfold State.updRes; split <;> rfl
@[simp] theorem State.updRes_rmons (s : State) (p : Nat) (f : Resident → Resident) : (s.updRes p f).rmons = s.rmons := by
  unfold State.updRes; split <;> rfl
@[simp] theorem State.updRes_outbox (s : State) (p : Nat) (f : Resident → Resident) : (s.updRes p f).outbox = s.outbox := by
  unfold State.updRes; split <;> rfl
@[simp] theorem State.updRes_peerq (s : State) (p : Nat) (f : Resident → Resident) : (s.updRes p f).peerq = s.peerq := by
  unfold State.updRes; split <;> rfl
@[simp] theorem State.updRes_routes (s : State) (p : Nat) (f : Resident → Resident) : (s.updRes p f).routes = s.routes := by
  unfold State.updRes; split <;> rfl
@[simp] theorem State.updRes_farFull (s : State) (p : Nat) (f : Resident → Resident) : (s.updRes p f).farFull = s.farFull := by
  unfold State.updRes; split <;> rfl
@[simp] theorem State.updRes_isobar (s : State) (p : Nat) (f : Resident → Resident) : (s.updRes p f).isobar = s.isobar := by
  unfold State.updRes; split <;> rfl
@[simp] theorem State.updRes_measure (s : State) (p : Nat) (f : Resident → Resident) : (s.updRes p f).measure = s.measure := by
  unfold State.updRes; split <;> rfl
@[simp] theorem State.updRes_report (s : State) (p : Nat) (f : Resident → Resident) : (s.updRes p f).report = s.report := by
  unfold State.updRes; split <;> rfl
@[simp] theorem State.updRes_sideband (s : State) (p : Nat) (f : Resident → Resident) : (s.updRes p f).sideband = s.sideband := by
  unfold State.updRes; split <;> rfl
@[simp] theorem State.updRes_absent (s : State) (p : Nat) (f : Resident → Resident) : (s.updRes p f).absent = s.absent := by
  unfold State.updRes; split <;> rfl

/-! ### Part.issue, Part.land -/

@[simp] theorem Part.issue_task (P : Part) (w : Write) (L : Nat) : (P.issue w L).task = P.task := rfl
@[simp] theorem Part.issue_regs (P : Part) (w : Write) (L : Nat) : (P.issue w L).regs = P.regs := rfl
@[simp] theorem Part.issue_dup (P : Part) (w : Write) (L : Nat) : (P.issue w L).dup = P.dup := rfl
@[simp] theorem Part.issue_pend (P : Part) (w : Write) (L : Nat) : (P.issue w L).pend = P.pend := rfl
@[simp] theorem Part.issue_next (P : Part) (w : Write) (L : Nat) : (P.issue w L).next = P.next := rfl
@[simp] theorem Part.issue_v0 (P : Part) (w : Write) (L : Nat) : (P.issue w L).v0 = P.v0 := rfl
@[simp] theorem Part.issue_v1 (P : Part) (w : Write) (L : Nat) : (P.issue w L).v1 = P.v1 := rfl
@[simp] theorem Part.issue_aNext (P : Part) (w : Write) (L : Nat) : (P.issue w L).aNext = P.aNext := rfl
@[simp] theorem Part.issue_bgi (P : Part) (w : Write) (L : Nat) : (P.issue w L).bgi = P.bgi := rfl
@[simp] theorem Part.issue_bgm (P : Part) (w : Write) (L : Nat) : (P.issue w L).bgm = P.bgm := rfl
@[simp] theorem Part.issue_exh (P : Part) (w : Write) (L : Nat) : (P.issue w L).exh = P.exh := rfl
@[simp] theorem Part.issue_gl (P : Part) (w : Write) (L : Nat) : (P.issue w L).gl = P.gl := rfl
@[simp] theorem Part.issue_grace (P : Part) (w : Write) (L : Nat) : (P.issue w L).grace = P.grace := rfl
@[simp] theorem Part.issue_bal0 (P : Part) (w : Write) (L : Nat) : (P.issue w L).bal0 = P.bal0 := rfl
@[simp] theorem Part.issue_bal1 (P : Part) (w : Write) (L : Nat) : (P.issue w L).bal1 = P.bal1 := rfl
@[simp] theorem Part.issue_sb (P : Part) (w : Write) (L : Nat) : (P.issue w L).sb = P.sb := rfl
@[simp] theorem Part.issue_sbn (P : Part) (w : Write) (L : Nat) : (P.issue w L).sbn = P.sbn := rfl
@[simp] theorem Part.issue_journal (P : Part) (w : Write) (L : Nat) : (P.issue w L).journal = P.journal := rfl
@[simp] theorem Part.issue_remaps (P : Part) (w : Write) (L : Nat) : (P.issue w L).remaps = P.remaps := rfl
@[simp] theorem Part.issue_ringsD (P : Part) (w : Write) (L : Nat) : (P.issue w L).ringsD = P.ringsD := rfl
@[simp] theorem Part.issue_statD (P : Part) (w : Write) (L : Nat) : (P.issue w L).statD = P.statD := rfl
@[simp] theorem Part.issue_mxq (P : Part) (w : Write) (L : Nat) : (P.issue w L).mxq = P.mxq := rfl
@[simp] theorem Part.issue_tq (P : Part) (w : Write) (L : Nat) : (P.issue w L).tq = P.tq := rfl
@[simp] theorem Part.issue_rsq (P : Part) (w : Write) (L : Nat) : (P.issue w L).rsq = P.rsq := rfl
@[simp] theorem Part.issue_aq (P : Part) (w : Write) (L : Nat) : (P.issue w L).aq = P.aq := rfl
@[simp] theorem Part.issue_waitAll (P : Part) (w : Write) (L : Nat) : (P.issue w L).waitAll = P.waitAll := rfl
@[simp] theorem Part.issue_seq (P : Part) (w : Write) (L : Nat) : (P.issue w L).seq = P.seq := rfl
@[simp] theorem Part.issue_nb (P : Part) (w : Write) (L : Nat) : (P.issue w L).nb = P.nb := rfl
@[simp] theorem Part.issue_preempt (P : Part) (w : Write) (L : Nat) : (P.issue w L).preempt = P.preempt := rfl
@[simp] theorem Part.issue_relocate (P : Part) (w : Write) (L : Nat) : (P.issue w L).relocate = P.relocate := rfl
@[simp] theorem Part.issue_yielding (P : Part) (w : Write) (L : Nat) : (P.issue w L).yielding = P.yielding := rfl
@[simp] theorem Part.issue_yieldD (P : Part) (w : Write) (L : Nat) : (P.issue w L).yieldD = P.yieldD := rfl
@[simp] theorem Part.issue_stopAt (P : Part) (w : Write) (L : Nat) : (P.issue w L).stopAt = P.stopAt := rfl
@[simp] theorem Part.issue_stopHere (P : Part) (w : Write) (L : Nat) : (P.issue w L).stopHere = P.stopHere := rfl
@[simp] theorem Part.issue_stopAny (P : Part) (w : Write) (L : Nat) : (P.issue w L).stopAny = P.stopAny := rfl
@[simp] theorem Part.issue_rb (P : Part) (w : Write) (L : Nat) : (P.issue w L).rb = P.rb := rfl
@[simp] theorem Part.issue_bank (P : Part) (w : Write) (L : Nat) : (P.issue w L).bank = P.bank := rfl
@[simp] theorem Part.issue_rerun (P : Part) (w : Write) (L : Nat) : (P.issue w L).rerun = P.rerun := rfl
@[simp] theorem Part.issue_sus (P : Part) (w : Write) (L : Nat) : (P.issue w L).sus = P.sus := rfl
@[simp] theorem Part.issue_trIn (P : Part) (w : Write) (L : Nat) : (P.issue w L).trIn = P.trIn := rfl
@[simp] theorem Part.issue_trOut (P : Part) (w : Write) (L : Nat) : (P.issue w L).trOut = P.trOut := rfl
@[simp] theorem Part.issue_vane (P : Part) (w : Write) (L : Nat) : (P.issue w L).vane = P.vane := rfl
@[simp] theorem Part.issue_residue (P : Part) (w : Write) (L : Nat) : (P.issue w L).residue = P.residue := rfl
@[simp] theorem Part.issue_vdiff (P : Part) (w : Write) (L : Nat) : (P.issue w L).vdiff = P.vdiff := rfl
@[simp] theorem Part.issue_rpoison (P : Part) (w : Write) (L : Nat) : (P.issue w L).rpoison = P.rpoison := rfl
@[simp] theorem Part.issue_dpoison (P : Part) (w : Write) (L : Nat) : (P.issue w L).dpoison = P.dpoison := rfl
@[simp] theorem Part.issue_ownBad (P : Part) (w : Write) (L : Nat) : (P.issue w L).ownBad = P.ownBad := rfl
@[simp] theorem Part.issue_sealed (P : Part) (w : Write) (L : Nat) : (P.issue w L).sealed = P.sealed := rfl
@[simp] theorem Part.issue_reread (P : Part) (w : Write) (L : Nat) : (P.issue w L).reread = P.reread := rfl
@[simp] theorem Part.issue_issA (P : Part) (w : Write) (L : Nat) : (P.issue w L).issA = P.issA := rfl
@[simp] theorem Part.issue_issLen (P : Part) (w : Write) (L : Nat) : (P.issue w L).issLen = P.issLen := rfl
@[simp] theorem Part.issue_issT (P : Part) (w : Write) (L : Nat) : (P.issue w L).issT = P.issT := rfl
@[simp] theorem Part.issue_ix (P : Part) (w : Write) (L : Nat) : (P.issue w L).ix = P.ix := rfl
@[simp] theorem Part.issue_datumAfter (P : Part) (w : Write) (L : Nat) : (P.issue w L).datumAfter = P.datumAfter := rfl
@[simp] theorem Part.issue_loopsNext (P : Part) (w : Write) (L : Nat) : (P.issue w L).loopsNext = P.loopsNext := rfl
@[simp] theorem Part.issue_held (P : Part) (w : Write) (L : Nat) : (P.issue w L).held = P.held := rfl
@[simp] theorem Part.issue_exiting (P : Part) (w : Write) (L : Nat) : (P.issue w L).exiting = P.exiting := rfl
@[simp] theorem Part.issue_lastRestore (P : Part) (w : Write) (L : Nat) : (P.issue w L).lastRestore = P.lastRestore := rfl
@[simp] theorem Part.land_task (P : Part) (t : Nat) : (P.land t).task = P.task := rfl
@[simp] theorem Part.land_dup (P : Part) (t : Nat) : (P.land t).dup = P.dup := rfl
@[simp] theorem Part.land_pend (P : Part) (t : Nat) : (P.land t).pend = P.pend := rfl
@[simp] theorem Part.land_next (P : Part) (t : Nat) : (P.land t).next = P.next := rfl
@[simp] theorem Part.land_v0 (P : Part) (t : Nat) : (P.land t).v0 = P.v0 := rfl
@[simp] theorem Part.land_v1 (P : Part) (t : Nat) : (P.land t).v1 = P.v1 := rfl
@[simp] theorem Part.land_aNext (P : Part) (t : Nat) : (P.land t).aNext = P.aNext := rfl
@[simp] theorem Part.land_bgi (P : Part) (t : Nat) : (P.land t).bgi = P.bgi := rfl
@[simp] theorem Part.land_bgm (P : Part) (t : Nat) : (P.land t).bgm = P.bgm := rfl
@[simp] theorem Part.land_exh (P : Part) (t : Nat) : (P.land t).exh = P.exh := rfl
@[simp] theorem Part.land_gl (P : Part) (t : Nat) : (P.land t).gl = P.gl := rfl
@[simp] theorem Part.land_grace (P : Part) (t : Nat) : (P.land t).grace = P.grace := rfl
@[simp] theorem Part.land_bal0 (P : Part) (t : Nat) : (P.land t).bal0 = P.bal0 := rfl
@[simp] theorem Part.land_bal1 (P : Part) (t : Nat) : (P.land t).bal1 = P.bal1 := rfl
@[simp] theorem Part.land_sb (P : Part) (t : Nat) : (P.land t).sb = P.sb := rfl
@[simp] theorem Part.land_sbn (P : Part) (t : Nat) : (P.land t).sbn = P.sbn := rfl
@[simp] theorem Part.land_journal (P : Part) (t : Nat) : (P.land t).journal = P.journal := rfl
@[simp] theorem Part.land_remaps (P : Part) (t : Nat) : (P.land t).remaps = P.remaps := rfl
@[simp] theorem Part.land_ringsD (P : Part) (t : Nat) : (P.land t).ringsD = P.ringsD := rfl
@[simp] theorem Part.land_statD (P : Part) (t : Nat) : (P.land t).statD = P.statD := rfl
@[simp] theorem Part.land_mxq (P : Part) (t : Nat) : (P.land t).mxq = P.mxq := rfl
@[simp] theorem Part.land_tq (P : Part) (t : Nat) : (P.land t).tq = P.tq := rfl
@[simp] theorem Part.land_rsq (P : Part) (t : Nat) : (P.land t).rsq = P.rsq := rfl
@[simp] theorem Part.land_aq (P : Part) (t : Nat) : (P.land t).aq = P.aq := rfl
@[simp] theorem Part.land_waitAll (P : Part) (t : Nat) : (P.land t).waitAll = P.waitAll := rfl
@[simp] theorem Part.land_seq (P : Part) (t : Nat) : (P.land t).seq = P.seq := rfl
@[simp] theorem Part.land_nb (P : Part) (t : Nat) : (P.land t).nb = P.nb := rfl
@[simp] theorem Part.land_preempt (P : Part) (t : Nat) : (P.land t).preempt = P.preempt := rfl
@[simp] theorem Part.land_relocate (P : Part) (t : Nat) : (P.land t).relocate = P.relocate := rfl
@[simp] theorem Part.land_yielding (P : Part) (t : Nat) : (P.land t).yielding = P.yielding := rfl
@[simp] theorem Part.land_yieldD (P : Part) (t : Nat) : (P.land t).yieldD = P.yieldD := rfl
@[simp] theorem Part.land_stopAt (P : Part) (t : Nat) : (P.land t).stopAt = P.stopAt := rfl
@[simp] theorem Part.land_stopHere (P : Part) (t : Nat) : (P.land t).stopHere = P.stopHere := rfl
@[simp] theorem Part.land_stopAny (P : Part) (t : Nat) : (P.land t).stopAny = P.stopAny := rfl
@[simp] theorem Part.land_rb (P : Part) (t : Nat) : (P.land t).rb = P.rb := rfl
@[simp] theorem Part.land_bank (P : Part) (t : Nat) : (P.land t).bank = P.bank := rfl
@[simp] theorem Part.land_rerun (P : Part) (t : Nat) : (P.land t).rerun = P.rerun := rfl
@[simp] theorem Part.land_sus (P : Part) (t : Nat) : (P.land t).sus = P.sus := rfl
@[simp] theorem Part.land_trIn (P : Part) (t : Nat) : (P.land t).trIn = P.trIn := rfl
@[simp] theorem Part.land_trOut (P : Part) (t : Nat) : (P.land t).trOut = P.trOut := rfl
@[simp] theorem Part.land_vane (P : Part) (t : Nat) : (P.land t).vane = P.vane := rfl
@[simp] theorem Part.land_residue (P : Part) (t : Nat) : (P.land t).residue = P.residue := rfl
@[simp] theorem Part.land_dpoison (P : Part) (t : Nat) : (P.land t).dpoison = P.dpoison := rfl
@[simp] theorem Part.land_ownBad (P : Part) (t : Nat) : (P.land t).ownBad = P.ownBad := rfl
@[simp] theorem Part.land_sealed (P : Part) (t : Nat) : (P.land t).sealed = P.sealed := rfl
@[simp] theorem Part.land_reread (P : Part) (t : Nat) : (P.land t).reread = P.reread := rfl
@[simp] theorem Part.land_issA (P : Part) (t : Nat) : (P.land t).issA = P.issA := rfl
@[simp] theorem Part.land_issLen (P : Part) (t : Nat) : (P.land t).issLen = P.issLen := rfl
@[simp] theorem Part.land_issT (P : Part) (t : Nat) : (P.land t).issT = P.issT := rfl
@[simp] theorem Part.land_ix (P : Part) (t : Nat) : (P.land t).ix = P.ix := rfl
@[simp] theorem Part.land_datumAfter (P : Part) (t : Nat) : (P.land t).datumAfter = P.datumAfter := rfl
@[simp] theorem Part.land_loopsNext (P : Part) (t : Nat) : (P.land t).loopsNext = P.loopsNext := rfl
@[simp] theorem Part.land_held (P : Part) (t : Nat) : (P.land t).held = P.held := rfl
@[simp] theorem Part.land_exiting (P : Part) (t : Nat) : (P.land t).exiting = P.exiting := rfl
@[simp] theorem Part.land_lastRestore (P : Part) (t : Nat) : (P.land t).lastRestore = P.lastRestore := rfl

/-! ### Part.wrote -/

@[simp] theorem Part.wrote_task (P : Part) (r : CtlReg) : (P.wrote r).task = P.task := rfl
@[simp] theorem Part.wrote_regs (P : Part) (r : CtlReg) : (P.wrote r).regs = P.regs := rfl
@[simp] theorem Part.wrote_dup (P : Part) (r : CtlReg) : (P.wrote r).dup = P.dup := rfl
@[simp] theorem Part.wrote_flight (P : Part) (r : CtlReg) : (P.wrote r).flight = P.flight := rfl
@[simp] theorem Part.wrote_pend (P : Part) (r : CtlReg) : (P.wrote r).pend = P.pend := rfl
@[simp] theorem Part.wrote_next (P : Part) (r : CtlReg) : (P.wrote r).next = P.next := rfl
@[simp] theorem Part.wrote_v0 (P : Part) (r : CtlReg) : (P.wrote r).v0 = P.v0 := rfl
@[simp] theorem Part.wrote_v1 (P : Part) (r : CtlReg) : (P.wrote r).v1 = P.v1 := rfl
@[simp] theorem Part.wrote_aNext (P : Part) (r : CtlReg) : (P.wrote r).aNext = P.aNext := rfl
@[simp] theorem Part.wrote_bgi (P : Part) (r : CtlReg) : (P.wrote r).bgi = P.bgi := rfl
@[simp] theorem Part.wrote_bgm (P : Part) (r : CtlReg) : (P.wrote r).bgm = P.bgm := rfl
@[simp] theorem Part.wrote_exh (P : Part) (r : CtlReg) : (P.wrote r).exh = P.exh := rfl
@[simp] theorem Part.wrote_gl (P : Part) (r : CtlReg) : (P.wrote r).gl = P.gl := rfl
@[simp] theorem Part.wrote_grace (P : Part) (r : CtlReg) : (P.wrote r).grace = P.grace := rfl
@[simp] theorem Part.wrote_bal0 (P : Part) (r : CtlReg) : (P.wrote r).bal0 = P.bal0 := rfl
@[simp] theorem Part.wrote_bal1 (P : Part) (r : CtlReg) : (P.wrote r).bal1 = P.bal1 := rfl
@[simp] theorem Part.wrote_sb (P : Part) (r : CtlReg) : (P.wrote r).sb = P.sb := rfl
@[simp] theorem Part.wrote_sbn (P : Part) (r : CtlReg) : (P.wrote r).sbn = P.sbn := rfl
@[simp] theorem Part.wrote_journal (P : Part) (r : CtlReg) : (P.wrote r).journal = P.journal := rfl
@[simp] theorem Part.wrote_remaps (P : Part) (r : CtlReg) : (P.wrote r).remaps = P.remaps := rfl
@[simp] theorem Part.wrote_ringsD (P : Part) (r : CtlReg) : (P.wrote r).ringsD = P.ringsD := rfl
@[simp] theorem Part.wrote_statD (P : Part) (r : CtlReg) : (P.wrote r).statD = P.statD := rfl
@[simp] theorem Part.wrote_mxq (P : Part) (r : CtlReg) : (P.wrote r).mxq = P.mxq := rfl
@[simp] theorem Part.wrote_tq (P : Part) (r : CtlReg) : (P.wrote r).tq = P.tq := rfl
@[simp] theorem Part.wrote_rsq (P : Part) (r : CtlReg) : (P.wrote r).rsq = P.rsq := rfl
@[simp] theorem Part.wrote_aq (P : Part) (r : CtlReg) : (P.wrote r).aq = P.aq := rfl
@[simp] theorem Part.wrote_waitAll (P : Part) (r : CtlReg) : (P.wrote r).waitAll = P.waitAll := rfl
@[simp] theorem Part.wrote_seq (P : Part) (r : CtlReg) : (P.wrote r).seq = P.seq := rfl
@[simp] theorem Part.wrote_nb (P : Part) (r : CtlReg) : (P.wrote r).nb = P.nb := rfl
@[simp] theorem Part.wrote_preempt (P : Part) (r : CtlReg) : (P.wrote r).preempt = P.preempt := rfl
@[simp] theorem Part.wrote_relocate (P : Part) (r : CtlReg) : (P.wrote r).relocate = P.relocate := rfl
@[simp] theorem Part.wrote_yielding (P : Part) (r : CtlReg) : (P.wrote r).yielding = P.yielding := rfl
@[simp] theorem Part.wrote_yieldD (P : Part) (r : CtlReg) : (P.wrote r).yieldD = P.yieldD := rfl
@[simp] theorem Part.wrote_stopAt (P : Part) (r : CtlReg) : (P.wrote r).stopAt = P.stopAt := rfl
@[simp] theorem Part.wrote_stopHere (P : Part) (r : CtlReg) : (P.wrote r).stopHere = P.stopHere := rfl
@[simp] theorem Part.wrote_stopAny (P : Part) (r : CtlReg) : (P.wrote r).stopAny = P.stopAny := rfl
@[simp] theorem Part.wrote_rb (P : Part) (r : CtlReg) : (P.wrote r).rb = P.rb := rfl
@[simp] theorem Part.wrote_bank (P : Part) (r : CtlReg) : (P.wrote r).bank = P.bank := rfl
@[simp] theorem Part.wrote_rerun (P : Part) (r : CtlReg) : (P.wrote r).rerun = P.rerun := rfl
@[simp] theorem Part.wrote_sus (P : Part) (r : CtlReg) : (P.wrote r).sus = P.sus := rfl
@[simp] theorem Part.wrote_trIn (P : Part) (r : CtlReg) : (P.wrote r).trIn = P.trIn := rfl
@[simp] theorem Part.wrote_trOut (P : Part) (r : CtlReg) : (P.wrote r).trOut = P.trOut := rfl
@[simp] theorem Part.wrote_vane (P : Part) (r : CtlReg) : (P.wrote r).vane = P.vane := rfl
@[simp] theorem Part.wrote_residue (P : Part) (r : CtlReg) : (P.wrote r).residue = P.residue := rfl
@[simp] theorem Part.wrote_dpoison (P : Part) (r : CtlReg) : (P.wrote r).dpoison = P.dpoison := rfl
@[simp] theorem Part.wrote_ownBad (P : Part) (r : CtlReg) : (P.wrote r).ownBad = P.ownBad := rfl
@[simp] theorem Part.wrote_sealed (P : Part) (r : CtlReg) : (P.wrote r).sealed = P.sealed := rfl
@[simp] theorem Part.wrote_reread (P : Part) (r : CtlReg) : (P.wrote r).reread = P.reread := rfl
@[simp] theorem Part.wrote_issA (P : Part) (r : CtlReg) : (P.wrote r).issA = P.issA := rfl
@[simp] theorem Part.wrote_issLen (P : Part) (r : CtlReg) : (P.wrote r).issLen = P.issLen := rfl
@[simp] theorem Part.wrote_issT (P : Part) (r : CtlReg) : (P.wrote r).issT = P.issT := rfl
@[simp] theorem Part.wrote_ix (P : Part) (r : CtlReg) : (P.wrote r).ix = P.ix := rfl
@[simp] theorem Part.wrote_datumAfter (P : Part) (r : CtlReg) : (P.wrote r).datumAfter = P.datumAfter := rfl
@[simp] theorem Part.wrote_loopsNext (P : Part) (r : CtlReg) : (P.wrote r).loopsNext = P.loopsNext := rfl
@[simp] theorem Part.wrote_held (P : Part) (r : CtlReg) : (P.wrote r).held = P.held := rfl
@[simp] theorem Part.wrote_exiting (P : Part) (r : CtlReg) : (P.wrote r).exiting = P.exiting := rfl
@[simp] theorem Part.wrote_lastRestore (P : Part) (r : CtlReg) : (P.wrote r).lastRestore = P.lastRestore := rfl

end Sys2Proof.Machine
end

