-- ==== Sys2Proof/Laws/Mem.lean ====
section
/-! SUPPORT. Laws of tables and memories: a read after a write, what a write leaves alone, and the canonical form. -/

namespace Sys2Proof.Machine

/-! ### Tables -/

theorem KMap.get_set_same {α : Type} (d x : α) (m : KMap α) (k : Nat) : KMap.get d (KMap.set m k x) k = x := by
  induction m with
  | nil => simp [KMap.set, KMap.get]
  | cons e m ih =>
    obtain ⟨k', y⟩ := e
    simp only [KMap.set]
    split
    · simp [KMap.get]
    · split
      · simp [KMap.get]
      · simp [KMap.get, *]

theorem KMap.get_set_other {α : Type} (d x : α) (m : KMap α) (k j : Nat) (h : j ≠ k) :
    KMap.get d (KMap.set m k x) j = KMap.get d m j := by
  induction m with
  | nil => simp only [KMap.set, KMap.get]; split <;> simp_all
  | cons e m ih =>
    obtain ⟨k', y⟩ := e
    simp only [KMap.set]
    split
    · subst_vars
      simp only [KMap.get]
      split <;> simp_all
    · split
      · simp only [KMap.get]
        repeat' split
        all_goals first | rfl | omega
      · simp only [KMap.get, ih]

/-! ### Units of the state -/

@[simp] theorem State.part_updPart_same (s : State) (p : Nat) (f : Part → Part) : (s.updPart p f).part p = f (s.part p) :=
  KMap.get_set_same ..

theorem State.part_updPart_other (s : State) (p q : Nat) (f : Part → Part) (h : q ≠ p) :
    (s.updPart p f).part q = s.part q := KMap.get_set_other _ _ _ _ _ h

@[simp] theorem State.me_updMe (s : State) (f : Part → Part) : (s.updMe f).me = f s.me := KMap.get_set_same ..

theorem State.part_updMe_other (s : State) (q : Nat) (f : Part → Part) (h : q ≠ s.focus) :
    (s.updMe f).part q = s.part q := KMap.get_set_other _ _ _ _ _ h

@[simp] theorem State.core_updCore_same (s : State) (c : Nat) (f : Core → Core) : (s.updCore c f).core c = f (s.core c) :=
  KMap.get_set_same ..

theorem State.core_updCore_other (s : State) (c d : Nat) (f : Core → Core) (h : d ≠ c) :
    (s.updCore c f).core d = s.core d := KMap.get_set_other _ _ _ _ _ h

@[simp] theorem State.core_updPart (s : State) (p c : Nat) (f : Part → Part) : (s.updPart p f).core c = s.core c := rfl

@[simp] theorem State.part_updCore (s : State) (p c : Nat) (f : Core → Core) : (s.updCore c f).part p = s.part p := rfl

/-! ### Bytes -/

theorem cellsOf_lo (a : Nat) (bs : List Byte) : ∀ c ∈ cellsOf a bs, a ≤ c.1 ∧ c.1 < a + bs.length := by
  induction bs generalizing a with
  | nil => simp [cellsOf]
  | cons b bs ih =>
    intro c hc
    simp only [cellsOf] at hc
    have := ih (a + 1)
    split at hc
    · have := this c hc
      simp; omega
    · rcases List.mem_cons.1 hc with rfl | hc
      · simp
      · have := this c hc
        simp; omega

theorem cellsOf_wf (a : Nat) (bs : List Byte) : Mem.wf (cellsOf a bs) := by
  induction bs generalizing a with
  | nil => simp [cellsOf, Mem.wf]
  | cons b bs ih =>
    simp only [cellsOf]
    split
    · exact ih _
    · rename_i hb
      refine ⟨List.pairwise_cons.2 ⟨fun c hc => ?_, (ih _).1⟩, fun c hc => ?_⟩
      · exact (cellsOf_lo _ _ c hc).1
      · rcases List.mem_cons.1 hc with rfl | hc
        · exact hb
        · exact (ih _).2 c hc

/-- A write keeps the canonical form. -/
theorem Mem.writeN_wf (m : Mem) (a : Nat) (bs : List Byte) (h : m.wf) : (m.writeN a bs).wf := by
  obtain ⟨h1, h2⟩ := h
  constructor
  · rw [Mem.writeN, List.pairwise_append, List.pairwise_append]
    refine ⟨⟨h1.filter _, (cellsOf_wf _ _).1, fun x hx y hy => ?_⟩, h1.filter _, fun x hx y hy => ?_⟩
    · have := cellsOf_lo _ _ y hy
      have := (List.mem_filter.1 hx).2
      simp at this
      omega
    · have := (List.mem_filter.1 hy).2
      simp at this
      rcases List.mem_append.1 hx with hx | hx
      · have := (List.mem_filter.1 hx).2
        simp at this
        omega
      · have := cellsOf_lo _ _ x hx
        omega
  · intro c hc
    simp only [Mem.writeN, List.mem_append, List.mem_filter] at hc
    rcases hc with (hc | hc) | hc
    · exact h2 c hc.1
    · exact (cellsOf_wf _ _).2 c hc
    · exact h2 c hc.1

/-- Canonical tables read by membership. -/
theorem Mem.read_of_mem (m : Mem) (h : m.wf) (a : Nat) (b : Byte) (hm : (a, b) ∈ m) : m.read a = b := by
  obtain ⟨h1, -⟩ := h
  unfold Mem.read
  induction m with
  | nil => cases hm
  | cons e m ih =>
    obtain ⟨k, y⟩ := e
    rw [List.pairwise_cons] at h1
    simp only [KMap.get]
    rcases List.mem_cons.1 hm with he | hm'
    · cases he; simp
    · have := h1.1 _ hm'
      simp at this
      rw [if_neg (by omega), if_neg (by omega)]
      exact ih hm' h1.2

theorem Mem.read_of_not_mem (m : Mem) (a : Nat) (h : ∀ c ∈ m, c.1 ≠ a) : m.read a = 0 := by
  unfold Mem.read
  induction m with
  | nil => rfl
  | cons e m ih =>
    obtain ⟨k, y⟩ := e
    simp only [KMap.get]
    have := h _ (List.mem_cons_self ..)
    simp at this
    rw [if_neg this]
    split
    · rfl
    · exact ih fun c hc => h c (List.mem_cons_of_mem _ hc)

/-- Two canonical memories with the same cells at an address read the same there. -/
theorem Mem.read_congr (m n : Mem) (hm : m.wf) (hn : n.wf) (a : Nat) (h : ∀ b, (a, b) ∈ m ↔ (a, b) ∈ n) :
    m.read a = n.read a := by
  by_cases he : ∃ b, (a, b) ∈ m
  · obtain ⟨b, hb⟩ := he
    rw [Mem.read_of_mem m hm a b hb, Mem.read_of_mem n hn a b ((h b).1 hb)]
  · rw [Mem.read_of_not_mem m a, Mem.read_of_not_mem n a]
    · rintro ⟨k, y⟩ hc rfl
      exact he ⟨y, (h y).2 hc⟩
    · rintro ⟨k, y⟩ hc rfl
      exact he ⟨y, hc⟩

/-- A write leaves every byte outside it as it was. -/
theorem Mem.read_writeN_other (m : Mem) (h : m.wf) (a : Nat) (bs : List Byte) (x : Nat)
    (hx : x < a ∨ a + bs.length ≤ x) : (m.writeN a bs).read x = m.read x := by
  refine Mem.read_congr _ _ (m.writeN_wf a bs h) h x fun b => ?_
  simp only [Mem.writeN, List.mem_append, List.mem_filter, decide_eq_true_eq]
  constructor
  · rintro ((h | h) | h)
    · exact h.1
    · have := cellsOf_lo _ _ _ h
      simp at this; omega
    · exact h.1
  · intro h
    rcases hx with hx | hx
    · exact .inl (.inl ⟨h, hx⟩)
    · exact .inr ⟨h, hx⟩

theorem cellsOf_mem (a : Nat) (bs : List Byte) (k : Nat) (hk : k < bs.length) (b : Byte) :
    (a + k, b) ∈ cellsOf a bs ↔ bs[k] = b ∧ b ≠ 0 := by
  induction bs generalizing a k with
  | nil => simp at hk
  | cons c bs ih =>
    cases k with
    | zero =>
      have hno : ∀ y, (a, y) ∉ cellsOf (a + 1) bs := fun y hy => by
        exact absurd (cellsOf_lo _ _ _ hy).1 (Nat.not_succ_le_self a)
      simp only [cellsOf]
      split
      · rename_i hc
        simp [hno, hc]
        intro h; exact h.symm
      · rename_i hc
        simp only [Nat.add_zero, List.mem_cons, Prod.mk.injEq, true_and, hno, or_false, List.getElem_cons_zero]
        exact ⟨fun h => ⟨h.symm, h ▸ hc⟩, fun h => h.1.symm⟩
    | succ k =>
      have hk' : k < bs.length := by simpa using hk
      have := ih (a + 1) k hk'
      rw [show a + 1 + k = a + (k + 1) by omega] at this
      simp only [cellsOf]
      split
      · simpa using this
      · simp only [List.mem_cons, Prod.mk.injEq]
        rw [this]
        simp

/-- A read after a write gives the byte written. -/
theorem Mem.read_writeN_same (m : Mem) (h : m.wf) (a : Nat) (bs : List Byte) (k : Nat) (hk : k < bs.length) :
    (m.writeN a bs).read (a + k) = bs[k] := by
  by_cases hb : bs[k] = 0
  · rw [Mem.read_of_not_mem _ _ fun c hc => ?_, hb]
    rintro he
    obtain ⟨k', y⟩ := c
    simp only at he
    subst he
    simp only [Mem.writeN, List.mem_append, List.mem_filter, decide_eq_true_eq] at hc
    rcases hc with (hc | hc) | hc
    · omega
    · have := (cellsOf_mem a bs k hk y).1 hc
      exact this.2 (this.1.symm.trans hb)
    · omega
  · refine Mem.read_of_mem _ (m.writeN_wf a bs h) _ _ ?_
    simp only [Mem.writeN, List.mem_append]
    exact .inl (.inr ((cellsOf_mem a bs k hk _).2 ⟨rfl, hb⟩))

/-! ### Memories with their marks -/

theorem Store.writeN_wf (st : Store) (a : Nat) (bs : List Byte) (h : st.cells.wf) : (st.writeN a bs).cells.wf :=
  Mem.writeN_wf _ _ _ h

@[simp] theorem Store.undefine_cells (st : Store) (a n : Nat) : (st.undefine a n).cells = st.cells := rfl

@[simp] theorem Store.addPoison_cells (st : Store) (l : Nat) : (st.addPoison l).cells = st.cells := rfl

@[simp] theorem Store.setPoison_cells (st : Store) (l : Nat) (b : Bool) : (st.setPoison l b).cells = st.cells := by
  unfold Store.setPoison; split <;> rfl

theorem Store.zero_wf : Store.zero.cells.wf := by simp [Store.zero, Mem.wf]

@[simp] theorem leBytes_length (n x : Nat) : (leBytes n x).length = n := by
  induction n generalizing x with
  | zero => rfl
  | succ n ih => simp [leBytes, ih]

@[simp] theorem Mem.readN_length (m : Mem) (a n : Nat) : (m.readN a n).length = n := by simp [Mem.readN]

@[simp] theorem Store.readN_length (st : Store) (fr a n : Nat) : (st.readN fr a n).length = n := by
  unfold Store.readN; split <;> simp

@[simp] theorem Vec.build_length (f : Nat → W32) : (Vec.build f).length = 1024 := by simp [Vec.build]

@[simp] theorem Vec.fit_length (x : Vec) : (Vec.fit x).length = 1024 := by
  rw [Vec.fit, List.length_take, List.length_append, List.length_replicate]; omega

/-- Every operand read of a vector register has 1,024 elements (R207). -/
@[simp] theorem State.rdV_length (s : State) (k n : Nat) : (s.rdV k n).length = 1024 := by
  unfold State.rdV; split <;> simp

/-- Reading the little-endian bytes of a number gives it back (R5). -/
theorem leNat_leBytes (n x : Nat) : leNat (leBytes n x) = x % 256 ^ n := by
  induction n generalizing x with
  | zero => simp [leBytes, leNat, Nat.mod_one]
  | succ n ih =>
    simp only [leBytes, leNat, ih, BitVec.toNat_ofNat, show (2 : Nat) ^ 8 = 256 from rfl]
    rw [show 256 ^ (n + 1) = 256 * 256 ^ n by rw [Nat.pow_succ, Nat.mul_comm], Nat.mod_mul]

end Sys2Proof.Machine
end

