-- ==== Sys2Proof/Laws/Ops.lean ====
section
/-! SUPPORT. What the shared operations of Machine/Ops.lean and Machine/Operands.lean can do, each said once: guards (R116), results
(R118), withheld stores and recorded reads (R69, R76), writes at a home (R69) and rollback (R129). -/

namespace Sys2Proof.Machine

/-! ### Guards and results -/

/-- A true guard lets the operation happen (R116). -/
theorem guarded_true (g : BitVec 5) (s : State) (f : State → State) (h : s.guardOk g = true) : guarded g s f = .next (f s) := by
  simp [guarded, h]

/-- A false guard suppresses it (R116). -/
theorem guarded_false (g : BitVec 5) (s : State) (f : State → State) (h : s.guardOk g = false) : guarded g s f = .next s := by
  simp [guarded, h]

/-- An operation under a guard always answers a next state. -/
theorem guarded_next (g : BitVec 5) (s : State) (f : State → State) : ∃ t, guarded g s f = .next t := ⟨_, rfl⟩

/-- s0 discards its result (R114). -/
@[simp] theorem State.putS_zero (s : State) (x : W64) (L : Nat) : s.putS 0 x L = s := rfl

/-- A result of another scalar register is on its way (R118). -/
theorem State.putS_ne (s : State) (d : BitVec 5) (x : W64) (L : Nat) (h : d ≠ 0) :
    s.putS d x L = s.updMe fun P => P.issue (.s d.toNat x) L := if_neg h

/-- A result on its way changes nothing but its own partition. -/
theorem State.putS_part_other (s : State) (d : BitVec 5) (x : W64) (L q : Nat) (h : q ≠ s.focus) :
    (s.putS d x L).part q = s.part q := by
  unfold State.putS
  split
  · rfl
  · exact State.part_updMe_other s q _ h

@[simp] theorem State.putS_mem (s : State) (d : BitVec 5) (x : W64) (L : Nat) : (s.putS d x L).mem = s.mem := by
  unfold State.putS; split <;> rfl

@[simp] theorem State.putS_hostMem (s : State) (d : BitVec 5) (x : W64) (L : Nat) : (s.putS d x L).hostMem = s.hostMem := by
  unfold State.putS; split <;> rfl

/-- Changing the partition in issue twice is one change by both functions: the second write of its entry replaces the first. -/
theorem KMap.set_set {α : Type} (m : KMap α) (k : Nat) (x y : α) : KMap.set (KMap.set m k x) k y = KMap.set m k y := by
  induction m with
  | nil => simp [KMap.set]
  | cons e m ih =>
    obtain ⟨j, z⟩ := e
    by_cases h : j = k
    · simp [KMap.set, h]
    · by_cases hl : k < j
      · simp [KMap.set, h, hl]
      · simp [KMap.set, h, hl, ih]

theorem State.updPart_updPart (s : State) (p : Nat) (f g : Part → Part) :
    (s.updPart p f).updPart p g = s.updPart p fun P => g (f P) := by
  simp [State.updPart, State.part, KMap.set_set, KMap.get_set_same]

theorem State.updMe_updMe (s : State) (f g : Part → Part) : (s.updMe f).updMe g = s.updMe fun P => g (f P) :=
  State.updPart_updPart s s.focus f g

/-! ### Tasks -/

/-- A task changed under its own name reads as changed. -/
theorem State.task_updTask (s : State) (id : W64) (f : Task → Task) (hf : ∀ t, (f t).id = t.id) (t : Task) (h : s.task id = some t) :
    (s.updTask id f).task id = some (f t) := by
  unfold State.task State.updTask at *
  simp only
  generalize s.tasks = l at *
  induction l with
  | nil => simp at h
  | cons a l ih =>
    by_cases ha : a.id = id
    · simp [ha, hf] at h ⊢; rw [h]
    · have ha' : (a.id == id) = false := by simpa using ha
      simp only [List.find?_cons, ha', List.map_cons, Bool.false_eq_true, if_false] at h ⊢
      exact ih h

/-! ### Withheld stores and recorded reads -/

@[simp] theorem State.withhold_mem (s : State) (d : Deferred) : (s.withhold d).mem = s.mem := rfl
@[simp] theorem State.withhold_hostMem (s : State) (d : Deferred) : (s.withhold d).hostMem = s.hostMem := rfl

/-- A property of the state that single steps of a fold keep is kept by the fold. -/
theorem foldl_keeps {α β γ : Type} (g : α → γ) (f : α → β → α) (h : ∀ s x, g (f s x) = g s) (l : List β) (s : α) :
    g (l.foldl f s) = g s := by
  induction l generalizing s with
  | nil => rfl
  | cons x l ih => exact (ih _).trans (h s x)

@[simp] theorem State.noteOut_mem (s : State) (p : Nat) (xs : List W64) : (s.noteOut p xs).mem = s.mem := rfl
@[simp] theorem State.noteOut_hostMem (s : State) (p : Nat) (xs : List W64) : (s.noteOut p xs).hostMem = s.hostMem := rfl

/-- A store that issues changes no memory: it is withheld (R76). -/
@[simp] theorem State.storeGlobal_mem (s : State) (x : Xlate) (va : W64) (bs : List Byte) (c sc : Nat) (r : Bool) (h : BitVec 2) (b : Bool) :
    (s.storeGlobal x va bs c sc r h b).mem = s.mem := by
  simp only [State.storeGlobal]
  rw [foldl_keeps State.mem]
  · rfl
  · intro _ _; rfl

@[simp] theorem State.storeGlobal_hostMem (s : State) (x : Xlate) (va : W64) (bs : List Byte) (c sc : Nat) (r : Bool)
    (h : BitVec 2) (b : Bool) : (s.storeGlobal x va bs c sc r h b).hostMem = s.hostMem := by
  simp only [State.storeGlobal]
  rw [foldl_keeps State.hostMem]
  · rfl
  · intro _ _; rfl

/-- A load that issues changes no memory: its read is recorded (R69). -/
@[simp] theorem State.loadGlobal_mem (s : State) (x : Xlate) (va : W64) (d : Reg) (n : Nat) (sx : Bool) (c sc : Nat)
    (h : BitVec 2) (a : Bool) (e : Option Nat) : (s.loadGlobal x va d n sx c sc h a e).mem = s.mem := rfl

@[simp] theorem State.loadGlobal_hostMem (s : State) (x : Xlate) (va : W64) (d : Reg) (n : Nat) (sx : Bool) (c sc : Nat)
    (h : BitVec 2) (a : Bool) (e : Option Nat) : (s.loadGlobal x va d n sx c sc h a e).hostMem = s.hostMem := rfl

/-! ### Rollback -/

/-- What `returnReserved` leaves alone: everything its single returns leave alone. -/
theorem State.returnReserved_mem (s : State) (p : Nat) : (s.returnReserved p).mem = s.mem := by
  unfold State.returnReserved
  refine foldl_keeps State.mem _ (fun s d => ?_) _ _
  split
  · split <;> (try split) <;> rfl
  · rfl

theorem State.returnReserved_hostMem (s : State) (p : Nat) : (s.returnReserved p).hostMem = s.hostMem := by
  unfold State.returnReserved
  refine foldl_keeps State.hostMem _ (fun s d => ?_) _ _
  split
  · split <;> (try split) <;> rfl
  · rfl

/-- A rollback changes no global memory (R129). -/
theorem State.rollback_mem (s : State) (p : Nat) : (s.rollback p).mem = s.mem := by
  simp [State.rollback, State.returnReserved_mem]

theorem State.rollback_hostMem (s : State) (p : Nat) : (s.rollback p).hostMem = s.hostMem := by
  simp [State.rollback, State.returnReserved_hostMem]

/-- After a rollback the partition holds its duplicate set, and nothing of the open interval is left (R129). -/
theorem State.rollback_part (s : State) (p : Nat) :
    ((s.rollback p).part p).flight = [] ∧ ((s.rollback p).part p).pend = [] ∧ ((s.rollback p).part p).sb = [] ∧
    ((s.rollback p).part p).journal = [] ∧ ((s.rollback p).part p).remaps = [] ∧ ((s.rollback p).part p).nb = 0 := by
  simp [State.rollback, Part.dropInterval]

/-! ### Writes -/

/-- What reads undefined in an arena changes no stored byte. -/
@[simp] theorem State.blurArena_cells (s : State) (a n : Nat) : (State.blurArena s a n).mem.cells = s.mem.cells := by
  simp only [State.blurArena]
  refine foldl_keeps Store.cells _ (fun m r => ?_) _ _
  split <;> rfl

/-- A write of local memory stores the bytes, and keeps the canonical form. -/
@[simp] theorem State.putMem_cells (s : State) (a : Nat) (bs : List Byte) :
    (s.putMem a bs).mem.cells = (s.mem.writeN (s.own a) bs).cells := by
  simp only [State.putMem, State.blurArena_cells]; rfl

theorem State.putMem_wf (s : State) (a : Nat) (bs : List Byte) (h : s.memWf) : (s.putMem a bs).memWf :=
  ⟨by rw [State.putMem_cells]; exact Store.writeN_wf _ _ _ h.1, h.2⟩

/-- No answer of a home outside the package is in hand for a place of this package. -/
@[simp] theorem State.farAnswer_own (s : State) (l : Loc) (f : Answer → Bool) (h : s.localHome l = true) :
    s.farAnswer l f = false := by simp [State.farAnswer, h]

/-- With no answer in hand, none is in hand for any place. -/
theorem State.farAnswer_none (s : State) (l : Loc) (f : Answer → Bool) (h : s.ans = none) : s.farAnswer l f = false := by
  simp [State.farAnswer, h]

/-- An answer or a wake on its way changes the port's replay buffer, the lists of what has been sent and of what waits, and the port its
lane keeps alone (R360). -/
theorem State.peerSend_frame (s : State) (m : PeerMsg) :
    { s.peerSend m with ports := s.ports, rsps := s.rsps, wakes := s.wakes, routes := s.routes, peerq := s.peerq } = s := by
  simp only [State.peerSend, State.putPeer, State.putFlits]
  repeat' split
  all_goals rfl

/-- With room on its way and nothing waiting for its package, an answer or a wake is sent at once (R360). -/
theorem State.peerSend_open (s : State) (m : PeerMsg) (h : s.peerRoom m = true) (hq : s.peerq = []) : s.peerSend m = s.putPeer m := by
  simp [State.peerSend, h, hq]

/-- The wakes of a write change no more than that. -/
theorem State.wakePeers_frame (s : State) (a n : Nat) :
    { s.wakePeers a n with ports := s.ports, rsps := s.rsps, wakes := s.wakes, routes := s.routes, peerq := s.peerq } = s := by
  refine foldl_keeps
    (fun u : State => { u with ports := s.ports, rsps := s.rsps, wakes := s.wakes, routes := s.routes, peerq := s.peerq }) _
    (fun t m => ?_) _ s
  exact congrArg
    (fun u : State => { u with ports := s.ports, rsps := s.rsps, wakes := s.wakes, routes := s.routes, peerq := s.peerq })
    (t.peerSend_frame (.wake m.1 m.2))

@[simp] theorem State.wakePeers_mem (s : State) (a n : Nat) : (s.wakePeers a n).mem = s.mem := congrArg (·.mem) (s.wakePeers_frame a n)
@[simp] theorem State.wakePeers_snaps (s : State) (a n : Nat) : (s.wakePeers a n).snaps = s.snaps :=
  congrArg (·.snaps) (s.wakePeers_frame a n)

/-- A write that no other package watches sends no wake (R260). -/
theorem State.wakePeers_none (s : State) (a n : Nat) (h : s.rmons = []) : s.wakePeers a n = s := by simp [State.wakePeers, h]

/-- With no snapshot open and no refusal in hand a write at a home in HBM4 is never refused, and it changes only memory and what its
wakes change. -/
theorem State.writeHome_plain (s : State) (a : Nat) (bs : List Byte) (h : s.snaps = [])
    (ha : (s.farAnswer (.hbm a) fun x => x = .arena) = false) :
    s.writeHome (.hbm a) bs =
      some { s.wakePeers a bs.length with mem := s.mem.writeN a bs } := by
  have hs : ∀ ls : List Nat, s.shadows ls = some s := by
    intro ls
    induction ls with
    | nil => rfl
    | cons l ls ih =>
      have : s.shadow l = some s := by simp [State.shadow, State.innermost, State.snapsOver, h]
      simp [State.shadows, this, ih]
  have h2 : (if s.isOwn a then s.shadows (linesOf a bs.length) else some s) = some s := by split <;> simp [hs]
  have hi : s.hitArena a bs.length = s := by
    simp only [State.hitArena, h, List.map_nil]
    exact congrArg (fun x => { s with snaps := x }) h.symm
  simp [State.writeHome, h2, ha, hi, State.blurArena, h]

/-- A write at a home in host memory is performed unless a refusal is in hand. -/
theorem State.writeHome_host (s : State) (a : Nat) (bs : List Byte) (ha : (s.farAnswer (.host a) fun x => x = .arena) = false) :
    s.writeHome (.host a) bs = some { s with hostMem := s.hostMem.writeN a bs } := by simp [State.writeHome, ha]

/-- A byte read after a write of a memory in canonical form: the written one inside the run, the old one outside (R69). -/
theorem Store.read_writeN (st : Store) (h : st.cells.wf) (a : Nat) (bs : List Byte) (x : Nat) :
    Mem.read (st.writeN a bs).cells x = if a ≤ x ∧ x < a + bs.length then nth 0 bs (x - a) else Mem.read st.cells x := by
  split
  · rename_i hx
    have := Mem.read_writeN_same st.cells h a bs (x - a) (by omega)
    rw [show a + (x - a) = x by omega] at this
    simp only [Store.writeN, this, nth]
    rw [List.getD_eq_getElem?_getD, List.getElem?_eq_getElem (by omega)]; rfl
  · rename_i hx
    exact Mem.read_writeN_other st.cells h a bs x (by omega)

/-! ### What the caches, the links and an answer leave alone -/

/-- The memory-side cache alone sees an access pass (R31, R32): no byte, register or task changes. -/
theorem State.touchLine_frame (s : State) (w : Bool) (pol : BitVec 2) (line : Nat) :
    { s.touchLine w pol line with msc := s.msc } = s := by
  simp only [State.touchLine]
  repeat' split
  all_goals rfl

theorem State.touch_frame (s : State) (l : Loc) (n : Nat) (w : Bool) (pol : BitVec 2) : { s.touch l n w pol with msc := s.msc } = s := by
  have h : ∀ (ls : List Nat) (t : State), { ls.foldl (fun s L => s.touchLine w pol L) t with msc := s.msc } = { t with msc := s.msc } := by
    intro ls
    induction ls with
    | nil => exact fun _ => rfl
    | cons a ls ih =>
      intro t
      rw [List.foldl_cons, ih]
      have := congrArg (fun u : State => { u with msc := s.msc }) (t.touchLine_frame w pol a)
      exact this
  simp only [State.touch]
  split
  · split
    · exact h ..
    · rfl
  · rfl

/-- A request put on its way changes the port's replay buffer, the list of messages and the port its lane keeps alone (R16, R360). -/
theorem State.emit_frame (s : State) (l : Loc) (r : RemoteReq) :
    { s.emit l r with ports := s.ports, lmsgs := s.lmsgs, routes := s.routes } = s := by
  simp only [State.emit, State.putFlits]
  repeat' split
  all_goals rfl

/-- What goes out to a home in another package changes those and the list of requests that wait for their lane alone (R359). -/
theorem State.sent_frame (s : State) (l : Loc) (r : Nat → RemoteReq) :
    { s.sent l r with ports := s.ports, lmsgs := s.lmsgs, routes := s.routes, outbox := s.outbox } = s := by
  simp only [State.sent]
  repeat' split
  all_goals first
    | rfl
    | exact congrArg (fun u : State => { u with outbox := s.outbox }) (s.emit_frame _ _)

/-- No answer is in hand once its event has run (R16; assumption 21). -/
@[simp] theorem State.answering_ans (s : State) (a : Answer) (f : State → State) : (s.answering a f).ans = none := rfl

/-- Meridian's reads send their requests and change nothing else of the state (R16, R359). -/
theorem State.mAsk_frame (s : State) (asid : Nat) (rs : List (Nat × Nat)) :
    { s.mAsk asid rs with ports := s.ports, lmsgs := s.lmsgs, routes := s.routes, outbox := s.outbox } = s := by
  refine foldl_keeps (fun u : State => { u with ports := s.ports, lmsgs := s.lmsgs, routes := s.routes, outbox := s.outbox }) _
    (fun t x => ?_) rs s
  split
  · exact congrArg (fun u : State => { u with ports := s.ports, lmsgs := s.lmsgs, routes := s.routes, outbox := s.outbox })
      (t.sent_frame _ _)
  · rfl

/-- Of homes in this package, and in host memory, nothing is asked. -/
theorem State.mAsk_own (s : State) (asid : Nat) (rs : List (Nat × Nat))
    (h : ∀ x ∈ rs, ∀ l, s.xlateMeridian asid .load x.1 x.2 = .ok l → s.localHome l = true ∨ l.isHost = true) : s.mAsk asid rs = s := by
  induction rs with
  | nil => rfl
  | cons x rs ih =>
    have one : s.mAsk asid [x] = s := by
      simp only [State.mAsk, List.foldl_cons, List.foldl_nil]
      split
      · rename_i l hl
        cases l with
        | host a => rfl
        | hbm a =>
          have : s.isOwn a = true := by simpa [State.localHome, Loc.isHost] using h x List.mem_cons_self _ hl
          simp [State.sent, this]
      · rfl
    show (s.mAsk asid [x]).mAsk asid rs = s
    rw [one]
    exact ih fun y hy => h y (List.mem_cons_of_mem _ hy)

/-! ### Launch numbers -/

/-- A list without repeats is no longer than one that holds all its entries. -/
theorem length_le_of_nodup {α : Type} [DecidableEq α] : ∀ {l k : List α}, l.Nodup → l ⊆ k → l.length ≤ k.length
  | [], _, _, _ => Nat.zero_le _
  | a :: l, k, hl, hs => by
    have ha : a ∈ k := hs List.mem_cons_self
    obtain ⟨hn, hl⟩ := List.nodup_cons.1 hl
    have := length_le_of_nodup (k := k.erase a) hl fun x hx =>
      (List.mem_erase_of_ne (by rintro rfl; exact hn hx)).2 (hs (List.mem_cons_of_mem _ hx))
    have pos := List.length_pos_of_mem ha
    rw [List.length_erase_of_mem ha] at this
    simp only [List.length_cons]
    omega

/-- A search that ends at a number in use has passed over numbers in use alone. -/
theorem State.freeLid_used (s : State) : ∀ k n, (∃ m ∈ s.launches, m.lid = BitVec.ofNat 32 (s.freeLid k n)) →
    ∀ i, i ≤ k → ∃ m ∈ s.launches, m.lid = BitVec.ofNat 32 (n + i)
  | 0, n, h, i, hi => by
    obtain rfl : i = 0 := by omega
    exact h
  | k + 1, n, h, i, hi => by
    rw [State.freeLid] at h
    split at h
    · rename_i used
      cases i with
      | zero => simpa using used
      | succ i =>
        obtain ⟨m, hm, e⟩ := State.freeLid_used s k (n + 1) h i (by omega)
        exact ⟨m, hm, by rw [e, Nat.add_right_comm, Nat.add_assoc]⟩
    · rename_i free
      obtain ⟨m, hm, e⟩ := h
      exact absurd (List.any_eq_true.2 ⟨m, hm, by simpa using e⟩) free

/-- The next LAUNCH number is no incomplete launch's (R187). -/
theorem State.nextLid_fresh (s : State) (h : s.launches.length < 2 ^ 32) : ∀ m ∈ s.launches, m.lid ≠ BitVec.ofNat 32 s.nextLid := by
  intro m hm e
  have used := s.freeLid_used _ _ ⟨m, hm, e⟩
  have nodup : ((List.range (s.launches.length + 1)).map fun i => BitVec.ofNat 32 (s.lastLid + 1 + i)).Nodup := by
    refine List.pairwise_map.2 (List.pairwise_lt_range.imp_of_mem fun {a b} ha hb hab e => ?_)
    have hb := List.mem_range.1 hb
    have := congrArg BitVec.toNat e
    simp only [BitVec.toNat_ofNat] at this
    omega
  have sub : ((List.range (s.launches.length + 1)).map fun i => BitVec.ofNat 32 (s.lastLid + 1 + i)) ⊆ s.launches.map Launch.lid := by
    intro x hx
    obtain ⟨i, hi, rfl⟩ := List.mem_map.1 hx
    obtain ⟨m, hm, e⟩ := used i (by have := List.mem_range.1 hi; omega)
    exact List.mem_map.2 ⟨m, hm, e⟩
  have := length_le_of_nodup nodup sub
  simp only [List.length_map, List.length_range] at this
  omega

/-! ### Accumulator tiles -/

/-- A tile with no undefined element reads as it stands (R8, R63). -/
@[simp] theorem Resident.accTile_defined (r : Resident) (fr t : Nat) (h : r.tundef = []) : r.accTile fr t = KMap.get accZero r.tiles t := by
  simp [Resident.accTile, h]

/-- A read of a tile has the length of what is stored. -/
@[simp] theorem Resident.accTile_length (r : Resident) (fr t : Nat) : (r.accTile fr t).length = (KMap.get accZero r.tiles t).length := by
  simp only [Resident.accTile]
  split <;> simp

end Sys2Proof.Machine
end

