-- ==== Sys2Proof/Laws/PerInstr.lean ====
section
/-! SUPPORT. One lemma for each constructor of `Instr`: an operation has a word of its own exactly when a slot class carries it
(R153 to R156), and the events of spec/95 are the constructors that have none. -/

namespace Sys2Proof.Laws.Encoding

/-- The operation has a word exactly when it has a slot class, and exactly when it is no event. -/
def Statement (i : Instr) : Prop := (encode i).isSome = i.cls?.isSome ∧ (encode i).isSome = !i.isEvent

theorem sadd (x0 x1 x2 x3 x4 x5) : Statement (.sadd x0 x1 x2 x3 x4 x5) := ⟨rfl, rfl⟩
theorem ssub (x0 x1 x2 x3 x4 x5) : Statement (.ssub x0 x1 x2 x3 x4 x5) := ⟨rfl, rfl⟩
theorem smul (x0 x1 x2 x3 x4 x5) : Statement (.smul x0 x1 x2 x3 x4 x5) := ⟨rfl, rfl⟩
theorem smulh (x0 x1 x2 x3 x4 x5) : Statement (.smulh x0 x1 x2 x3 x4 x5) := ⟨rfl, rfl⟩
theorem sdiv (x0 x1 x2 x3 x4 x5) : Statement (.sdiv x0 x1 x2 x3 x4 x5) := ⟨rfl, rfl⟩
theorem srem (x0 x1 x2 x3 x4 x5) : Statement (.srem x0 x1 x2 x3 x4 x5) := ⟨rfl, rfl⟩
theorem smin (x0 x1 x2 x3 x4 x5) : Statement (.smin x0 x1 x2 x3 x4 x5) := ⟨rfl, rfl⟩
theorem smax (x0 x1 x2 x3 x4 x5) : Statement (.smax x0 x1 x2 x3 x4 x5) := ⟨rfl, rfl⟩
theorem sand (x0 x1 x2 x3 x4 x5) : Statement (.sand x0 x1 x2 x3 x4 x5) := ⟨rfl, rfl⟩
theorem sor (x0 x1 x2 x3 x4 x5) : Statement (.sor x0 x1 x2 x3 x4 x5) := ⟨rfl, rfl⟩
theorem sxor (x0 x1 x2 x3 x4 x5) : Statement (.sxor x0 x1 x2 x3 x4 x5) := ⟨rfl, rfl⟩
theorem sandn (x0 x1 x2 x3 x4 x5) : Statement (.sandn x0 x1 x2 x3 x4 x5) := ⟨rfl, rfl⟩
theorem sshl (x0 x1 x2 x3 x4 x5) : Statement (.sshl x0 x1 x2 x3 x4 x5) := ⟨rfl, rfl⟩
theorem sshr (x0 x1 x2 x3 x4 x5) : Statement (.sshr x0 x1 x2 x3 x4 x5) := ⟨rfl, rfl⟩
theorem ssra (x0 x1 x2 x3 x4 x5) : Statement (.ssra x0 x1 x2 x3 x4 x5) := ⟨rfl, rfl⟩
theorem srot (x0 x1 x2 x3 x4 x5) : Statement (.srot x0 x1 x2 x3 x4 x5) := ⟨rfl, rfl⟩
theorem saddSi (x0 x1 x2 x3) : Statement (.saddSi x0 x1 x2 x3) := ⟨rfl, rfl⟩
theorem smulSi (x0 x1 x2 x3) : Statement (.smulSi x0 x1 x2 x3) := ⟨rfl, rfl⟩
theorem sandSi (x0 x1 x2 x3) : Statement (.sandSi x0 x1 x2 x3) := ⟨rfl, rfl⟩
theorem sorSi (x0 x1 x2 x3) : Statement (.sorSi x0 x1 x2 x3) := ⟨rfl, rfl⟩
theorem sxorSi (x0 x1 x2 x3) : Statement (.sxorSi x0 x1 x2 x3) := ⟨rfl, rfl⟩
theorem sminSi (x0 x1 x2 x3) : Statement (.sminSi x0 x1 x2 x3) := ⟨rfl, rfl⟩
theorem smaxSi (x0 x1 x2 x3) : Statement (.smaxSi x0 x1 x2 x3) := ⟨rfl, rfl⟩
theorem sshlSi (x0 x1 x2 x3) : Statement (.sshlSi x0 x1 x2 x3) := ⟨rfl, rfl⟩
theorem sshrSi (x0 x1 x2 x3) : Statement (.sshrSi x0 x1 x2 x3) := ⟨rfl, rfl⟩
theorem ssraSi (x0 x1 x2 x3) : Statement (.ssraSi x0 x1 x2 x3) := ⟨rfl, rfl⟩
theorem srotSi (x0 x1 x2 x3) : Statement (.srotSi x0 x1 x2 x3) := ⟨rfl, rfl⟩
theorem sclz (x0 x1 x2 x3 x4) : Statement (.sclz x0 x1 x2 x3 x4) := ⟨rfl, rfl⟩
theorem sctz (x0 x1 x2 x3 x4) : Statement (.sctz x0 x1 x2 x3 x4) := ⟨rfl, rfl⟩
theorem spopc (x0 x1 x2 x3 x4) : Statement (.spopc x0 x1 x2 x3 x4) := ⟨rfl, rfl⟩
theorem sext (x0 x1 x2 x3 x4) : Statement (.sext x0 x1 x2 x3 x4) := ⟨rfl, rfl⟩
theorem sbfx (x0 x1 x2 x3 x4) : Statement (.sbfx x0 x1 x2 x3 x4) := ⟨rfl, rfl⟩
theorem sbfi (x0 x1 x2 x3) : Statement (.sbfi x0 x1 x2 x3) := ⟨rfl, rfl⟩
theorem smov (x0 x1 x2) : Statement (.smov x0 x1 x2) := ⟨rfl, rfl⟩
theorem smovi (x0 x1 x2) : Statement (.smovi x0 x1 x2) := ⟨rfl, rfl⟩
theorem scmp (x0 x1 x2 x3 x4 x5) : Statement (.scmp x0 x1 x2 x3 x4 x5) := ⟨rfl, rfl⟩
theorem scmpSi (x0 x1 x2 x3 x4) : Statement (.scmpSi x0 x1 x2 x3 x4) := ⟨rfl, rfl⟩
theorem ssel (x0 x1 x2 x3 x4 x5) : Statement (.ssel x0 x1 x2 x3 x4 x5) := ⟨rfl, rfl⟩
theorem pset (x0 x1 x2 x3 x4) : Statement (.pset x0 x1 x2 x3 x4) := ⟨rfl, rfl⟩
theorem sfadd (x0 x1 x2 x3 x4) : Statement (.sfadd x0 x1 x2 x3 x4) := ⟨rfl, rfl⟩
theorem sfmul (x0 x1 x2 x3) : Statement (.sfmul x0 x1 x2 x3) := ⟨rfl, rfl⟩
theorem sffma (x0 x1 x2 x3 x4) : Statement (.sffma x0 x1 x2 x3 x4) := ⟨rfl, rfl⟩
theorem sfcvt (x0 x1 x2 x3 x4 x5 x6 x7) : Statement (.sfcvt x0 x1 x2 x3 x4 x5 x6 x7) := ⟨rfl, rfl⟩
theorem sfcmp (x0 x1 x2 x3 x4) : Statement (.sfcmp x0 x1 x2 x3 x4) := ⟨rfl, rfl⟩
theorem sget (x0 x1 x2) : Statement (.sget x0 x1 x2) := ⟨rfl, rfl⟩
theorem sset (x0 x1 x2) : Statement (.sset x0 x1 x2) := ⟨rfl, rfl⟩
theorem br (x0 x1) : Statement (.br x0 x1) := ⟨rfl, rfl⟩
theorem call (x0 x1) : Statement (.call x0 x1) := ⟨rfl, rfl⟩
theorem bri (x0 x1 x2) : Statement (.bri x0 x1 x2) := ⟨rfl, rfl⟩
theorem ret (x0) : Statement (.ret x0) := ⟨rfl, rfl⟩
theorem loop (x0 x1 x2 x3) : Statement (.loop x0 x1 x2 x3) := ⟨rfl, rfl⟩
theorem loopx (x0 x1) : Statement (.loopx x0 x1) := ⟨rfl, rfl⟩
theorem trap (x0 x1) : Statement (.trap x0 x1) := ⟨rfl, rfl⟩
theorem brk (x0 x1) : Statement (.brk x0 x1) := ⟨rfl, rfl⟩
theorem trig (x0) : Statement (.trig x0) := ⟨rfl, rfl⟩
theorem exit (x0) : Statement (.exit x0) := ⟨rfl, rfl⟩
theorem yield (x0) : Statement (.yield x0) := ⟨rfl, rfl⟩
theorem cont (x0 x1) : Statement (.cont x0 x1) := ⟨rfl, rfl⟩
theorem tret (x0) : Statement (.tret x0) := ⟨rfl, rfl⟩
theorem halt (x0) : Statement (.halt x0) := ⟨rfl, rfl⟩
theorem vaddF (x0 x1 x2 x3 x4 x5) : Statement (.vaddF x0 x1 x2 x3 x4 x5) := ⟨rfl, rfl⟩
theorem vsubF (x0 x1 x2 x3 x4 x5) : Statement (.vsubF x0 x1 x2 x3 x4 x5) := ⟨rfl, rfl⟩
theorem vmulF (x0 x1 x2 x3 x4 x5) : Statement (.vmulF x0 x1 x2 x3 x4 x5) := ⟨rfl, rfl⟩
theorem vfma (x0 x1 x2 x3 x4 x5) : Statement (.vfma x0 x1 x2 x3 x4 x5) := ⟨rfl, rfl⟩
theorem vfnma (x0 x1 x2 x3 x4 x5) : Statement (.vfnma x0 x1 x2 x3 x4 x5) := ⟨rfl, rfl⟩
theorem vminF (x0 x1 x2 x3 x4 x5) : Statement (.vminF x0 x1 x2 x3 x4 x5) := ⟨rfl, rfl⟩
theorem vmaxF (x0 x1 x2 x3 x4 x5) : Statement (.vmaxF x0 x1 x2 x3 x4 x5) := ⟨rfl, rfl⟩
theorem vabsF (x0 x1 x2 x3 x4) : Statement (.vabsF x0 x1 x2 x3 x4) := ⟨rfl, rfl⟩
theorem vnegF (x0 x1 x2 x3 x4) : Statement (.vnegF x0 x1 x2 x3 x4) := ⟨rfl, rfl⟩
theorem vcmpF (x0 x1 x2 x3 x4 x5) : Statement (.vcmpF x0 x1 x2 x3 x4 x5) := ⟨rfl, rfl⟩
theorem vaddI (x0 x1 x2 x3 x4 x5) : Statement (.vaddI x0 x1 x2 x3 x4 x5) := ⟨rfl, rfl⟩
theorem vsubI (x0 x1 x2 x3 x4 x5) : Statement (.vsubI x0 x1 x2 x3 x4 x5) := ⟨rfl, rfl⟩
theorem vmulI (x0 x1 x2 x3 x4 x5) : Statement (.vmulI x0 x1 x2 x3 x4 x5) := ⟨rfl, rfl⟩
theorem vminI (x0 x1 x2 x3 x4 x5) : Statement (.vminI x0 x1 x2 x3 x4 x5) := ⟨rfl, rfl⟩
theorem vmaxI (x0 x1 x2 x3 x4 x5) : Statement (.vmaxI x0 x1 x2 x3 x4 x5) := ⟨rfl, rfl⟩
theorem vminN (x0 x1 x2 x3 x4 x5) : Statement (.vminN x0 x1 x2 x3 x4 x5) := ⟨rfl, rfl⟩
theorem vmaxN (x0 x1 x2 x3 x4 x5) : Statement (.vmaxN x0 x1 x2 x3 x4 x5) := ⟨rfl, rfl⟩
theorem vabsI (x0 x1 x2 x3 x4) : Statement (.vabsI x0 x1 x2 x3 x4) := ⟨rfl, rfl⟩
theorem vnegI (x0 x1 x2 x3 x4) : Statement (.vnegI x0 x1 x2 x3 x4) := ⟨rfl, rfl⟩
theorem vcmpI (x0 x1 x2 x3 x4 x5) : Statement (.vcmpI x0 x1 x2 x3 x4 x5) := ⟨rfl, rfl⟩
theorem vcmpN (x0 x1 x2 x3 x4 x5) : Statement (.vcmpN x0 x1 x2 x3 x4 x5) := ⟨rfl, rfl⟩
theorem vand (x0 x1 x2 x3 x4) : Statement (.vand x0 x1 x2 x3 x4) := ⟨rfl, rfl⟩
theorem vor (x0 x1 x2 x3 x4) : Statement (.vor x0 x1 x2 x3 x4) := ⟨rfl, rfl⟩
theorem vxor (x0 x1 x2 x3 x4) : Statement (.vxor x0 x1 x2 x3 x4) := ⟨rfl, rfl⟩
theorem vshl (x0 x1 x2 x3 x4 x5) : Statement (.vshl x0 x1 x2 x3 x4 x5) := ⟨rfl, rfl⟩
theorem vshr (x0 x1 x2 x3 x4 x5) : Statement (.vshr x0 x1 x2 x3 x4 x5) := ⟨rfl, rfl⟩
theorem vsra (x0 x1 x2 x3 x4 x5) : Statement (.vsra x0 x1 x2 x3 x4 x5) := ⟨rfl, rfl⟩
theorem vsel (x0 x1 x2 x3 x4) : Statement (.vsel x0 x1 x2 x3 x4) := ⟨rfl, rfl⟩
theorem vmov (x0 x1 x2 x3) : Statement (.vmov x0 x1 x2 x3) := ⟨rfl, rfl⟩
theorem vmovs (x0 x1 x2 x3) : Statement (.vmovs x0 x1 x2 x3) := ⟨rfl, rfl⟩
theorem viota (x0 x1 x2 x3) : Statement (.viota x0 x1 x2 x3) := ⟨rfl, rfl⟩
theorem vcvt (x0 x1 x2 x3 x4 x5) : Statement (.vcvt x0 x1 x2 x3 x4 x5) := ⟨rfl, rfl⟩
theorem vcvtSat (x0 x1 x2 x3 x4 x5) : Statement (.vcvtSat x0 x1 x2 x3 x4 x5) := ⟨rfl, rfl⟩
theorem vpack (x0 x1 x2 x3 x4 x5) : Statement (.vpack x0 x1 x2 x3 x4 x5) := ⟨rfl, rfl⟩
theorem vunpk (x0 x1 x2 x3 x4 x5) : Statement (.vunpk x0 x1 x2 x3 x4 x5) := ⟨rfl, rfl⟩
theorem vquant (x0 x1 x2 x3) : Statement (.vquant x0 x1 x2 x3) := ⟨rfl, rfl⟩
theorem vrotr (x0 x1 x2 x3) : Statement (.vrotr x0 x1 x2 x3) := ⟨rfl, rfl⟩
theorem vbcr (x0 x1 x2 x3) : Statement (.vbcr x0 x1 x2 x3) := ⟨rfl, rfl⟩
theorem vredr (x0 x1 x2 x3 x4) : Statement (.vredr x0 x1 x2 x3 x4) := ⟨rfl, rfl⟩
theorem vrotc (x0 x1 x2 x3) : Statement (.vrotc x0 x1 x2 x3) := ⟨rfl, rfl⟩
theorem vbcc (x0 x1 x2 x3) : Statement (.vbcc x0 x1 x2 x3) := ⟨rfl, rfl⟩
theorem vredc (x0 x1 x2 x3 x4) : Statement (.vredc x0 x1 x2 x3 x4) := ⟨rfl, rfl⟩
theorem vpermc (x0 x1 x2 x3 x4) : Statement (.vpermc x0 x1 x2 x3 x4) := ⟨rfl, rfl⟩
theorem vext (x0 x1 x2 x3 x4) : Statement (.vext x0 x1 x2 x3 x4) := ⟨rfl, rfl⟩
theorem vins (x0 x1 x2 x3 x4) : Statement (.vins x0 x1 x2 x3 x4) := ⟨rfl, rfl⟩
theorem mlog (x0 x1 x2 x3 x4) : Statement (.mlog x0 x1 x2 x3 x4) := ⟨rfl, rfl⟩
theorem mpop (x0 x1 x2 x3) : Statement (.mpop x0 x1 x2 x3) := ⟨rfl, rfl⟩
theorem mset (x0 x1 x2) : Statement (.mset x0 x1 x2) := ⟨rfl, rfl⟩
theorem mmov (x0 x1 x2) : Statement (.mmov x0 x1 x2) := ⟨rfl, rfl⟩
theorem vrcp (x0 x1 x2 x3 x4) : Statement (.vrcp x0 x1 x2 x3 x4) := ⟨rfl, rfl⟩
theorem vrsq (x0 x1 x2 x3 x4) : Statement (.vrsq x0 x1 x2 x3 x4) := ⟨rfl, rfl⟩
theorem vexp2 (x0 x1 x2 x3 x4) : Statement (.vexp2 x0 x1 x2 x3 x4) := ⟨rfl, rfl⟩
theorem vlog2 (x0 x1 x2 x3 x4) : Statement (.vlog2 x0 x1 x2 x3 x4) := ⟨rfl, rfl⟩
theorem ldB (x0 x1 x2 x3) : Statement (.ldB x0 x1 x2 x3) := ⟨rfl, rfl⟩
theorem ldBu (x0 x1 x2 x3) : Statement (.ldBu x0 x1 x2 x3) := ⟨rfl, rfl⟩
theorem ldH (x0 x1 x2 x3) : Statement (.ldH x0 x1 x2 x3) := ⟨rfl, rfl⟩
theorem ldHu (x0 x1 x2 x3) : Statement (.ldHu x0 x1 x2 x3) := ⟨rfl, rfl⟩
theorem ldW (x0 x1 x2 x3) : Statement (.ldW x0 x1 x2 x3) := ⟨rfl, rfl⟩
theorem ldWu (x0 x1 x2 x3) : Statement (.ldWu x0 x1 x2 x3) := ⟨rfl, rfl⟩
theorem ldD (x0 x1 x2 x3) : Statement (.ldD x0 x1 x2 x3) := ⟨rfl, rfl⟩
theorem ldv (x0 x1 x2 x3) : Statement (.ldv x0 x1 x2 x3) := ⟨rfl, rfl⟩
theorem stB (x0 x1 x2 x3) : Statement (.stB x0 x1 x2 x3) := ⟨rfl, rfl⟩
theorem stH (x0 x1 x2 x3) : Statement (.stH x0 x1 x2 x3) := ⟨rfl, rfl⟩
theorem stW (x0 x1 x2 x3) : Statement (.stW x0 x1 x2 x3) := ⟨rfl, rfl⟩
theorem stD (x0 x1 x2 x3) : Statement (.stD x0 x1 x2 x3) := ⟨rfl, rfl⟩
theorem stv (x0 x1 x2 x3) : Statement (.stv x0 x1 x2 x3) := ⟨rfl, rfl⟩
theorem ldBMq (x0 x1 x2 x3 x4 x5) : Statement (.ldBMq x0 x1 x2 x3 x4 x5) := ⟨rfl, rfl⟩
theorem ldBuMq (x0 x1 x2 x3 x4 x5) : Statement (.ldBuMq x0 x1 x2 x3 x4 x5) := ⟨rfl, rfl⟩
theorem ldHMq (x0 x1 x2 x3 x4 x5) : Statement (.ldHMq x0 x1 x2 x3 x4 x5) := ⟨rfl, rfl⟩
theorem ldHuMq (x0 x1 x2 x3 x4 x5) : Statement (.ldHuMq x0 x1 x2 x3 x4 x5) := ⟨rfl, rfl⟩
theorem ldWMq (x0 x1 x2 x3 x4 x5) : Statement (.ldWMq x0 x1 x2 x3 x4 x5) := ⟨rfl, rfl⟩
theorem ldWuMq (x0 x1 x2 x3 x4 x5) : Statement (.ldWuMq x0 x1 x2 x3 x4 x5) := ⟨rfl, rfl⟩
theorem ldDMq (x0 x1 x2 x3 x4 x5) : Statement (.ldDMq x0 x1 x2 x3 x4 x5) := ⟨rfl, rfl⟩
theorem ldvMq (x0 x1 x2 x3 x4 x5) : Statement (.ldvMq x0 x1 x2 x3 x4 x5) := ⟨rfl, rfl⟩
theorem stBMq (x0 x1 x2 x3 x4 x5) : Statement (.stBMq x0 x1 x2 x3 x4 x5) := ⟨rfl, rfl⟩
theorem stHMq (x0 x1 x2 x3 x4 x5) : Statement (.stHMq x0 x1 x2 x3 x4 x5) := ⟨rfl, rfl⟩
theorem stWMq (x0 x1 x2 x3 x4 x5) : Statement (.stWMq x0 x1 x2 x3 x4 x5) := ⟨rfl, rfl⟩
theorem stDMq (x0 x1 x2 x3 x4 x5) : Statement (.stDMq x0 x1 x2 x3 x4 x5) := ⟨rfl, rfl⟩
theorem stvMq (x0 x1 x2 x3 x4 x5) : Statement (.stvMq x0 x1 x2 x3 x4 x5) := ⟨rfl, rfl⟩
theorem ldAcqB (x0 x1 x2 x3 x4 x5) : Statement (.ldAcqB x0 x1 x2 x3 x4 x5) := ⟨rfl, rfl⟩
theorem ldAcqBu (x0 x1 x2 x3 x4 x5) : Statement (.ldAcqBu x0 x1 x2 x3 x4 x5) := ⟨rfl, rfl⟩
theorem ldAcqH (x0 x1 x2 x3 x4 x5) : Statement (.ldAcqH x0 x1 x2 x3 x4 x5) := ⟨rfl, rfl⟩
theorem ldAcqHu (x0 x1 x2 x3 x4 x5) : Statement (.ldAcqHu x0 x1 x2 x3 x4 x5) := ⟨rfl, rfl⟩
theorem ldAcqW (x0 x1 x2 x3 x4 x5) : Statement (.ldAcqW x0 x1 x2 x3 x4 x5) := ⟨rfl, rfl⟩
theorem ldAcqWu (x0 x1 x2 x3 x4 x5) : Statement (.ldAcqWu x0 x1 x2 x3 x4 x5) := ⟨rfl, rfl⟩
theorem ldAcqD (x0 x1 x2 x3 x4 x5) : Statement (.ldAcqD x0 x1 x2 x3 x4 x5) := ⟨rfl, rfl⟩
theorem stRelB (x0 x1 x2 x3 x4 x5) : Statement (.stRelB x0 x1 x2 x3 x4 x5) := ⟨rfl, rfl⟩
theorem stRelH (x0 x1 x2 x3 x4 x5) : Statement (.stRelH x0 x1 x2 x3 x4 x5) := ⟨rfl, rfl⟩
theorem stRelW (x0 x1 x2 x3 x4 x5) : Statement (.stRelW x0 x1 x2 x3 x4 x5) := ⟨rfl, rfl⟩
theorem stRelD (x0 x1 x2 x3 x4 x5) : Statement (.stRelD x0 x1 x2 x3 x4 x5) := ⟨rfl, rfl⟩
theorem ldSpB (x0 x1 x2 x3) : Statement (.ldSpB x0 x1 x2 x3) := ⟨rfl, rfl⟩
theorem ldSpBu (x0 x1 x2 x3) : Statement (.ldSpBu x0 x1 x2 x3) := ⟨rfl, rfl⟩
theorem ldSpH (x0 x1 x2 x3) : Statement (.ldSpH x0 x1 x2 x3) := ⟨rfl, rfl⟩
theorem ldSpHu (x0 x1 x2 x3) : Statement (.ldSpHu x0 x1 x2 x3) := ⟨rfl, rfl⟩
theorem ldSpW (x0 x1 x2 x3) : Statement (.ldSpW x0 x1 x2 x3) := ⟨rfl, rfl⟩
theorem ldSpWu (x0 x1 x2 x3) : Statement (.ldSpWu x0 x1 x2 x3) := ⟨rfl, rfl⟩
theorem ldSpD (x0 x1 x2 x3) : Statement (.ldSpD x0 x1 x2 x3) := ⟨rfl, rfl⟩
theorem ldvSp (x0 x1 x2 x3) : Statement (.ldvSp x0 x1 x2 x3) := ⟨rfl, rfl⟩
theorem stSpB (x0 x1 x2 x3) : Statement (.stSpB x0 x1 x2 x3) := ⟨rfl, rfl⟩
theorem stSpH (x0 x1 x2 x3) : Statement (.stSpH x0 x1 x2 x3) := ⟨rfl, rfl⟩
theorem stSpW (x0 x1 x2 x3) : Statement (.stSpW x0 x1 x2 x3) := ⟨rfl, rfl⟩
theorem stSpD (x0 x1 x2 x3) : Statement (.stSpD x0 x1 x2 x3) := ⟨rfl, rfl⟩
theorem stvSp (x0 x1 x2 x3) : Statement (.stvSp x0 x1 x2 x3) := ⟨rfl, rfl⟩
theorem ldSpBMq (x0 x1 x2 x3 x4) : Statement (.ldSpBMq x0 x1 x2 x3 x4) := ⟨rfl, rfl⟩
theorem ldSpBuMq (x0 x1 x2 x3 x4) : Statement (.ldSpBuMq x0 x1 x2 x3 x4) := ⟨rfl, rfl⟩
theorem ldSpHMq (x0 x1 x2 x3 x4) : Statement (.ldSpHMq x0 x1 x2 x3 x4) := ⟨rfl, rfl⟩
theorem ldSpHuMq (x0 x1 x2 x3 x4) : Statement (.ldSpHuMq x0 x1 x2 x3 x4) := ⟨rfl, rfl⟩
theorem ldSpWMq (x0 x1 x2 x3 x4) : Statement (.ldSpWMq x0 x1 x2 x3 x4) := ⟨rfl, rfl⟩
theorem ldSpWuMq (x0 x1 x2 x3 x4) : Statement (.ldSpWuMq x0 x1 x2 x3 x4) := ⟨rfl, rfl⟩
theorem ldSpDMq (x0 x1 x2 x3 x4) : Statement (.ldSpDMq x0 x1 x2 x3 x4) := ⟨rfl, rfl⟩
theorem ldvSpMq (x0 x1 x2 x3 x4) : Statement (.ldvSpMq x0 x1 x2 x3 x4) := ⟨rfl, rfl⟩
theorem stSpBMq (x0 x1 x2 x3 x4) : Statement (.stSpBMq x0 x1 x2 x3 x4) := ⟨rfl, rfl⟩
theorem stSpHMq (x0 x1 x2 x3 x4) : Statement (.stSpHMq x0 x1 x2 x3 x4) := ⟨rfl, rfl⟩
theorem stSpWMq (x0 x1 x2 x3 x4) : Statement (.stSpWMq x0 x1 x2 x3 x4) := ⟨rfl, rfl⟩
theorem stSpDMq (x0 x1 x2 x3 x4) : Statement (.stSpDMq x0 x1 x2 x3 x4) := ⟨rfl, rfl⟩
theorem stvSpMq (x0 x1 x2 x3 x4) : Statement (.stvSpMq x0 x1 x2 x3 x4) := ⟨rfl, rfl⟩
theorem ldx (x0 x1 x2 x3 x4) : Statement (.ldx x0 x1 x2 x3 x4) := ⟨rfl, rfl⟩
theorem stx (x0 x1 x2 x3 x4) : Statement (.stx x0 x1 x2 x3 x4) := ⟨rfl, rfl⟩
theorem ldxSp (x0 x1 x2 x3 x4) : Statement (.ldxSp x0 x1 x2 x3 x4) := ⟨rfl, rfl⟩
theorem stxSp (x0 x1 x2 x3 x4) : Statement (.stxSp x0 x1 x2 x3 x4) := ⟨rfl, rfl⟩
theorem atomW (x0 x1 x2 x3 x4 x5) : Statement (.atomW x0 x1 x2 x3 x4 x5) := ⟨rfl, rfl⟩
theorem atomD (x0 x1 x2 x3 x4 x5) : Statement (.atomD x0 x1 x2 x3 x4 x5) := ⟨rfl, rfl⟩
theorem casW (x0 x1 x2 x3 x4) : Statement (.casW x0 x1 x2 x3 x4) := ⟨rfl, rfl⟩
theorem casD (x0 x1 x2 x3 x4) : Statement (.casD x0 x1 x2 x3 x4) := ⟨rfl, rfl⟩
theorem fence (x0 x1 x2) : Statement (.fence x0 x1 x2) := ⟨rfl, rfl⟩
theorem mwait (x0 x1 x2 x3 x4) : Statement (.mwait x0 x1 x2 x3 x4) := ⟨rfl, rfl⟩
theorem prf (x0 x1 x2 x3) : Statement (.prf x0 x1 x2 x3) := ⟨rfl, rfl⟩
theorem cinv (x0) : Statement (.cinv x0) := ⟨rfl, rfl⟩
theorem cinvL (x0 x1) : Statement (.cinvL x0 x1) := ⟨rfl, rfl⟩
theorem vjoin (x0) : Statement (.vjoin x0) := ⟨rfl, rfl⟩
theorem ifence (x0) : Statement (.ifence x0) := ⟨rfl, rfl⟩
theorem enq (x0 x1 x2) : Statement (.enq x0 x1 x2) := ⟨rfl, rfl⟩
theorem grow (x0 x1) : Statement (.grow x0 x1) := ⟨rfl, rfl⟩
theorem bgadd (x0 x1 x2 x3) : Statement (.bgadd x0 x1 x2 x3) := ⟨rfl, rfl⟩
theorem copy (x0 x1 x2 x3 x4) : Statement (.copy x0 x1 x2 x3 x4) := ⟨rfl, rfl⟩
theorem stamp (x0 x1 x2 x3 x4 x5) : Statement (.stamp x0 x1 x2 x3 x4 x5) := ⟨rfl, rfl⟩
theorem ctarm (x0 x1 x2 x3 x4) : Statement (.ctarm x0 x1 x2 x3 x4) := ⟨rfl, rfl⟩
theorem ctarmDis (x0 x1 x2 x3) : Statement (.ctarmDis x0 x1 x2 x3) := ⟨rfl, rfl⟩
theorem ctset (x0 x1 x2 x3) : Statement (.ctset x0 x1 x2 x3) := ⟨rfl, rfl⟩
theorem ctstat (x0 x1 x2 x3) : Statement (.ctstat x0 x1 x2 x3) := ⟨rfl, rfl⟩
theorem hgive (x0 x1 x2 x3 x4) : Statement (.hgive x0 x1 x2 x3 x4) := ⟨rfl, rfl⟩
theorem hgiveRet (x0 x1 x2 x3) : Statement (.hgiveRet x0 x1 x2 x3) := ⟨rfl, rfl⟩
theorem htake (x0 x1 x2 x3 x4) : Statement (.htake x0 x1 x2 x3 x4) := ⟨rfl, rfl⟩
theorem htakeWd (x0 x1 x2 x3) : Statement (.htakeWd x0 x1 x2 x3) := ⟨rfl, rfl⟩
theorem hqry (x0 x1 x2) : Statement (.hqry x0 x1 x2) := ⟨rfl, rfl⟩
theorem snap (x0 x1 x2 x3) : Statement (.snap x0 x1 x2 x3) := ⟨rfl, rfl⟩
theorem sacc (x0 x1 x2 x3) : Statement (.sacc x0 x1 x2 x3) := ⟨rfl, rfl⟩
theorem srej (x0 x1 x2 x3) : Statement (.srej x0 x1 x2 x3) := ⟨rfl, rfl⟩
theorem sstat (x0 x1 x2) : Statement (.sstat x0 x1 x2) := ⟨rfl, rfl⟩
theorem evac (x0 x1 x2 x3 x4) : Statement (.evac x0 x1 x2 x3 x4) := ⟨rfl, rfl⟩
theorem chartq (x0 x1 x2) : Statement (.chartq x0 x1 x2) := ⟨rfl, rfl⟩
theorem mxfmt (x0 x1 x2 x3) : Statement (.mxfmt x0 x1 x2 x3) := ⟨rfl, rfl⟩
theorem mxw (x0 x1 x2) : Statement (.mxw x0 x1 x2) := ⟨rfl, rfl⟩
theorem mxmac (x0 x1 x2 x3) : Statement (.mxmac x0 x1 x2 x3) := ⟨rfl, rfl⟩
theorem mxmul (x0 x1 x2 x3) : Statement (.mxmul x0 x1 x2 x3) := ⟨rfl, rfl⟩
theorem mxdrv (x0 x1 x2 x3) : Statement (.mxdrv x0 x1 x2 x3) := ⟨rfl, rfl⟩
theorem mxchk (x0 x1 x2 x3) : Statement (.mxchk x0 x1 x2 x3) := ⟨rfl, rfl⟩
theorem mxwait (x0) : Statement (.mxwait x0) := ⟨rfl, rfl⟩
theorem ringcfg (x0 x1 x2 x3 x4) : Statement (.ringcfg x0 x1 x2 x3 x4) := ⟨rfl, rfl⟩
theorem ringst (x0 x1 x2 x3) : Statement (.ringst x0 x1 x2 x3) := ⟨rfl, rfl⟩
theorem tld (x0 x1 x2 x3 x4 x5 x6) : Statement (.tld x0 x1 x2 x3 x4 x5 x6) := ⟨rfl, rfl⟩
theorem tst (x0 x1 x2 x3 x4 x5) : Statement (.tst x0 x1 x2 x3 x4 x5) := ⟨rfl, rfl⟩
theorem ald (x0 x1 x2 x3 x4) : Statement (.ald x0 x1 x2 x3 x4) := ⟨rfl, rfl⟩
theorem ast (x0 x1 x2 x3 x4) : Statement (.ast x0 x1 x2 x3 x4) := ⟨rfl, rfl⟩
theorem aadd (x0 x1 x2 x3 x4) : Statement (.aadd x0 x1 x2 x3 x4) := ⟨rfl, rfl⟩
theorem azero (x0 x1) : Statement (.azero x0 x1) := ⟨rfl, rfl⟩
theorem ascl (x0 x1 x2) : Statement (.ascl x0 x1 x2) := ⟨rfl, rfl⟩
theorem acvt (x0 x1 x2 x3 x4) : Statement (.acvt x0 x1 x2 x3 x4) := ⟨rfl, rfl⟩
theorem acks (x0 x1) : Statement (.acks x0 x1) := ⟨rfl, rfl⟩
theorem aadam (x0 x1 x2 x3 x4) : Statement (.aadam x0 x1 x2 x3 x4) := ⟨rfl, rfl⟩
theorem bundleIssue (x0) : Statement (.bundleIssue x0) := ⟨rfl, rfl⟩
theorem bundleLimitDatum (x0) : Statement (.bundleLimitDatum x0) := ⟨rfl, rfl⟩
theorem interlockedResult (x0 x1) : Statement (.interlockedResult x0 x1) := ⟨rfl, rfl⟩
theorem datumCommit (x0) : Statement (.datumCommit x0) := ⟨rfl, rfl⟩
theorem remoteFaultDelivery (x0 x1) : Statement (.remoteFaultDelivery x0 x1) := ⟨rfl, rfl⟩
theorem budgetExhaustion (x0) : Statement (.budgetExhaustion x0) := ⟨rfl, rfl⟩
theorem graceExhaustion (x0) : Statement (.graceExhaustion x0) := ⟨rfl, rfl⟩
theorem stopRequest (x0 x1) : Statement (.stopRequest x0 x1) := ⟨rfl, rfl⟩
theorem stopAbandon (x0) : Statement (.stopAbandon x0) := ⟨rfl, rfl⟩
theorem storePerform (x0 x1) : Statement (.storePerform x0 x1) := ⟨rfl, rfl⟩
theorem monitorWake (x0) : Statement (.monitorWake x0) := ⟨rfl, rfl⟩
theorem mwaitRemoteRecheck (x0 x1) : Statement (.mwaitRemoteRecheck x0 x1) := ⟨rfl, rfl⟩
theorem mwaitHostPoll (x0 x1) : Statement (.mwaitHostPoll x0 x1) := ⟨rfl, rfl⟩
theorem matrixCommandStart (x0) : Statement (.matrixCommandStart x0) := ⟨rfl, rfl⟩
theorem drainCheck (x0) : Statement (.drainCheck x0) := ⟨rfl, rfl⟩
theorem tldComplete (x0) : Statement (.tldComplete x0) := ⟨rfl, rfl⟩
theorem tstComplete (x0) : Statement (.tstComplete x0) := ⟨rfl, rfl⟩
theorem copyExecute (x0) : Statement (.copyExecute x0) := ⟨rfl, rfl⟩
theorem copyStamp (x0) : Statement (.copyStamp x0) := ⟨rfl, rfl⟩
theorem stampWrite (x0) : Statement (.stampWrite x0) := ⟨rfl, rfl⟩
theorem collectiveArm (x0) : Statement (.collectiveArm x0) := ⟨rfl, rfl⟩
theorem collectiveDisarm (x0) : Statement (.collectiveDisarm x0) := ⟨rfl, rfl⟩
theorem sendFlagSet (x0) : Statement (.sendFlagSet x0) := ⟨rfl, rfl⟩
theorem collectiveSend (x0 x1) : Statement (.collectiveSend x0 x1) := ⟨rfl, rfl⟩
theorem sendComplete (x0 x1) : Statement (.sendComplete x0 x1) := ⟨rfl, rfl⟩
theorem contributionArrival (x0 x1 x2) : Statement (.contributionArrival x0 x1 x2) := ⟨rfl, rfl⟩
theorem collectiveTimeout (x0 x1) : Statement (.collectiveTimeout x0 x1) := ⟨rfl, rfl⟩
theorem handleOffer (x0) : Statement (.handleOffer x0) := ⟨rfl, rfl⟩
theorem handleBind (x0) : Statement (.handleBind x0) := ⟨rfl, rfl⟩
theorem handleReturn (x0) : Statement (.handleReturn x0) := ⟨rfl, rfl⟩
theorem handleWithdraw (x0) : Statement (.handleWithdraw x0) := ⟨rfl, rfl⟩
theorem snapInstall (x0) : Statement (.snapInstall x0) := ⟨rfl, rfl⟩
theorem snapshotAccept (x0) : Statement (.snapshotAccept x0) := ⟨rfl, rfl⟩
theorem snapshotReject (x0) : Statement (.snapshotReject x0) := ⟨rfl, rfl⟩
theorem growApply (x0) : Statement (.growApply x0) := ⟨rfl, rfl⟩
theorem bgaddApply (x0) : Statement (.bgaddApply x0) := ⟨rfl, rfl⟩
theorem retirement (x0) : Statement (.retirement x0) := ⟨rfl, rfl⟩
theorem evacuationLineCopy (x0) : Statement (.evacuationLineCopy x0) := ⟨rfl, rfl⟩
theorem compaction (x0) : Statement (.compaction x0) := ⟨rfl, rfl⟩
theorem foldCopy (x0) : Statement (.foldCopy x0) := ⟨rfl, rfl⟩
theorem errsThreshold (x0 x1) : Statement (.errsThreshold x0 x1) := ⟨rfl, rfl⟩
theorem selfTestComplete (x0 x1) : Statement (.selfTestComplete x0 x1) := ⟨rfl, rfl⟩
theorem patrolScrub (x0 x1) : Statement (.patrolScrub x0 x1) := ⟨rfl, rfl⟩
theorem admission (x0) : Statement (.admission x0) := ⟨rfl, rfl⟩
theorem waitMet (x0) : Statement (.waitMet x0) := ⟨rfl, rfl⟩
theorem dispatch : Statement (.dispatch) := ⟨rfl, rfl⟩
theorem ageingPromotion (x0) : Statement (.ageingPromotion x0) := ⟨rfl, rfl⟩
theorem isobarWindow : Statement (.isobarWindow) := ⟨rfl, rfl⟩
theorem packageReset (x0 x1) : Statement (.packageReset x0 x1) := ⟨rfl, rfl⟩
theorem attestationRequest (x0) : Statement (.attestationRequest x0) := ⟨rfl, rfl⟩
theorem ucieModuleFail (x0) : Statement (.ucieModuleFail x0) := ⟨rfl, rfl⟩
theorem bhpRd (x0 x1 x2) : Statement (.bhpRd x0 x1 x2) := ⟨rfl, rfl⟩
theorem bhpWr (x0 x1 x2 x3 x4) : Statement (.bhpWr x0 x1 x2 x3 x4) := ⟨rfl, rfl⟩
theorem bhpRdAq (x0 x1) : Statement (.bhpRdAq x0 x1) := ⟨rfl, rfl⟩
theorem bhpWrRl (x0 x1 x2) : Statement (.bhpWrRl x0 x1 x2) := ⟨rfl, rfl⟩
theorem bhpFence (x0) : Statement (.bhpFence x0) := ⟨rfl, rfl⟩
theorem bhpAt (x0 x1 x2 x3 x4 x5) : Statement (.bhpAt x0 x1 x2 x3 x4 x5) := ⟨rfl, rfl⟩
theorem bhpCpl (x0 x1 x2 x3) : Statement (.bhpCpl x0 x1 x2 x3) := ⟨rfl, rfl⟩
theorem registerWrite (x0 x1) : Statement (.registerWrite x0 x1) := ⟨rfl, rfl⟩
theorem wbaseWrite (x0 x1) : Statement (.wbaseWrite x0 x1) := ⟨rfl, rfl⟩
theorem queueEnable (x0 x1) : Statement (.queueEnable x0 x1) := ⟨rfl, rfl⟩
theorem queueDisable (x0 x1) : Statement (.queueDisable x0 x1) := ⟨rfl, rfl⟩
theorem featctlLock (x0) : Statement (.featctlLock x0) := ⟨rfl, rfl⟩
theorem quiesceClear (x0) : Statement (.quiesceClear x0) := ⟨rfl, rfl⟩
theorem intcauseClear (x0) : Statement (.intcauseClear x0) := ⟨rfl, rfl⟩
theorem htret (x0) : Statement (.htret x0) := ⟨rfl, rfl⟩
theorem htopup (x0) : Statement (.htopup x0) := ⟨rfl, rfl⟩
theorem linkTrain (x0 x1 x2 x3) : Statement (.linkTrain x0 x1 x2 x3) := ⟨rfl, rfl⟩
theorem req (x0 x1) : Statement (.req x0 x1) := ⟨rfl, rfl⟩
theorem rsp (x0 x1 x2 x3) : Statement (.rsp x0 x1 x2 x3) := ⟨rfl, rfl⟩
theorem wakeMessage (x0 x1) : Statement (.wakeMessage x0 x1) := ⟨rfl, rfl⟩
theorem pause (x0 x1) : Statement (.pause x0 x1) := ⟨rfl, rfl⟩
theorem resume (x0 x1) : Statement (.resume x0 x1) := ⟨rfl, rfl⟩
theorem ack (x0 x1) : Statement (.ack x0 x1) := ⟨rfl, rfl⟩
theorem nak (x0 x1) : Statement (.nak x0 x1) := ⟨rfl, rfl⟩
theorem flitCrcFail (x0) : Statement (.flitCrcFail x0) := ⟨rfl, rfl⟩
theorem portRetrain (x0) : Statement (.portRetrain x0) := ⟨rfl, rfl⟩
theorem portDown (x0) : Statement (.portDown x0) := ⟨rfl, rfl⟩
theorem softError (x0) : Statement (.softError x0) := ⟨rfl, rfl⟩
theorem mxwLoadComplete (x0) : Statement (.mxwLoadComplete x0) := ⟨rfl, rfl⟩
theorem mxchkComplete (x0) : Statement (.mxchkComplete x0) := ⟨rfl, rfl⟩

end Sys2Proof.Laws.Encoding
end

