-- ==== Sys2Proof/Tests/Slice0.lean ====
section
/-! SUPPORT. Tests of the model: words of the spec decoded, an ill-formed term for each check of WellFormed, values of the spec's
worked examples, single steps, and for each statement a state and operands that meet its hypotheses. -/

namespace Sys2Proof.Tests

open Sys2Proof.Machine Sys2Proof.Says

set_option Elab.async false

/-! ### Decoding: words the spec writes out -/

/-- The word read in a slot, with every feature and right. -/
def dec (sl : Slot) (w : W32) (l : Option W32 := none) : Except Nat Instr := decodeSlot DecEnv.full sl w l

/-- R145 example bundle. -/
theorem test_decode_sadd : dec .s0 0x00421400 = .ok (.sadd 4 4 5 0 0 0) := rfl
theorem test_decode_vadd : dec .v0 0x00200400 = .ok (.vaddF 2 0 1 0 0 0) := rfl
theorem test_decode_literal : dec .s0 0x20738003 (some 0x12345678) = .ok (.saddSi 7 7 (.lit 0x12345678) 3) := rfl
theorem test_decode_ld_d : dec .m 0x0C830040 = .ok (.ldD 8 6 2 0) := rfl
/-- R184 example: the loop bundle and its body. -/
theorem test_decode_loop : dec .s1 0xC8B00020 = .ok (.loop 11 0 1 0) := rfl
theorem test_decode_loop_body : dec .s0 0x20420108 = .ok (.saddSi 4 4 (.fld 8) 8) ∧ dec .s1 0x00529809 = .ok (.sadd 5 5 6 0 0 9) ∧
    dec .m 0x6C620008 = .ok (.ldSpD 6 4 0 8) := ⟨rfl, rfl, rfl⟩
/-- R217, R214. -/
theorem test_decode_vredc : dec .v0 0x5A520600 = .ok (.vredc 5 4 3 0 0) := rfl
theorem test_decode_vpack : dec .v1 0x44800180 = .ok (.vpack 8 0 0 3 0 0) := rfl
/-- R257, R258. -/
theorem test_decode_cas : dec .m 0xAE828C00 = .ok (.casD 8 5 1 4 0) ∧ dec .m 0xAE838C00 = .ok (.casD 8 7 1 4 0) := ⟨rfl, rfl⟩
theorem test_decode_fence : dec .m 0xB0000640 = .ok (.fence 3 1 0) ∧ dec .m 0xB0000340 = .ok (.fence 1 5 0) := ⟨rfl, rfl⟩
/-- R300, R301, R312, R314. -/
theorem test_decode_enq : dec .m 0xBC428000 = .ok (.enq 4 5 0) := rfl
theorem test_decode_grow : dec .m 0xBE028000 = .ok (.grow 5 0) := rfl
theorem test_decode_bgadd : dec .m 0xC0428000 = .ok (.bgadd 4 5 0 0) ∧ dec .m 0xC0428020 = .ok (.bgadd 4 5 1 0) := ⟨rfl, rfl⟩
theorem test_decode_cont : dec .s1 0xD60001C0 = .ok (.cont 14 0) ∧ dec .s0 0x46407D00 = .ok (.smovi 4 (.fld 1000) 0) := ⟨rfl, rfl⟩
theorem test_decode_trig : dec .s1 0xD0000000 = .ok (.trig 0) := rfl
/-- R236, R244 example bundle. -/
theorem test_decode_mxmac : dec .m 0xE4290020 = .ok (.mxmac 5 2 1 0) := rfl
theorem test_decode_ald : dec .a 0x0080C800 = .ok (.ald 8 3 16 0 0) := rfl
/-- The programs of spec/19 to spec/23. -/
theorem test_decode_atomics_program : dec .m 0x4C838C00 = .ok (.ldAcqD 8 7 1 4 0 0) ∧ dec .m 0x56558C00 = .ok (.stRelD 5 11 1 4 0 0) ∧
    dec .s0 0x48241000 = .ok (.scmp 2 8 4 0 0 0) ∧ dec .s0 0x4E210DC0 = .ok (.pset 2 2 3 14 0) := ⟨rfl, rfl, rfl, rfl⟩
theorem test_decode_ring_program : dec .m 0xB3A8AA80 = .ok (.mwait 26 17 10 5 0) ∧ dec .m 0xC36C0504 = .ok (.copy 22 24 0 5 4) ∧
    dec .m 0xC59C0200 = .ok (.stamp 25 24 0 2 0 0) := ⟨rfl, rfl, rfl⟩
theorem test_decode_snap : dec .m 0xD3218500 = .ok (.snap 18 3 0 0) := rfl
theorem test_decode_matrix_program : dec .m 0xEE000700 = .ok (.ringcfg 0 0 3 2 0) ∧ dec .m 0xF2260820 = .ok (.tld 1 6 0 1 0 1 0) ∧
    dec .m 0xE2008000 = .ok (.mxw 1 0 0) ∧ dec .s0 0x91105000 = .ok (.sget 17 0x014 0) := ⟨rfl, rfl, rfl, rfl⟩
/-- R159: an unassigned opcode, a reserved field and a field value the encoding does not admit. -/
theorem test_decode_refuses : dec .s0 (0x17#7 ++ 0#25) = .error 3 ∧ dec .s0 0x00421480 = .error 6 ∧
    dec .v0 0x00200460 = .error 5 ∧ dec .a (0x08#7 ++ 0#25) = .error 3 := ⟨rfl, rfl, rfl, rfl⟩
/-- R117: two slots of one bundle with one destination: header S0 and S1. -/
theorem test_shared_destination : decodeBundle DecEnv.full 0xC000 [0x00421400, 0x00421400] = .error (.illegal 8 7 0xC000) := rfl
theorem test_table_word : decodeTableWord 32 0x00421400 = some (.sadd 4 4 5 0 0 0) ∧ decodeTableWord 16 0x00421400 = none :=
  ⟨rfl, rfl⟩

/-! ### WellFormed refuses ill-formed terms -/

/-- An operation with a field its encoding does not admit. -/
abbrev ill (i : Instr) : Prop := i.wf = false

theorem test_wf_sext : ill (.sext 1 2 0 3 0) ∧ ill (.scmp 0 1 2 0 0 0) ∧ ill (.scmpSi 8 1 (.fld 0) 0 0) ∧ ill (.pset 1 16 0 0 0) ∧
    ill (.sfcvt 1 2 0 0 0 0 0 0) ∧ ill (.sfcvt 1 2 1 0 0 0 1 0) ∧ ill (.sfcvt 1 2 9 0 0 1 0 0) ∧ ill (.sfcmp 8 1 2 0 0) := by
  decide
theorem test_wf_sys : ill (.sget 1 5 0) ∧ ill (.sset 1 0x50 0) ∧ ill (.sset 1 0x3FF 0) ∧ ill (.loop 1 4095 1 0) := by decide
theorem test_wf_vector : ill (.vaddF 1 2 3 0 3 0) ∧ ill (.vabsI 1 2 0 3 0) ∧ ill (.vrcp 1 2 0 3 0) ∧ ill (.vcmpF 0 1 2 0 0 0) ∧
    ill (.vcmpI 1 1 2 6 0 0) ∧ ill (.vcvt 1 2 0 1 0 0) ∧ ill (.vcvtSat 1 2 15 15 0 0) ∧ ill (.vpack 0 29 0 3 0 0) ∧
    ill (.vunpk 31 0 1 0 0 0) ∧ ill (.vquant 0 29 3 0) ∧ ill (.vquant 0 0 2 0) ∧ ill (.vrotr 1 2 16 0) ∧ ill (.vredr 1 2 16 0 0) := by
  decide
theorem test_wf_masks : ill (.mlog 0 1 2 0 0) ∧ ill (.mpop 1 8 0 0) ∧ ill (.mset 8 1 0) ∧ ill (.mmov 1 8 0) := by decide
theorem test_wf_memory : ill (.ldDMq 1 2 0 6 0 0) ∧ ill (.stDMq 1 2 0 7 0 0) ∧ ill (.ldAcqD 1 2 0 6 0 0) ∧ ill (.stRelD 1 2 0 6 0 0) ∧
    ill (.ldSpDMq 1 2 0 6 0) ∧ ill (.stvSpMq 1 2 0 6 0) ∧ ill (.atomW 1 2 0 1 7 0) ∧ ill (.casD 31 2 0 1 0) ∧ ill (.casW 1 2 0 6 0) ∧
    ill (.fence 1 6 0) ∧ ill (.mwait 31 1 2 1 0) := by decide
theorem test_wf_engines : ill (.copy 1 2 0 6 0) ∧ ill (.ctset 2 0 6 0) ∧ ill (.mxfmt 0 1 0 0) ∧ ill (.mxfmt 1 9 0 0) ∧
    ill (.mxdrv 29 0 0 0) ∧ ill (.mxchk 0 0 7 0) ∧ ill (.ringcfg 0 0 0 3 0) ∧ ill (.tld 0 1 0 3 0 1 0) ∧ ill (.tld 0 1 0 1 1 1 0) ∧
    ill (.tst 0 1 0 5 0 0) ∧ ill (.ald 1 0 50 0 0) ∧ ill (.ast 1 0 0 2 0) ∧ ill (.acvt 1 0 16 0 0) ∧ ill (.aadam 29 0 0 0 0) := by
  decide
theorem test_wf_events : ill (.bundleIssue 1536) ∧ ill (.rsp (.read 1536 0) false 0 []) ∧ ill (.bhpCpl (.send 8 0) false 0 []) ∧
    ill (.compaction 384) ∧ ill (.errsThreshold 0 324) ∧ ill (.sendComplete 0 2048) ∧ ill (.queueEnable 4096 ⟨0, 0⟩) ∧
    ill (.ucieModuleFail 4) ∧ ill (.nak 16 0) := by decide

/-! ### Values of the spec's worked examples -/

/-- R169: the table of results. -/
theorem test_sdiv : vDiv 64 false (-7) 2 = -3 ∧ vRem 64 false (-7) 2 = -1 ∧ vDiv 64 false (BitVec.twoPow 64 63) (-1) = BitVec.twoPow 64 63 := by
  decide
/-- R190: halfway cases of bf16 and E4M3. -/
theorem test_round_bf16 : rne .bf16 (.fin false 257 (-8)) = 0x3F80 := by decide
theorem test_round_e4m3 : rne .e4m3 (.fin false 464 0) = 0x7E := by decide
/-- R194: −0.7 to n8, in the saturating and the other form. -/
theorem test_to_int : toInt ⟨8, false⟩ .rn false (f32 0xBF333333) = 0x80 ∧ toInt ⟨8, false⟩ .rn true (f32 0xBF333333) = 0 ∧
    toInt ⟨8, false⟩ .rz false (f32 0xBE99999A) = 0 := by decide
/-- R214: 1.0, −2.5, 500.0 and NaN to E4M3, saturating. -/
theorem test_pack_e4m3 : [0x3F800000, 0xC0200000, 0x43FA0000, 0x7FC00000].map (convert (.fl .fp32) (.fl .e4m3) .rn true) =
    [0x38, 0xC2, 0x7E, 0x7F] := by decide
/-- R196: a block whose largest magnitude is 5.0, and one of 7.0. -/
theorem test_quant : (quantBlock .e2m1 ((f32 0x40A00000 :: f32 0x40200000 :: f32 0x3E800000 :: List.replicate 29 (f32 0)))).sc = 0x7F ∧
    ((quantBlock .e2m1 ((f32 0x40A00000 :: f32 0x40200000 :: f32 0x3E800000 :: List.replicate 29 (f32 0)))).el.take 3) = [6, 4, 0] := by
  decide +kernel
/-- R202, R200: values of the reference procedures. -/
theorem test_reciprocal_of_two : rne32 (rcpV (f32 0x40000000)) = 0x3F000000 := by decide +kernel
theorem test_exp2_of_three : rne32 (exp2V (f32 0x40400000)) = 0x41000000 := by decide +kernel
/-- R197: 64 products of −1 and 0 are integers, and their sum is +0. -/
theorem test_integer_zero : (dotOut true false (List.replicate 64 (.fin true 1 0)) (List.replicate 64 (.fin false 0 0))).1 = .f 0 := by
  decide +kernel
/-- R99, R204: −∞ and −5 give the maximum −5 in either order, whatever VAL an infinity leaves. -/
theorem test_extreme_order : (let z : Fixed := ⟨0, 0, false⟩
    let both (x y : FV) : Fixed := (z.extreme true true 64 x).extreme true false 64 y
    let inf : FV := .inf true
    (both inf (.fin true 5 0)).val = -5 ∧ both inf (.fin true 5 0) = both (.fin true 5 0) inf) := by decide
/-- R337: CRC-64 with the ECMA-182 polynomial of the nine digits 1 to 9 (the check value published with that polynomial). -/
theorem test_crc : ([0x31, 0x32, 0x33, 0x34, 0x35, 0x36, 0x37, 0x38, 0x39].foldl crcByte 0) = 0x6C40DF5F0B497347 := by decide +kernel
/-- R131: five iterations of three stages, passes 0, 2 and 6. -/
def loop53 (j : Nat) : Loop := ⟨0, 0, 0, 1, 3, 5, j, none, none⟩
theorem test_stage_predicates : ([0, 1, 2].map (loop53 0).stage) = [true, false, false] ∧
    ([0, 1, 2].map (loop53 2).stage) = [true, true, true] ∧ ([0, 1, 2].map (loop53 6).stage) = [false, false, true] ∧
    (loop53 0).lastPass = 6 := by decide
/-- R22: bank 7, row 18 of the swizzled view. -/
theorem test_swizzle : viewLine true (18 * 32 + 7) = 18 * 32 + 21 := by decide

/-! ### A small package: one task on partition 0 of core 0 -/

/-- Windows of 256 KiB: read-write HBM4, a read-only one, host memory, another package's memory, and one for supervisors. -/
def wEnt (v p : Nat) (wr : Bool) (tgt : Nat) (sup : Bool) : WEnt := ⟨v, p, 2 ^ 18, true, wr, false, 0, false, tgt, sup⟩
def ents : List WEnt :=
  [wEnt 0x40000000 0x40000 true 0 false, wEnt 0x50000000 0x80000 false 0 false, wEnt 0x60000000 0x40000 true 2 false,
   wEnt 0x70000000 (5 * 2 ^ 42 + 0x40000) true 1 false, wEnt 0x78000000 0xC0000 true 0 true]

def tid : W64 := 0x100000000

/-- Registers with the scalar registers given: s1 to s4 hold addresses, s5 holds 8, s31 the last even one. -/
def someRegs : Regs :=
  { Regs.zero with
    s := [0, 0x40020000, 0x40020008, 0x60020000, 0x70020000, 8, 1, 0xFFFFFFFFFFFFFFFF, 0x1000, 0x3FFFF0] ++ List.replicate 21 0 ++ [0x4000] }

def part0 : Part := { Part.free with task := some tid, regs := someRegs, dup := someRegs, bgi := 1000, bgm := 1000 }
def rec0 : Rec := { serviceRec 0 with sup := false, snap := true, topup := true, bgi := 10, bgm := 10, sprows := 64, rings := 0xFFFF }
def launch0 : Launch := { State.reset.newLaunch none 0 rec0 7 0 with ready := true, next := 1 }
def res0 : Resident := { Resident.none with rows := 64, units := 32, rmask := 0x7FFF, tmask := 0xFF }
def task0 : Task :=
  { id := tid, lid := 1, idx := 0, st := .running 0, why := 0, core := some 0, res := res0, ctx := none, block := 0x100000
    images := [], late := [], cause := 0, savedAt := 0, dispatchedAt := 0 }
def demo : State :=
  { State.reset with parts := [(0, part0)], tasks := [task0], launches := [launch0], gens := [⟨7, 0, ents, false⟩], lastLid := 1
                     pod := [5] }

/-- The same with the partition, the task or its reservation changed. -/
def onPart (f : Part → Part) : State := { demo with parts := [(0, f part0)] }
def onTask (f : Task → Task) : State := { demo with tasks := [f task0] }
def onRes (f : Resident → Resident) : State := onTask fun t => { t with res := f t.res }

/-- Two answers that are results of one kind. -/
abbrev okIs {α : Type} [DecidableEq α] (x : Except Nat α) (y : α) : Prop := x.toOption = some y

/-! ### Single steps -/

/-- R169: `sadd` with its result on the way, and s0 as destination. -/
theorem test_sadd_result : (match exec (.sadd 6 5 6 0 0 0) demo with | .next t => t.me.flight | _ => []) = [⟨.s 6 9, 0, 2⟩] := by decide +kernel
theorem test_s0_discards : (match exec (.sadd 0 5 6 0 0 0) demo with | .next t => t.me.flight | _ => [⟨.sat, 0, 0⟩]) = [] := by decide +kernel
/-- R116: a false guard. -/
theorem test_guard_false : (match exec (.smovi 6 (.fld 3) 1) demo with | .next t => t.me.flight | _ => [⟨.sat, 0, 0⟩]) = [] := by decide +kernel
/-- R76: a store is withheld, and memory stays. -/
theorem test_store_withheld :
    (match exec (.stD 5 1 1 0) demo with
      | .next t => (t.me.sb.length, t.me.sbn, t.mem.cells.length)
      | _ => (0, 0, 1)) = (1, 1, 0) := by decide +kernel
/-- R251: a load of the read-only window records its read; a store to it raises ADDR with reason 6. -/
theorem test_store_read_only :
    (match exec (.stD 5 8 0 0) (onPart fun P => { P with regs := { P.regs with s := P.regs.s.set 8 0x50000000 } }) with
      | .next t => ((t.task tid).map Task.why, t.getMem 0x100000 1, t.getMem 0x10001F 1)
      | _ => (none, 0, 0)) = (some 4, 3, 6) := by decide +kernel
/-- R21, R22: a scratchpad store and what it journals. -/
theorem test_scratch_store :
    (match exec (.stSpW 5 8 1 0) demo with
      | .next t => ((t.res 0).sp.cells, t.me.journal.map JLine.line)
      | _ => ([], [])) = ([(0x1004, 8)], [32]) := by decide +kernel
/-- R180, R316: `trap` frees the partition and suspends the task. -/
theorem test_trap : (match exec (.trap 0x77 0) demo with
      | .next t => ((t.part 0).task, (t.task tid).map Task.st, t.getMem 0x100000 1, t.getMem 0x100018 1)
      | _ => (some 0, none, 0, 0)) = (none, some .trapped, 13, 0x77) := by decide +kernel
/-- A step of the package with a word placed fetches and runs it (R115, R139). -/
theorem test_step_placed : (match step (State.reset.withFetchWord 32 0x00421400) with
      | .next t => ((t.part 0).regs.pc, (t.part 0).nb, (t.part 0).flight.length)
      | _ => (0, 0, 0)) = (0x4000000006, 1, 1) := by decide +kernel

/-! ### Witnesses: encoding, steps and results -/

theorem witness_encode : (Instr.vquant 29 28 5 31).wf = true ∧ (Instr.vquant 29 28 5 31).cls? = some .v ∧
    (Instr.smovi 31 (.lit 0xFFFFFFFF) 31).wf = true ∧ (Instr.smovi 31 (.lit 0xFFFFFFFF) 31).cls? = some .s := by decide
theorem witness_unassigned : unassigned .s 0x2D = true ∧ unassigned .s 0x2C = false ∧ unassigned .s 0x6E = true ∧ unassigned .s 0x6D = false ∧
    unassigned .v 0x44 = true ∧ unassigned .v 0x43 = false ∧ unassigned .m 0x7B = true ∧ unassigned .m 0x7A = false ∧
    unassigned .a 8 = true ∧ unassigned .a 7 = false := by decide
theorem witness_shared : decodeSlots DecEnv.full (slotWords 0xC000 Slot.all [0x00421400, 0x00421400]) =
      .ok [(.s0, .sadd 4 4 5 0 0 0), (.s1, .sadd 4 4 5 0 0 0)] ∧ Reg.s 4 ∈ (Instr.sadd 4 4 5 0 0 0).dests := ⟨rfl, by decide⟩

/-- A bundle of i alone in slot sl decodes for a user task, on a part with every feature, when privileges are left aside. -/
abbrev bare (sl : Slot) (i : Instr) : Prop :=
  match encode i with
  | some (w, l) =>
    let h : BitVec 16 := BitVec.twoPow 16 (15 - sl.num)
    slotWords h Slot.all [w] = [(sl, w, l)] ∧ h.extractLsb' 0 4 = 0 ∧ hdrL h = false ∧ decodeSlot ({ demo with regs := { demo.regs with featacc := [0xFF, 3, 0, 0] } }.decEnv 0) sl w l = .ok i
  | none => False

theorem witness_privileged : bare .s1 (.halt 0) ∧ bare .s1 (.tret 0) ∧ bare .m (.evac 1 2 0 1 0) ∧ bare .m (.chartq 1 2 0) ∧
    bare .s0 (.sset 1 0x30 0) ∧ bare .s0 (.sset 1 0x22 0) ∧ bare .m (.snap 1 2 0 0) ∧ bare .m (.sacc 1 2 0 0) ∧ bare .m (.srej 1 2 0 0) ∧
    bare .m (.bgadd 1 2 0 0) ∧ bare .s0 (.sadd 1 2 3 0 0 0) :=
  have h {a b c d : Prop} (x : a) (y : b) (z : c) (w : d) : a ∧ b ∧ c ∧ d := ⟨x, y, z, w⟩
  ⟨h rfl rfl rfl rfl, h rfl rfl rfl rfl, h rfl rfl rfl rfl, h rfl rfl rfl rfl, h rfl rfl rfl rfl, h rfl rfl rfl rfl, h rfl rfl rfl rfl,
   h rfl rfl rfl rfl, h rfl rfl rfl rfl, h rfl rfl rfl rfl, h rfl rfl rfl rfl⟩

/-- The bundle at the program counter of partition p is ops, and it issues without a datum or a stall. -/
def issues (u : State) (p : Nat) (ops : List (Slot × Instr)) : Bool :=
  match u.taskOn p, u.fetch p (u.part p).regs.pc.toNat with
  | some k, .ok f =>
    let a := u.arm p (bundleLen f.hdr) (u.issueCycle p ops)
    k.late.isEmpty && (u.part p).ownBad == none && !(u.part p).vane && (u.part p).vdiff.isEmpty && (u.part p).rpoison.isEmpty &&
    (u.part p).exiting == none && (u.part p).stopAt == none && (u.part p).regs.mon == none && !(u.part p).datumAfter &&
    !(u.part p).regs.pc.getLsbD 0 && u.fetchPoison (u.part p).regs.pc.toNat f == none && !hdrD f.hdr &&
    (match decodeBundle (u.decEnv p) f.hdr f.words with | .ok b => b.hdr == f.hdr && b.ops == ops | .error _ => false) &&
    ops.all (fun o => !o.2.isDatumOp) && (u.part p).held.isNone && !a.needsDatum p (ops.map Prod.snd) && !a.stalls p (ops.map Prod.snd)
  | _, _ => false

/-- For StepRunsDecodedInstruction and BundleIssues. -/
theorem witness_issue : (State.reset.withFetchWord 32 0x00421400).agenda = [.bundleIssue 0] ∧
    issues { State.reset.withFetchWord 32 0x00421400 with agenda := [], focus := 0 } 0 [(.s1, .sadd 4 4 5 0 0 0)] = true :=
  ⟨rfl, by decide +kernel⟩
theorem witness_agenda : Instr.isobarWindow.isEvent = true ∧ (Instr.cinv 0).isEvent = false ∧
    exec .isobarWindow State.reset = .next State.reset ∧
    State.reset.inBundle = false :=
  ⟨by decide, by decide, congrArg _ (if_neg (by decide +kernel)), by decide +kernel⟩
theorem witness_slots : ∃ t, (onPart fun P => { P with issLen := 6 }).me.issLen ≠ 0 ∧ demo.me.held = none ∧ (Instr.sadd 6 5 6 0 0 0).isDatumOp = false ∧
    exec (.sadd 6 5 6 0 0 0) (onPart fun P => { P with issLen := 6 }) = .next t := ⟨_, by decide, rfl, by decide, rfl⟩
theorem witness_memory_form : State.reset.memWf ∧ ∃ t, step State.reset = .next t := ⟨by decide, _, rfl⟩
theorem witness_false_guard : (∃ w, encode (.sadd 1 2 3 0 0 16) = some (w, none) ∧ demo.guardP (w.extractLsb' 0 4).toNat = w.getLsbD 4) ∧
    ∃ w, encode (.sadd 1 2 3 0 0 1) = some (w, none) ∧ demo.guardP (w.extractLsb' 0 4).toNat = w.getLsbD 4 :=
  ⟨⟨_, rfl, by decide +kernel⟩, ⟨_, rfl, by decide +kernel⟩⟩
theorem witness_fixed_roles : (onPart fun P => { P with regs := { P.regs with loops := [loop53 6] } }).me.regs.loops.getLast? = some (loop53 6) ∧
    (loop53 6).ns = none ∧ (loop53 6).stopNs = none ∧ demo.me.regs.loops = [] := by decide +kernel
theorem witness_results_land : HasRegister Part.free.regs (.s 31 5) ∧ HasRegister Part.free.regs (.p 15 true) ∧
    HasRegister Part.free.regs (.v 31 []) ∧ HasRegister Part.free.regs (.m 7 0) ∧
    (let P : Part := { Part.free with flight := [⟨.s 31 7, 0, 9⟩] }
     ∃ f ∈ (P.issue (.s 31 5) 2).flight, f.due = 9 ∧ f.wr = .s 31 5) := by
  simp only [HasRegister]
  decide +kernel
/-- For every statement over a guard alone: guard 0, and a predicate register that is set. -/
theorem witness_guard : demo.guardOk 0 = true ∧ (onPart fun P => { P with regs := { P.regs with p := 3 } }).guardOk 1 = true := by
  decide +kernel
theorem witness_integer_conversion : 1 ≤ (⟨1, true⟩ : IntFmt).w := by decide
theorem witness_system_registers : (∀ f ∈ demo.me.flight, ∀ n x, f.wr ≠ .sysOld n x) ∧ (∀ f ∈ demo.me.flight, f.wr ≠ .sat) ∧
    demo.taskOn demo.focus = some task0 ∧ demo.launch task0.lid = some launch0 ∧ demo.me.task = some task0.id ∧ demo.focus < 1536 :=
  ⟨fun _ h => absurd h List.not_mem_nil, fun _ h => absurd h List.not_mem_nil, by decide +kernel, by decide +kernel, rfl, by decide⟩
theorem witness_sset_exhausts : ((demo.rdS 2 7).extractLsb' 0 48).toInt < 0 ∧ demo.me.regs.cm = false ∧ demo.me.exh = false := by
  decide +kernel

/-! ### Witnesses: control -/

theorem witness_transfers : (demo.rdS 0 1).getLsbD 0 = false ∧ (demo.rdS 0 31).getLsbD 0 = false ∧ (demo.rdS 0 6).getLsbD 0 = true ∧
    ((onPart fun P => { P with regs := { P.regs with s := P.regs.s.set 31 1 } }).rdS 0 31).getLsbD 0 = true := by decide +kernel
/-- A package whose partition is in so many loops. -/
def inLoops (ls : List Loop) : State := onPart fun P => { P with regs := { P.regs with loops := ls } }
theorem witness_loops : demo.me.regs.loops.length < 2 ∧ min (demo.rdS 0 0).toNat (2 ^ 48 - 1) = 0 ∧
    min (demo.rdS 0 6).toNat (2 ^ 48 - 1) ≠ 0 ∧ (inLoops [loop53 0]).me.regs.loops.length < 2 ∧
    2 ≤ (inLoops [loop53 0, loop53 1]).me.regs.loops.length ∧ (inLoops [loop53 0]).me.regs.loops = [] ++ [loop53 0] ∧
    (inLoops [loop53 0, { loop53 1 with ns := some 2 }]).me.regs.loops = [loop53 0] ++ [{ loop53 1 with ns := some 2 }] := by
  decide +kernel
/-- The partition at the end of a body, in pass j of the loop of R131. -/
def atEnd (j pc : Nat) : Part :=
  { Part.free with issLen := 6, regs := { Regs.zero with pc := BitVec.ofNat 64 pc, loops := [{ loop53 j with endA := 12, target := 12 }] } }
theorem witness_loop_passes : (atEnd 0 6).issLen ≠ 0 ∧ (atEnd 0 6).regs.pc ≠ 12 ∧ (atEnd 5 12).regs.pc = 12 ∧ (loop53 5).pass < 5 + 3 - 2 ∧
    (loop53 6).pass = 5 + 3 - 2 ∧ (atEnd 6 12).loopsNext = none ∧ (atEnd 6 12).stopAt = none := by decide +kernel
theorem test_loop_ends : (atEnd 5 12).finishBundle.regs.loops.map Loop.pass = [6] ∧ (atEnd 6 12).finishBundle.regs.loops = [] ∧
    (atEnd 6 12).finishBundle.datumAfter = true ∧ (atEnd 6 12).finishBundle.regs.lc0 = 0 := by decide +kernel
/-- A line and a tile written twice in the interval, and a second line: what a rollback gives back. -/
def undoing : State :=
  { onPart fun P => { P with
      journal := [⟨32, ⟨0x55, []⟩, false, [], false⟩, ⟨33, ⟨0x66, [(1, 3)]⟩, true, [], false⟩, ⟨32, ⟨0x77, []⟩, true, [], false⟩]
      remaps := [⟨6, List.replicate 4225 1, [(25351, 25353)], [3]⟩, ⟨6, accZero, [], []⟩] } with
    tasks := [{ task0 with res := { res0 with sp := { Store.zero with cells := [(0x1000, 9), (0x1080, 7), (0x1100, 5)] } } }] }
theorem witness_undo : undoing.memWf ∧ (undoing.taskOn 0).isSome = true ∧ undoing.ownPoison 0 = none ∧ (undoing.res 0).sp.cells.wf ∧
    (∀ j ∈ (undoing.part 0).journal, ∀ r ∈ j.old.undef, r.2 ≤ 128) ∧
    (∀ i ∈ (undoing.part 0).journal.take 1, i.line ≠ 33) ∧ ((undoing.part 0).journal[1]?).map JLine.line = some 33 ∧
    (∀ j ∈ (undoing.part 0).journal, j.line ≠ 0x1100 / 128) ∧ ((undoing.part 0).remaps[0]?).map Remap.tile = some 6 ∧
    (∀ m ∈ (undoing.part 0).remaps, m.tile ≠ 7) ∧
    (∀ m ∈ (undoing.part 0).remaps, ∀ x ∈ m.undef, 4225 * m.tile ≤ x.1 ∧ x.2 ≤ 4225 * m.tile + 4225) ∧ (∀ x ∈ (undoing.part 0).dup.v, x.length ≤ 1024) := by decide +kernel
/-- R129: the first entry journaled for a line is the one that stays. -/
theorem test_undo : (match exec (.brk 1 0) undoing with
      | .next t => ((t.task tid).map fun k => (k.res.sp.cells, k.res.sp.poison, accEl (KMap.get accZero k.res.tiles 6) 0 0, k.res.tundef ++ k.res.tpoison))
      | _ => none) =
    some ([(0x1000, 0x55), (0x1080, 0x66), (0x1100, 5)], [33], 1, [(25351, 25353), (6, 3)]) := by decide +kernel
/-- With a trap-service routine, and with a host notice ring. -/
def withTraph : State := { demo with regs := { demo.regs with traph := [(7, BitVec.twoPow 64 63)] } }
def withNotices : State := { demo with regs := { demo.regs with htrapq := BitVec.twoPow 64 63 ||| 0x200000 } }
theorem witness_trap_taken : demo.memWf ∧ demo.taskOn 0 = some task0 ∧ demo.launch task0.lid = some launch0 ∧
    demo.regs.htrapq.getLsbD 63 = false ∧ demo.ownPoison 0 = none ∧ (demo.part 0).vane = false ∧
    (onPart fun P => { P with vane := true }).ownPoison 0 = none ∧ ((onPart fun P => { P with vane := true }).part 0).vane = true ∧ (KMap.get 0 withTraph.regs.traph 7).getLsbD 63 = true ∧ launch0.serves = none ∧
    (withTraph.curGen launch0.asid).1.bad = false ∧ (KMap.get 0 withNotices.regs.traph 7).getLsbD 63 = false ∧
    (withNotices.ringWrite withNotices.regs.htrapq [tid, 0, 13, 7]).2 = true := by decide +kernel
/-- R319, R355: what a trap starts in each. -/
theorem test_trap_reports : (match exec (.brk 1 0) withTraph with | .next t => t.launches.map Launch.serves | _ => []) = [none, some tid] ∧
    (let t := withNotices.reportTrap tid task0 launch0 12
     (t.getMem 0x200000 1, t.getMem (0x200000 + 64 + 16) 1, t.regs.intcause)) = (1, 12, 1) := by
  decide +kernel

/-! ### Witnesses: vectors -/

theorem witness_vector_types : (2 : BitVec 2) ≠ 3 ∧ (5 : BitVec 3).toNat ≤ 5 ∧ (15 : BitVec 6).toNat ≤ 15 ∧
    (Instr.vcvt 1 2 0 13 0 0).legal = true ∧ (Instr.vcvtSat 1 2 3 10 3 0).legal = true ∧ (Instr.vpack 0 28 0 3 0 0).legal = true ∧
    (Instr.vpack 0 24 0 5 0 0).legal = true ∧ (Instr.vunpk 24 0 5 0 0 0).legal = true ∧ (Instr.vunpk 30 0 1 14 0 0).legal = true ∧
    (Instr.vquant 29 28 5 0).legal = true ∧ (Instr.vquant 0 0 3 0).legal = true := by decide

/-! ### Witnesses: memory -/

theorem witness_translation : (∀ e ∈ ents, e.vbase % 2 ^ 18 = 0 ∧ e.pbase % 2 ^ 18 = 0) ∧
    (∃ x, translate ents 0 false false .load 0x4003FFF8 8 = .ok x) ∧ translate ents 0 false false .load (2 ^ 55 - 1) 2 = .error 1 ∧
    translate ents 0 false false .load 0 1 = .error 2 ∧ translate ents 0 false false .load 0x4003FFFF 2 = .error 3 ∧
    translate ents 0 false false .load 0x78000000 1 = .error 4 ∧
    translate [{ wEnt 0x40000000 0 true 0 false with rd := false }] 0 false false .load 0x40000000 1 = .error 5 ∧
    translate ents 0 false false .store 0x50000000 1 = .error 6 ∧ translate ents 0 false false .fetch 0x40000000 1 = .error 7 ∧
    translate ents 0 false false .atom 0x60000000 8 = .error 10 ∧ ∃ x, translate ents 0 false true .atom 0x60000000 8 = .ok x :=
  ⟨by decide, ⟨_, rfl⟩, rfl, rfl, rfl, rfl, rfl, rfl, rfl, rfl, ⟨_, rfl⟩⟩
theorem witness_unique_entry : ∀ e ∈ ents, ∀ f ∈ ents, f.vbase ≤ e.vbase → e.vbase < f.vbase + f.size → f = e := by decide
/-- The access passes its checks and its place is l. -/
def reachesAt (s : State) (acc : Acc) (va : W64) (n lg : Nat) (l : Loc) : Bool :=
  (match s.xlate s.focus acc va.toNat n with | .ok x => x.loc == l | .error _ => false) && va.toNat % 2 ^ lg == 0

theorem reaches_of {s : State} {acc : Acc} {va : W64} {n lg : Nat} {l : Loc} (h : reachesAt s acc va n lg l = true) :
    ∃ x, Reaches s acc va n lg x ∧ x.loc = l := by
  unfold reachesAt at h
  split at h
  · rename_i x hx
    simp only [Bool.and_eq_true, beq_iff_eq] at h
    exact ⟨x, ⟨hx, h.2⟩, h.1⟩
  · simp at h

/-- HBM4, host memory and another package's memory, at the largest offsets of the short form. -/
theorem witness_global_access : (∃ x, Reaches demo .load (shortEa demo 1 511 8) 8 3 x ∧ x.loc = .hbm 0x60FF8) ∧
    (∃ x, Reaches demo .store (shortEa demo 1 (-512) 128) 4096 7 x ∧ x.loc = .hbm 0x50000) ∧
    (∃ x, Reaches demo .load (demo.rdS 0 3) 4096 7 x ∧ x.loc = .host 0x60000) ∧
    (∃ x, Reaches demo .store (demo.rdS 0 4) 1 0 x ∧ x.loc = .hbm (5 * 2 ^ 42 + 0x60000)) ∧
    (∃ x, Reaches demo .atom (demo.rdS 0 2) 4 2 x ∧ x.loc = .hbm 0x60008) ∧ 0x50000 % 128 = 0 :=
  ⟨reaches_of (by decide +kernel), reaches_of (by decide +kernel), reaches_of (by decide +kernel), reaches_of (by decide +kernel),
   reaches_of (by decide +kernel), by decide⟩
/-- `Says.Within` and `Says.IsWord`, written out so that they can be decided. -/
abbrev WithinD (s : State) (o n lg : Nat) : Prop :=
  o < 2 ^ 22 ∧ o + n ≤ 4096 * (s.res s.focus).rows ∧ o % 2 ^ lg = 0 ∧
  (s.core (s.focus / 4)).lentRow (s.me.task.getD 0) (o / 4096) ((o + n - 1) / 4096 - o / 4096 + 1) = none
abbrev IsWordD {n : Nat} (x : BitVec n) (bs : List Byte) : Prop := ∀ j, j < n → x.getLsbD j = (nth 0 bs (j / 8)).getLsbD (j % 8)
theorem within_of {s : State} {o n lg : Nat} (h : WithinD s o n lg) : Within s o n lg := h
theorem isWord_of {n : Nat} {x : BitVec n} {bs : List Byte} (h : IsWordD x bs) : IsWord x bs := h

/-- A released store that may perform at its home. -/
def gs (a seq : Nat) (rel : Bool) : GStore := ⟨.hbm a, [1, 2, 3, 4, 5, 6, 7, 0xFF], 0, 1, rel, 0, 0x40020000, seq, 0, tid, 7, seq, [], false, false⟩
def released : State := { demo with released := [gs 0x60000 1 false] }
theorem witness_store_performs : released.memWf ∧ (released.released.filter fun y => y.part = 0)[0]? = some (gs 0x60000 1 false) ∧
    released.storeReady (gs 0x60000 1 false) = true ∧ released.reachable (.hbm 0x60000) = true ∧
    (let x := gs 0x60000 1 false
     ((({ released with released := [] } : State).sent x.loc fun a => .write a x.data x.bad).touch x.loc x.data.length true x.pol).writeHome x.loc
      x.data).isSome = true ∧ released.cmds = [] ∧ released.ans = none := by decide +kernel
theorem test_store_performs : (match exec (.storePerform 0 0) released with | .next t => (t.mem.cells, t.released.length) | _ => ([], 9)) =
    ((List.range 8).map fun k => (0x60000 + k, if k = 7 then 0xFF else BitVec.ofNat 8 (k + 1)), 0) := by decide +kernel

/-- A pending read of n bytes, of class c. -/
def pend (n : Nat) (l : Loc) (acq : Bool) (c : Nat) : Pend := ⟨.s 6, l, n, true, c, if acq then 2 else 1, 0, acq, 0, 9, none, none, 0x40020000, 0⟩
def reading1 (x : Pend) : State :=
  { onPart fun P => { P with pend := [x] } with mem := { Store.zero with cells := [(0x6007F, 0x80), (0x60087, 0xFF)] } }
/-- The last byte of a line, and the last word of one; L1 holds nothing. -/
theorem witness_load_returns : [pend 1 (.hbm 0x6007F) false 0, pend 8 (.hbm 0x60078) false 0, pend 8 (.hbm 0x60080) true 0].all fun x =>
    let s := reading1 x
    s.pendReady 0 0 && !s.poisonedAt x.loc x.size && !s.withheldBad 0 x.sb x.loc x.size && !(s.part 0).sealed && (s.ownStores 0 x.sb).isEmpty &&
    x.loc.addr / 128 == (x.loc.addr + x.size - 1) / 128 && (s.core 0).l1.isEmpty := by
  decide +kernel
theorem test_load_sign_extends : (match exec (.interlockedResult 0 0) (reading1 (pend 1 (.hbm 0x6007F) false 0)) with
      | .next t => ((t.part 0).flight.map Flight.wr, (t.part 0).pend.length)
      | _ => ([], 1)) = ([.s 6 0xFFFFFFFFFFFFFF80], 0) := by decide +kernel
theorem witness_acquire : demo.me.pend = [] ∧ demo.withheldBad 0 demo.me.sb.length (.hbm 0x60008) 8 = false ∧ demo.ownStores 0 0 = [] ∧ demo.poisonedAt (.hbm 0x60008) 8 = false ∧ (2 : BitVec 3).toNat = 2 ∧
    demo.ans = none ∧ reachesAt demo .load (demo.rdS 0 2) 8 3 (.hbm 0x60008) = true ∧ demo.localHome (.hbm 0x60008) = true ∧
    reachesAt demo .load (demo.rdS 0 3) 8 3 (.host 0x60000) = true ∧ demo.localHome (.host 0x60000) = false ∧
    reachesAt demo .load (demo.rdS 0 4) 1 0 (.hbm (5 * 2 ^ 42 + 0x60000)) = true ∧
    demo.localHome (.hbm (5 * 2 ^ 42 + 0x60000)) = false := by decide +kernel
/-- R16, R79: an acquire load of host memory waits for the answer of its home, and gets the word the answer brings. -/
theorem test_far_acquire : (match exec (.ldAcqD 6 3 0 2 0 0) demo with
      | .next u =>
        match exec (.bhpCpl (.read 0 0) false 0 [9, 0, 0, 0, 0, 0, 0, 0]) u with
        | .next t => (u.me.pend.length, u.me.flight.length, t.me.pend.length, t.me.flight.map Flight.wr)
        | _ => (9, 9, 9, [])
      | _ => (9, 9, 9, [])) = (1, 0, 0, [.s 6 9]) := by decide +kernel

/-- The last 8 bytes and the last 4,096 bytes of a reservation of 64 rows. -/
theorem witness_scratchpad : WithinD demo 0x3FFF8 8 3 ∧ WithinD demo 0x3F000 4096 7 ∧ WithinD demo 0x1001 1 0 ∧
    (demo.res demo.focus).poisonAt false 0x3F000 4096 = none ∧ demo.taskOn demo.focus = some task0 ∧ task0.res.sp.cells.wf ∧
    (demo.res demo.focus).views = [] ∧ (demo.res demo.focus).sp.undef = [] ∧ demo.me.rerun = none := by decide +kernel
/-- A package whose task has offered rows 2 and 3. -/
def lent : State :=
  { demo with cores := [(0, { Core.idle with handles := [(0, ⟨1, 1, 0, 2, 2, tid, 0, false⟩), (1, ⟨3, 2, 5, 4, 0, tid, 0, false⟩)] })] }
/-- The first offset outside the reservation, the last lent and the first misaligned ones. -/
theorem witness_access_traps :
    (match demo.xlate 0 .load 0x5003FFFC 8 with | .error r => r | .ok _ => 0) = 3 ∧
    (match demo.xlate 0 .store 0x50000000 8 with | .error r => r | .ok _ => 0) = 6 ∧
    (match demo.xlate 0 .load 0x40020001 8 with | .error _ => false | .ok _ => true) = true ∧ 0x40020001 % 2 ^ 3 ≠ 0 ∧
    ¬ (0x3FFF9 + 8 ≤ 4096 * (demo.res demo.focus).rows) ∧
    (lent.core 0).lentRow tid (0x3FF8 / 4096) 1 = some 0 ∧ (lent.core 0).lentRow tid (0x4000 / 4096) 1 = none ∧ 0x4001 % 2 ^ 3 ≠ 0 := by
  decide +kernel

/-- An index register that skips all but elements 0 and 1,023, whose indices are given. -/
def idx (x y : W32) : Vec := x :: List.replicate 1022 0x80000000 ++ [y]
def gathering (x y : W32) (base : W64) : State :=
  onPart fun P => { P with regs := { P.regs with v := P.regs.v.set 2 (idx x y), s := P.regs.s.set 10 base } }
theorem padded_el (x y c : W32) (n e : Nat) (h : e < n + 2) :
    nth 0 (x :: List.replicate n c ++ [y]) e = if e = 0 then x else if e = n + 1 then y else c := by
  match e, h with
  | 0, _ => rfl
  | k + 1, h =>
    show ((List.replicate n c ++ [y])[k]?).getD 0 = _
    by_cases hk : k < n
    · rw [List.getElem?_append_left (by simpa using hk), List.getElem?_replicate, if_pos hk, if_neg (by omega), if_neg (by omega)]
      rfl
    · have : k = n := by omega
      rw [List.getElem?_append_right (by simp; omega), if_neg (by omega), if_pos (by omega), this, List.length_replicate, Nat.sub_self]
      rfl
theorem idx_el (x y : W32) (e : Nat) (h : e < 1024) : Vec.el (idx x y) e = if e = 0 then x else if e = 1023 then y else 0x80000000 :=
  padded_el x y 0x80000000 1022 e h
theorem padded_length (x y c : W32) (n : Nat) : (x :: List.replicate n c ++ [y]).length = n + 2 := by simp
theorem fit_full {x : Vec} {n : Nat} (h : x.length = n) (c : Vec) : (x ++ c).take n = x := h ▸ List.take_left
theorem rdV_idx (x y : W32) (base : W64) : (gathering x y base).rdV 1 2 = idx x y := by
  have h : (gathering x y base).me.inWindow (.v 2) = false := by rfl
  have g : nth [] (gathering x y base).me.regs.v 2 = idx x y := by rfl
  rw [State.rdV, h, g, Vec.fit, if_neg Bool.false_ne_true]
  exact fit_full (padded_length x y 0x80000000 1022) _
theorem active_gathering (x y : W32) (base : W64) (hx : x ≠ 0x80000000) (hy : y ≠ 0x80000000) : activeOf (gathering x y base) 2 = [0, 1023] := by
  have h : (List.range 1024).filter (fun e => decide (Vec.el (idx x y) e ≠ 0x80000000)) =
      (List.range 1024).filter fun e => e == 0 || e == 1023 := by
    refine List.filter_congr fun e he => ?_
    rw [idx_el x y e (List.mem_range.1 he)]
    by_cases h0 : e = 0
    · rw [if_pos h0, decide_eq_true hx, h0]; rfl
    · by_cases h1 : e = 1023
      · rw [if_neg h0, if_pos h1, decide_eq_true hy, h1]; rfl
      · simp [h0, h1]
  show (List.range 1024).filter (fun e => decide (Vec.el ((gathering x y base).rdV 1 2) e ≠ 0x80000000)) = [0, 1023]
  rw [rdV_idx, h]
  decide +kernel
theorem witness_gather : activeOf (gathering 4 0xFFC 0x40020000) 2 = [0, 1023] ∧
    ([0, 1023].all fun e => let s := gathering 4 0xFFC 0x40020000
      reachesAt s .load (elemEa s 10 2 e) 4 2 (.hbm (if e = 0 then 0x60004 else 0x60FFC)) &&
      reachesAt s .store (elemEa s 10 2 e) 4 2 (.hbm (if e = 0 then 0x60004 else 0x60FFC)) &&
      (elemEa s 10 2 e).toNat / 4096 == (s.rdS 0 10).toNat / 4096) = true :=
  ⟨active_gathering _ _ _ (by decide) (by decide), by decide +kernel⟩
theorem witness_gather_scratch : activeOf (gathering 4 0xFFC 0x1000) 2 = [0, 1023] ∧
    (∀ e ∈ [0, 1023], let s := gathering 4 0xFFC 0x1000
      WithinD s (elemEa s 10 2 e).toNat 4 2 ∧ (elemEa s 10 2 e).toNat / 4096 = (s.rdS 0 10).toNat / 4096 ∧
      (s.res s.focus).poisonAt false (elemEa s 10 2 e).toNat 4 = none) :=
  ⟨active_gathering _ _ _ (by decide) (by decide), by decide +kernel⟩
/-- The trap of an element, and whether it is the first to fail. -/
def failsAt (r : Except Trap Nat) : Nat := match r with | .error t => t.cause | .ok _ => 0
def failsGlobal (r : Except Trap Xlate) : Nat := match r with | .error t => t.cause | .ok _ => 0
theorem witness_gather_traps : (let s := gathering 4 2 0x40020000
     failsGlobal (s.checkGlobal .load (elemEa s 10 2 0) 4 2) = 0 ∧ failsGlobal (s.checkGlobal .load (elemEa s 10 2 1023) 4 2) = 4 ∧
     failsGlobal (s.checkGlobal .store (elemEa s 10 2 1023) 4 2) = 4) ∧
    (let s := gathering 4 0x1000 0x40020000
     failsGlobal (s.checkGlobal .store (elemEa s 10 2 1023) 4 2) = 0 ∧
     (elemEa s 10 2 1023).toNat / 4096 ≠ (s.rdS 0 10).toNat / 4096) ∧
    (let s := gathering 4 0x3F000 0x1000
     failsAt (s.checkSp (elemEa s 10 2 0) 4 2) = 0 ∧ failsAt (s.checkSp (elemEa s 10 2 1023) 4 2) = 3) ∧
    (let s := gathering 4 0x1000 0x1000
     failsAt (s.checkSp (elemEa s 10 2 1023) 4 2) = 0 ∧
     (elemEa s 10 2 1023).toNat / 4096 ≠ (s.rdS 0 10).toNat / 4096) := by decide +kernel

/-- A word at a home: 8 in HBM4 at 0x60008. -/
def word8 : State := { demo with mem := { Store.zero with cells := [(0x60008, 8)] } }
theorem witness_atomics : reachesAt word8 .atom (word8.rdS 0 2) 4 2 (.hbm 0x60008) = true ∧
    reachesAt word8 .atom (word8.rdS 0 2) 8 3 (.hbm 0x60008) = true ∧ word8.poisonedAt (.hbm 0x60008) 8 = false ∧
    IsWordD (8 : BitVec 32) (word8.readHome (.hbm 0x60008) 4) ∧ IsWordD (8 : BitVec 64) (word8.readHome (.hbm 0x60008) 8) ∧
    (8 : BitVec 64) = word8.rdS 2 5 ∧ (8 : BitVec 64) ≠ word8.rdS 2 6 ∧
    word8.localHome (.hbm 0x60008) = true ∧ word8.ans = none ∧
    ((word8.touch (.hbm 0x60008) 8 true 0).writeHome (.hbm 0x60008) (wordBytes (9 : BitVec 64))).isSome = true ∧
    reachesAt word8 .atom (word8.rdS 0 4) 8 3 (.hbm (5 * 2 ^ 42 + 0x60000)) = true ∧
    word8.localHome (.hbm (5 * 2 ^ 42 + 0x60000)) = false := by decide +kernel
/-- A snapshot over the line whose arena is full refuses the write. -/
def fullArena : State :=
  { word8 with snaps := [(0, ⟨2, 7, none, 0, [(0x60000, 0x60080)], [(0x70000, 0x70000)], 0, 0, [], [], [], []⟩)] }
theorem witness_atomic_refused : fullArena.localHome (.hbm 0x60008) = true ∧ (fullArena.touch (.hbm 0x60008) 8 true 0).writeHome (.hbm 0x60008) (wordBytes (9 : BitVec 64)) = none ∧
    reachesAt fullArena .atom (fullArena.rdS 0 2) 8 3 (.hbm 0x60008) = true := by decide +kernel
/-- R256: the five operations that do not carry, and the signed ones at the sign. -/
theorem test_atom_values : atomValue 0 (0xFFFFFFFF : BitVec 32) 2 = 1 ∧ atomValue 4 (1 : BitVec 32) 0xFFFFFFFF = 0xFFFFFFFF ∧
    atomValue 5 (1 : BitVec 32) 0xFFFFFFFF = 1 ∧ atomValue 6 (1 : BitVec 32) 7 = 7 := by decide
theorem test_atom_add : (match exec (.atomD 6 2 0 1 0 0) word8 with
      | .next t => (t.me.regs.s[6]?, t.me.flight.map Flight.wr, Mem.read t.mem.cells 0x60008)
      | _ => (none, [], 0)) = (some 1, [.s 6 8], 9) := by decide +kernel
/-- The target reached, and one above the word. -/
theorem witness_mwait : reachesAt word8 .load (word8.rdS 0 2) 8 3 (.hbm 0x60008) = true ∧
    reachesAt word8 .load (word8.rdS 0 4) 8 3 (.hbm (5 * 2 ^ 42 + 0x60000)) = true ∧ word8.reachable (.hbm (5 * 2 ^ 42 + 0x60000)) = true ∧
    word8.localHome (.hbm (5 * 2 ^ 42 + 0x60000)) = false ∧
    ((8 : W64).getLsbD 63 || decide ((word8.rdS 1 5).toNat % 2 ^ 56 ≤ (8 : W64).toNat % 2 ^ 56)) = true ∧
    ((8 : W64).getLsbD 63 || decide ((word8.rdS 1 8).toNat % 2 ^ 56 ≤ (8 : W64).toNat % 2 ^ 56)) = false := by decide +kernel
def failsX (r : Except Nat Xlate) : Nat := match r with | .error t => t | .ok _ => 0
/-- A read in flight of a class the mask leaves out; neutral accesses that fail and pass. -/
theorem witness_fence : (∀ y ∈ (reading1 (pend 8 (.hbm 0x60078) false 3)).me.pend, (0x7 : BitVec 16).getLsbD y.cls = false) ∧
    failsX (demo.xlate 0 ⟨false, false, false, false⟩ 0 1) = 2 ∧ failsX (demo.xlate 0 ⟨false, false, false, false⟩ 0x50000000 1) = 0 := by
  decide +kernel
/-- A line written in the swizzled view and not joined: R264 ends the free choice between its two images. -/
def twoViews : State :=
  { onRes fun r => { r with views := [⟨32, ⟨0x55, []⟩, true, false, ⟨0x55, []⟩, 4⟩] } with fresh := 4 }
theorem witness_vjoin : (∀ e ∈ (twoViews.res twoViews.focus).views, e.tick ≤ twoViews.fresh) ∧ (twoViews.res 0).views ≠ [] := by decide +kernel
theorem test_vjoin : (match exec (.vjoin 0) twoViews with
      | .next t => (t.me.regs.vj, t.spRead 0 false 0x1000 1)
      | _ => (0, [])) = (5, [0]) := by decide +kernel
/-- Pairs of released stores that keep their order: a release, one class, one place, and a fence between. -/
theorem witness_store_order :
    ((gs 0x61000 2 true).rel = true) ∧ ((gs 0x60000 1 false).op ≠ (gs 0x61000 2 false).op ∧ (gs 0x60000 1 false).cls = (gs 0x61000 2 false).cls ∧ demo.localHome (.hbm 0x60000) = true) ∧
    (0x60000 < 0x60007 + (gs 0x60007 2 false).data.length ∧ 0x60007 < 0x60000 + (gs 0x60000 1 false).data.length) ∧
    (∃ f ∈ ({ gs 0x60000 1 false with before := [(2, 2)] } : GStore).before, f.1.getLsbD 1 = true ∧ f.2 ≤ 2) ∧
    ({ demo with released := [gs 0x60000 1 false, gs 0x61000 2 true] } : State).storeReady (gs 0x61000 2 true) = false := by decide +kernel

/-! ### Witnesses: engine commands and queries -/

theorem ok_of_placed {α : Type} {r : Except BadPlace α} {x : α} (h : placed r = some x) : r = .ok x := by
  unfold placed at h
  split at h
  · simp at h
  · exact congrArg _ (Option.some.inj h)

/-- The task's reservation with the bytes given. -/
def withSp (cells : Mem) : State := onRes fun r => { r with sp := { Store.zero with cells := cells } }
/-- A number in the descriptor at 0x1000. -/
def put (o x : Nat) : Mem := (((leBytes 8 x).zipIdx).map fun b => (0x1000 + o + b.2, b.1)).filter fun c => c.2 ≠ 0
/-- A copy of 256 bytes within HBM4, with its stamp. -/
def copyDesc : State := withSp (put 8 0x40000000 ++ put 0x10 0x40010000 ++ put 0x18 0x40020000 ++ put 0x20 255)
def copyBytes : List Byte := copyDesc.spRead copyDesc.focus false 0x1000 128
theorem witness_copy : WithinD copyDesc 0x1000 128 7 ∧ (copyDesc.res copyDesc.focus).poisonAt false 0x1000 128 = none ∧
    (CopyRaw.ofBytes copyBytes).resv = false ∧ (CopyRaw.ofBytes copyBytes).tile = false ∧ (CopyRaw.ofBytes copyBytes).legal = true := by
  decide +kernel
theorem witness_copy_places :
    ((CopyRaw.ofBytes copyBytes).offsets (CopyRaw.ofBytes copyBytes).ss).map
      (fun x => copyDesc.place 0 0 false (0x40000000 + x) 256 0 false) = [(.ok (.glob (.hbm 0x40000) 0) : Except BadPlace Place)] ∧
    copyDesc.stampPlace 2 false 0x40020000 = .ok (.global ⟨.hbm 0x60000, 0⟩) := by
  have h : (CopyRaw.ofBytes copyBytes).offsets (CopyRaw.ofBytes copyBytes).ss = [0] := by decide +kernel
  rw [h]
  exact ⟨congrArg (· :: []) (ok_of_placed (by decide +kernel)), ok_of_placed (by decide +kernel)⟩
/-- A `ctarm` that receives into offset 0 and stamps, and one that does nothing. -/
def armDesc : State := withSp (put 0 1 ++ put 0x20 0x40020000)
def armBytes : List Byte := armDesc.spRead armDesc.focus false 0x1000 384
theorem witness_arm : WithinD armDesc 0x1000 384 7 ∧ (armDesc.rdS 1 8).toNat < 2 ^ 14 ∧ (descW armBytes 0).getLsbD 0 = true ∧
    (descW armBytes 0).getLsbD 15 = false ∧ (descW armBytes 0).extractLsb' 24 8 = 0 ∧ ((descW armBytes 0).extractLsb' 2 2).toNat = 0 ∧
    (descW armBytes 0x20) = 0x40020000 := by decide +kernel
theorem witness_arm_places : whenOn true (armDesc.place 0 1 true ((0 : Nat) : Int) 65536 12 false) = .ok (some (.sp tid 0)) ∧
    whenOn true (armDesc.globalPlace 2 true 0x40020000 8 3) = .ok (some ⟨.hbm 0x60000, 0⟩) ∧
    whenOn false (armDesc.globalPlace 4 true 0 8 3) = .ok none :=
  ⟨ok_of_placed (by decide +kernel), ok_of_placed (by decide +kernel), rfl⟩
theorem witness_plain_commands : demo.stampPlace 0 false (demo.rdS 0 1) = .ok (.global ⟨.hbm 0x60000, 0⟩) ∧
    demo.stampPlace 0 true (demo.rdS 0 8) = .ok (.sp tid 0x1000) ∧ (demo.rdS 0 8).toNat < 2 ^ 14 ∧ (demo.rdS 0 5).toNat < 384 ∧
    (demo.rdS 1 5).toNat < 324 := ⟨ok_of_placed (by decide +kernel), ok_of_placed (by decide +kernel), by decide +kernel⟩

/-- s10 set, for operands that name a unit. -/
def withS10 (s : State) (x : W64) : State :=
  s.updPart 0 fun P => { P with regs := { P.regs with s := P.regs.s.set 10 x } }
/-- All 64 rows offered to core 1; one row, the last; a lent row is not among them. -/
theorem witness_hgive : ((withS10 demo 0x0100003F00000000).rdS 0 10).toNat = 1 * 2 ^ 56 + (64 - 1) * 2 ^ 32 + 0 * 2 ^ 16 ∧
    ((withS10 demo 0x07000000003F0000).rdS 0 10).toNat = 7 * 2 ^ 56 + (1 - 1) * 2 ^ 32 + 63 * 2 ^ 16 ∧
    64 ≤ (demo.res demo.focus).rows ∧ (demo.core 0).lentRow tid 0 64 = none ∧ 1 ≠ 0 % 8 ∧ KMap.find (demo.core 0).handles 0 = none ∧
    KMap.find (lent.core 0).handles 2 = none ∧ KMap.find (lent.core 0).handles 1 ≠ none ∧ (lent.core 0).lentRow tid 4 60 = none := by
  decide +kernel
theorem witness_hgive_ret : (∃ e, KMap.find (lent.core 0).handles 1 = some e ∧ e.resv = false ∧ e.owner = lent.me.task.getD 0 ∧ e.state = 3) ∧
    ∃ e, KMap.find (lent.core 0).handles 0 = some e ∧ e.resv = false ∧ e.owner = lent.me.task.getD 0 ∧ e.state = 1 :=
  ⟨⟨_, rfl, rfl, by decide +kernel, rfl⟩, ⟨_, rfl, rfl, by decide +kernel, rfl⟩⟩
/-- A snapshot of one line with an arena of one line, in a window with SN. -/
def snapDesc (snaps : KMap Snap) : State :=
  { withSp (put 0 0x40000000 ++ put 8 128 ++ put 0x10 0x40000080 ++ put 0x18 1) with
    gens := [⟨7, 0, ents.map fun e => { e with sn := true }, false⟩], snaps := snaps }
def snapBytes : List Byte := (snapDesc []).spRead 0 false 0x1000 64
theorem witness_snap : WithinD (snapDesc []) 0x1000 64 6 ∧ (descW snapBytes 0).toNat = 0x40000000 ∧ (descW snapBytes 8).toNat = 128 ∧
    (descW snapBytes 0x18).extractLsb' 32 31 = 0 ∧ (descW snapBytes 0x18).toNat % 2 ^ 32 = 1 ∧
    ((snapDesc []).snapRuns false (pagesFrom 0x40000000 128)).toOption = some [(0x40000, 0x40080)] ∧
    ((snapDesc []).snapRuns true (pagesFrom 0x40000080 128)).toOption = some [(0x40080, 0x40100)] ∧ (descW snapBytes 0x18).getLsbD 63 = false ∧
    ((snapDesc []).nest ⟨[(0x40000, 0x40080)], [(0x40080, 0x40100)], 1, none, 0⟩).toOption = some (none, 0) ∧
    (snapDesc []).freeSnap = some 0 := by decide +kernel
theorem find_filled {α : Type} (x : α) : ∀ n a k, a ≤ k → k < a + n → KMap.find ((List.range' a n).map fun i => (i, x)) k = some x
  | 0, _, _, h, g => by omega
  | n + 1, a, k, h, g => by
    have ih := find_filled x n (a + 1) k
    simp only [KMap.find, List.range'_succ, List.map_cons, KMap.get] at ih ⊢
    split
    · rfl
    · rw [if_neg (by omega)]
      exact ih (by omega) (by omega)
/-- With every number taken none is free. -/
theorem witness_snap_full : (snapDesc ((List.range' 0 256).map fun n => (n, Snap.reserved 7))).freeSnap = none := by
  refine List.find?_eq_none.2 fun n h => ?_
  have f := find_filled (Snap.reserved 7) 256 0 n (by omega) (by simpa using h)
  show ¬ (KMap.find ((List.range' 0 256).map fun n => (n, Snap.reserved 7)) n).isNone = true
  rw [f]
  decide
/-- A nest of two open snapshots: number 1 is a child of number 0. -/
def openSnap (parent : Option Nat) (level : Nat) (sh : List Shadow) : Snap :=
  ⟨2, 7, parent, level, [(0x60000, 0x60080)], [(0x70000 + 0x80 * level, 0x70080 + 0x80 * level)], 1, level, sh, [], [], []⟩
def nested : State := { word8 with snaps := [(0, openSnap none 0 []), (1, openSnap (some 0) 1 [⟨0x60000 / 128, ⟨0x55, []⟩, false, 1, false⟩])] }
theorem witness_close_snap : whenOn ((0 : BitVec 5) != 0) (nested.globalPlace 0 true 0 8 3) = .ok none ∧
    whenOn ((1 : BitVec 5) != 0) (nested.globalPlace 0 true (nested.rdS 1 1) 8 3) =   .ok (some ⟨.hbm 0x60000, 0⟩) ∧
    nested.isInnermost 1 = true ∧ nested.isInnermost 0 = false ∧
    ∃ e, KMap.find nested.snaps 0 = some e ∧ e.state = 2 ∧ e.asid = nested.asidOn nested.focus :=
  ⟨rfl, ok_of_placed (by decide +kernel), by decide +kernel, by decide +kernel, _, rfl, rfl, by decide +kernel⟩
/-- Amounts below, at and above the balance of 1,000; the task itself; a supervisor. -/
theorem witness_bgadd : (withS10 demo tid).rdS 0 10 = demo.me.task.getD 0 ∧ demo.rdS 0 1 ≠ demo.me.task.getD 0 ∧ demo.isSup demo.focus = false ∧
    demo.me.bgi < ((0x3E9 : Nat) : Int) ∧ (1000 : Int) ≤ demo.me.bgi ∧ (demo.rdS 1 5).toNat < 2 ^ 47 ∧
    ({ demo with launches := [{ launch0 with record := { rec0 with sup := true } }] } : State).isSup 0 = true := by decide +kernel
theorem witness_grow : demo.launchOn demo.focus = some launch0 ∧ (demo.rdS 0 5).toNat < 2 ^ 32 := by decide +kernel
/-- Queue 8: a reorder ring of 16 records at 0x40000000 with its block at 0x40001000, taking part or not. -/
def queue (tail : Nat) (on : Bool) : State :=
  { demo with
    regs := { demo.regs with
      qctl := [(8, (if on then BitVec.twoPow 64 63 else 0) ||| (7#64 <<< 48) ||| (1#64 <<< 40) ||| (4#64 <<< 32))]
      qring := [(8, 0x40000000)], qblk := [(8, 0x40001000)] }
    mem := { Store.zero with cells := if tail = 0 then [] else [(0x41000, BitVec.ofNat 8 tail)] } }
theorem witness_enq : (queue 0 false).qOn 8 = false ∧ (queue 0 true).qOn 8 = true ∧ (queue 0 true).qBytes 8 = false ∧
    (queue 0 true).qAsid 8 = (queue 0 true).asidOn 0 ∧ (queue 0 true).mAble true 7 ((queue 0 true).qBlock 8) 128 = true ∧
    (let asked (s : State) : State := s.mAsk 7 [(s.qBlock 8, 8), (s.qBlock 8 + 0x40, 8)]
     (asked (queue 0 true)).mWord 7 ((queue 0 true).qBlock 8) = some 0 ∧ (asked (queue 0 true)).mWord 7 ((queue 0 true).qBlock 8 + 0x40) = some 0 ∧
     (asked (queue 16 true)).mWord 7 ((queue 16 true).qBlock 8) = some 16) ∧ (queue 16 true).qSize 8 = 16 ∧
    (queue 15 true).mAble false 7 ((queue 15 true).qRing 8 + 64 * 15) 64 = true ∧
    (queue 15 true).mAble false 7 ((queue 15 true).qBlock 8 + 0x80 + 8 * 15) 8 = true ∧ WithinD (queue 0 true) 0x1000 64 6 ∧
    ((queue 0 true).rdS 1 5).toNat = 8 := by decide +kernel
/-- R300: a ticket, a full ring, and a queue that does not take part. -/
theorem test_enq : [queue 15 true, queue 16 true, queue 0 false].map (fun s =>
      match exec (.enq 8 5 0) s with
      | .next t => t.me.flight.map Flight.wr
      | _ => []) = [[.s 8 15], [.s 8 0xFFFFFFFFFFFFFFFF], [.s 8 0xFFFFFFFFFFFFFFFE]] := by decide +kernel
theorem witness_hqry : KMap.find (lent.core 0).handles 2 = none ∧
    (∃ e, KMap.find (lent.core 0).handles 1 = some e ∧ e.resv = false ∧ e.state < 4 ∧ e.peer < 8 ∧ e.peerh < 64 ∧ 1 ≤ e.nrows ∧
      e.nrows ≤ 1024 ∧ e.baserow < 1024 ∧ e.ownp < 4) ∧
    ∃ e, KMap.find [(0, (⟨0, 0, 0, 1, 0, tid, 0, true⟩ : Handle))] 0 = some e ∧ e.resv = true :=
  ⟨by decide +kernel, ⟨_, rfl, by decide⟩, ⟨_, rfl, rfl⟩⟩
/-- R35: state 3, peer 2, peer handle 5, 4 rows from row 0, TASKID low bits. -/
theorem test_hqry : (match exec (.hqry 6 6 0) lent with | .next t => t.me.flight.map Flight.wr | _ => []) =
    [.s 6 (3 * 2 ^ 61 + 2 * 2 ^ 56 + 5 * 2 ^ 48 + 3 * 2 ^ 32)] := by decide +kernel
/-- Entry 8 of domain 0 free, and armed by another address space. -/
def entry0 : Entry := demo.entry 0 8
def otherEntry : State := { demo with entries := [(8, { entry0 with asid := some 9 })] }
/-- Armed at cycle 7 with a deadline of 10 microseconds that has passed: ctstat shows TIMEOUT. -/
def lateEntry : State :=
  { demo with cyc := 22507, entries := [(8, { entry0 with
      rst := 1, armedAt := 7, desc := some ⟨true, false, 0, 0, 2, 0, 10, 0, none, 0, none, 0, none, none, 0, []⟩ })] }
theorem witness_late : (let e := lateEntry.entry 0 8
    e.rst = 1 ∧ (∃ d ∈ e.desc, 0 < d.deadline ∧ d.expect ≤ 64 ∧ e.armedAt + 2250 * d.deadline ≤ lateEntry.cyc) ∧ e.count ≤ 64) := by decide +kernel
theorem witness_queries : (demo.rdS 0 5).toNat < 2 ^ 14 ∧ (otherEntry.entry 0 8).asid = some 9 ∧ otherEntry.asidOn 0 = 7 ∧ entry0.asid = none ∧
    entry0.rst < 4 ∧ entry0.sst < 4 ∧ entry0.count ≤ 64 ∧ entry0.desc = none ∧ KMap.find demo.snaps 8 = none ∧
    (∃ x, KMap.find nested.snaps 1 = some x ∧ x.asid = nested.asidOn 0 ∧ x.state < 4 ∧ x.level < 4 ∧ (∀ p ∈ x.parent, p < 256) ∧ x.used < 2 ^ 32) ∧
    (demo.chartAt 383 323).state < 8 ∧ (demo.chartAt 383 323).logical < 128 ∧ 383 * 2 ^ 16 + 323 < 2 ^ 64 :=
  ⟨by decide +kernel, rfl, by decide +kernel, rfl, by decide, by decide, by decide, rfl, rfl, ⟨_, rfl, by decide +kernel⟩, by decide +kernel⟩

/-! ### Witnesses: rings, tiles and the matrix engine -/

/-- A slot of zeros in a format, column-blocked or not. -/
def slotOf (f : BitVec 4) (cb : Bool) : RingSlot := ⟨⟨f, cb, [], [], [], [], 0, false⟩, true, false⟩
/-- A ring of 8 units from unit 0 with 8 slots of 8,192 bytes, holding the slots given from index 2 on. -/
def ring3 (xs : List RingSlot) : Ring := ⟨0, 8, 2, 8, 2, (2 + xs.length) % 8, xs.length, 0, false, xs.zipIdx.map fun x => (2 + x.2, x.1)⟩
def ringed (xs : List RingSlot) (P : Part → Part := id) : State :=
  { onRes fun r => { r with rings := [(3, ring3 xs)] } with parts := [(0, P part0)] }
def cmd0 (k : MxKind) (started : Bool) : MxCmd := ⟨k, 4, 0, 6, 3, true, 0, 0, true, 7, 0x40000000, started, 0⟩
def op0 (store : Bool) (q : Nat) : TileOp := ⟨store, 4, 0, q, 0x1000, false, 10, 10, false, true, 0x40000000, 0⟩

theorem witness_rings : (let r := (ringed []).res 0
    r.rmask.getLsbD 14 = true ∧ r.rmask.getLsbD 15 = false ∧ ((ringed []).ring 0 3).nslots ≠ 0 ∧ ((ringed []).ring 0 14).nslots = 0 ∧
    r.tmask.getLsbD 7 = true ∧ r.tmask.getLsbD 8 = false) := by decide +kernel
theorem witness_mxfmt_mxwait : (∃ (x : Regs), x.fmtq = [(1, 2, true, 2)]) ∧ (∃ (x : Regs), x.fmtq = [(1, 2, true, 3)]) ∧
    ([fun P => { P with mxq := [cmd0 .mxw false] }, fun P => { P with tq := [op0 true 3] }, fun P => { P with rsq := [⟨5, 3, true, 4, 0⟩] },
      fun P => { P with aq := [⟨.azero, 6, 4, 0, 0⟩] }] : List (Part → Part)).all (fun f =>
        let P := ((ringed [] f).part 0)
        P.mxq != [] || P.tq != [] || P.rsq != [] || P.aq != []) = true :=
  ⟨⟨{ Regs.zero with fmtq := [(1, 2, true, 2)] }, rfl⟩, ⟨{ Regs.zero with fmtq := [(1, 2, true, 3)] }, rfl⟩, by decide +kernel⟩
/-- 24 units from unit 8 fit a reservation of 32 whose ring 3 has the first 8; from unit 9, or from unit 7, they do not. -/
theorem witness_ringcfg : (let s := ringed []
    let fits (t n : BitVec 6) : Bool := (s.ring 0 4).slots == [] && t.toNat + (n.toNat + 1) ≤ (s.res 0).units &&
      (s.res 0).rings.all fun e => e.1 == 4 || e.2.nslots == 0 || t.toNat + (n.toNat + 1) ≤ e.2.base || e.2.base + e.2.nunits ≤ t.toNat
    fits 8 23 = true ∧ fits 9 23 = false ∧ fits 7 23 = false) := by decide +kernel
theorem witness_ringst : (ringed [] fun P => { P with seq := 5, tq := [op0 true 3] }).me.ringBefore 3 5 = true ∧
    (ringed [slotOf 10 false]).me.ringBefore 3 0 = false ∧
    (let r := (ringed [slotOf 10 false]).ring 0 3
     r.head < 256 ∧ r.tail < 256 ∧ r.count ≤ 256 ∧ r.nslots ≤ 256 ∧ r.base < 64 ∧ r.nunits ≤ 64 ∧ r.sz < 4) := by decide +kernel
/-- A tile that is too large, a ring filled by what it holds and by loads on their way, and one with a slot left. -/
theorem witness_tile_operations : WithinD demo (demo.rdS 0 8).toNat (imageSize 10) 7 ∧ 2048 * 2 ^ 2 < 64 * rowBytes 0 ∧
    ¬ 2048 * 2 ^ 2 < 64 * rowBytes 10 ∧
    (let n (k j : Nat) := (let s := ringed (List.replicate k (slotOf 10 false)) fun P => { P with tq := List.replicate j (op0 false 3) }
       (s.ring 0 3).slots.length + (s.me.tq.filter fun o => !o.store && o.q = 3).length)
     8 ≤ n 6 2 ∧ n 6 1 < 8) := by decide +kernel

/-- An A-slot operation on tile 6 that may perform, and one an earlier product holds up. -/
theorem witness_tile_free : demo.me.tileBusy 6 demo.me.seq = false ∧ demo.me.residue = false ∧ (demo.res 0).tpoison = [] ∧ (demo.acc 0 6).length = 4225 ∧
    (ringed [] fun P => { P with seq := 5, mxq := [cmd0 .mxmac true] }).me.tileBusy 6 5 = true ∧ demo.me.flight = [] ∧
    demo.me.regs.v.length = 32 ∧ (28 : BitVec 5).toNat + 3 < 32 ∧ (49 : BitVec 7).toNat ≤ 49 ∧ (31 : BitVec 5).toNat < 32 := by decide +kernel
theorem witness_register_frame : ∃ t, exec (.vquant 29 28 5 0) demo = .next t := ⟨_, rfl⟩

/-- Ready to start: an `mxw`, an `mxchk`, and a product against a stationary buffer; MX tiles in the blocking each side asks for. -/
def starting (k : MxKind) (fa fb : BitVec 4) (a : RingSlot) (b : Option TileData) : State :=
  { onRes fun r => { r with rings := [(3, ring3 [a])], stat := ⟨b, none, b.map fun _ => false, false⟩ } with
    parts := [(0, { part0 with mxq := [{ cmd0 k false with fa := fa, fb := fb }] })] }
theorem witness_command_start :
    [starting .mxchk 0 0 (slotOf 0 false) none, starting .mxw 0 0 (slotOf 0 false) none, starting .mxw 0 8 (slotOf 8 true) none,
     starting .mxmac 6 8 (slotOf 6 false) (some (slotOf 8 true).data), starting .mxdrv 0 0 (slotOf 0 false) (some (slotOf 0 false).data)].all
      (fun s => s.nextFront 0 == some 0 && (s.headTile 0 3).isSome && (s.core 0).flips.isEmpty && (s.res 0).tpoison.isEmpty) = true ∧
    ((starting .mxmac 6 8 (slotOf 6 false) (some (slotOf 8 true).data)).headTile 0 3) = some (slotOf 6 false).data ∧
    ((starting .mxmac 6 8 (slotOf 6 false) (some (slotOf 8 true).data)).res 0).stat.current = some (slotOf 8 true).data := by decide +kernel

/-- A product of zeros in the drain buffer. -/
def drained (k : MxKind) : State :=
  { starting k 0 0 (slotOf 0 false) none with
    parts := [(0, { part0 with mxq := [cmd0 k true] })]
    cores := [(0, { Core.idle with drain := some ⟨0, List.replicate 4225 (.f 0), false⟩ })] }
theorem dAt_replicate (x : W32) (h : x = 0) (n i j : Nat) : dAt (List.replicate n (.f x)) i j = .f 0 := by
  simp only [dAt, nth, List.getD_eq_getElem?_getD, List.getElem?_replicate, h]
  split <;> rfl
theorem accEl_replicate (n i j : Nat) : accEl (List.replicate n 0) i j = 0 := by
  simp only [accEl, nth, List.getD_eq_getElem?_getD, List.getElem?_replicate]
  split <;> rfl
theorem none_fail {α : Type} (l : List α) (c : α → Option Bool) (h : ∀ x ∈ l, c x = some true) :
    ((l.map fun i => (i, c i)).filter fun x => x.2 == some false).map Prod.fst = [] := by
  rw [List.map_eq_nil_iff, List.filter_eq_nil_iff]
  intro x hx
  obtain ⟨i, hi, rfl⟩ := List.mem_map.1 hx
  simp [h i hi]
theorem zeros_pass (tol : Option Nat) (h : lineTest tol ((List.range 64).map fun _ => f32 0) (f32 0) = some true) :
    (drainCheck tol fun _ _ => f32 0).fr = [] ∧ (drainCheck tol fun _ _ => f32 0).fc = [] :=
  ⟨none_fail _ _ fun _ _ => h, none_fail _ _ fun _ _ => h⟩
theorem witness_drain (k : MxKind) (h : k = .mxmul ∨ k = .mxmac ∨ k = .mxdrv) :
    (drained k).draining 0 = some ⟨0, List.replicate 4225 (.f 0), false⟩ ∧ ((drained k).part 0).front = some (cmd0 k true) ∧
    ((drained k).taskOn 0).isSome = true ∧ ((drained k).acc 0 6).length = 4225 ∧ ((drained k).res 0).tpoison = [] ∧ 6 + 4 ≤ ((drained k).part 0).regs.v.length := by
  rcases h with rfl | rfl | rfl <;> exact ⟨rfl, rfl, rfl, by decide +kernel, rfl, by decide +kernel⟩
theorem witness_drain_passes : (List.replicate 4225 (DVal.f 0)).length = 4225 ∧ pairTol 0 0 = some 17 ∧
    (let v := drainCheck (pairTol 0 0) fun i j => (dAt (List.replicate 4225 (.f 0)) i j).val
     v.fr = [] ∧ v.fc = []) := by
  refine ⟨List.length_replicate, by decide, ?_⟩
  have h : (fun i j => (dAt (List.replicate 4225 (.f 0)) i j).val) = fun _ _ => f32 0 := by
    funext i j
    rw [dAt_replicate 0 rfl]
    rfl
  simp only [h]
  exact zeros_pass _ (by decide +kernel)
theorem witness_matrix_load (k : MxKind) (h : k = .mxw ∨ k = .mxchk) :
    (let s : State := { starting k 0 0 (slotOf 0 false) (some (slotOf 1 false).data) with parts := [(0, { part0 with mxq := [cmd0 k true] })] }
     (s.part 0).mxq.head? = some (cmd0 k true) ∧ (s.taskOn 0).isSome = true ∧ s.headTile 0 3 = some (slotOf 0 false).data ∧
     (s.res 0).stat.current = some (slotOf 1 false).data ∧ (s.res 0).tpoison = [] ∧ s.acc 0 6 = List.replicate 4225 0) := by
  rcases h with rfl | rfl <;> exact ⟨rfl, rfl, rfl, rfl, rfl, rfl⟩
theorem witness_mxchk_passes : (let v := drainCheck (some 7) fun i j => f32 (accEl (List.replicate 4225 0) i j)
    v.fr = [] ∧ v.fc = []) := by
  have h : (fun i j => f32 (accEl (List.replicate 4225 0) i j)) = fun _ _ => f32 0 := by
    funext i j
    rw [accEl_replicate]
  simp only [h]
  exact zeros_pass _ (by decide +kernel)

/-- A load of an image of zeros into ring 3 and a store of its head slot, at the head of the queue. -/
def tiling (store : Bool) : State := ringed [slotOf 10 false] fun P => { P with tq := [op0 store 3, op0 false 4] }
theorem witness_tile_completes : (tiling false).tileReady 0 0 = true ∧ (tiling true).tileReady 0 0 = true ∧
    ((tiling true).part 0).residue = false ∧ ((tiling true).taskOn 0).isSome = true ∧
    ((tiling false).res 0).poisonAt true 0x1000 (imageSize 10) = none ∧ (tiling true).headTile 0 3 = some (slotOf 10 false).data ∧
    (slotOf 10 false).data.poison = false ∧ (tiling true).focus = 0 ∧ (res0.sp.cells).wf := by decide +kernel
theorem leNat_zeros : ∀ bs : List Byte, (∀ b ∈ bs, b = 0) → leNat bs = 0
  | [], _ => rfl
  | b :: bs, h => by
    rw [leNat, leNat_zeros bs fun x hx => h x (List.mem_cons_of_mem _ hx), h b List.mem_cons_self]
    rfl
theorem wordsOf_zeros (n : Nat) : ∀ k (bs : List Byte), (∀ b ∈ bs, b = 0) → wordsOf n k bs = List.replicate k 0
  | 0, _, _ => rfl
  | k + 1, bs, h => by
    rw [wordsOf, leNat_zeros _ fun x hx => h x (List.mem_of_mem_take hx), wordsOf_zeros n k _ fun x hx => h x (List.mem_of_mem_drop hx)]
    rfl
theorem nth_zeros (k n : Nat) : nth (0 : W32) (List.replicate k 0) n = 0 := by
  simp only [nth, List.getD_eq_getElem?_getD, List.getElem?_replicate]
  split <;> rfl
theorem words_zeros (n k : Nat) (bs : List Byte) (h : ∀ b ∈ bs, b = 0) :
    ((wordsOf n k bs).map fun x => BitVec.ofNat 32 x) = List.replicate k (0 : W32) := by
  rw [wordsOf_zeros n k bs h, List.map_replicate]
  rfl
/-- The all-zero image of a tile without blocks passes its verification. -/
theorem image_zeros (f : BitVec 4) (hw : elemBits f ≠ 4) (one : lineTest (tolerance f) (List.replicate 64 (elemValue f 0 0)) (f32 0) = some true)
    (two : lineTest (tolerance f) ((List.replicate 64 0).map f32) (f32 0) = some true) (hsc : isMxFmt f = false)
    (bs : List Byte) (h : ∀ b ∈ bs, b = 0) : testsPass (TileData.ofImage f false bs false).tests = true := by
  have part : ∀ n, ∀ b ∈ bs.drop n, b = 0 := fun n b hb => h b (List.mem_of_mem_drop hb)
  have hel : (TileData.ofImage f false bs false).el = List.replicate 4096 0 := by
    show fieldsOf (elemBits f) 4096 _ = _
    rw [fieldsOf, if_neg hw]
    exact words_zeros _ 4096 _ (part _)
  have hs : (TileData.ofImage f false bs false).sc = [] := by
    show (if isMxFmt f then _ else _) = _
    rw [hsc]
    rfl
  have hc : (TileData.ofImage f false bs false).csc = List.replicate 64 0 := words_zeros 4 64 _ (part _)
  have hr : (TileData.ofImage f false bs false).csr = List.replicate 64 0 := words_zeros 4 64 _ (part _)
  have hz : (TileData.ofImage f false bs false).csz = 0 :=
    congrArg (BitVec.ofNat 32) (leNat_zeros _ fun b hb => part _ b (List.mem_of_mem_take hb))
  have hf : (TileData.ofImage f false bs false).fmt = f := rfl
  generalize TileData.ofImage f false bs false = t at hel hc hr hz hf hs
  have hv : t.values = List.replicate 4096 (elemValue f 0 0) := by
    refine List.eq_replicate_iff.2 ⟨by rw [TileData.values, List.length_map, List.length_range], fun b hb => ?_⟩
    obtain ⟨e, -, rfl⟩ := List.mem_map.1 hb
    rw [TileData.value, TileData.enc, TileData.scale, hel, hf, hs, nth_zeros]
    rfl
  have hrow : ∀ i, i < 64 → rowOf (List.replicate 4096 (elemValue f 0 0)) i = List.replicate 64 (elemValue f 0 0) := by
    intro i hi
    rw [rowOf, List.drop_replicate, List.take_replicate, Nat.min_eq_left (by omega)]
  have hcol : ∀ j, j < 64 → colOf (List.replicate 4096 (elemValue f 0 0)) j = List.replicate 64 (elemValue f 0 0) := by
    intro j hj
    refine List.eq_replicate_iff.2 ⟨by rw [colOf, List.length_map, List.length_range], fun b hb => ?_⟩
    obtain ⟨i, hi, rfl⟩ := List.mem_map.1 hb
    rw [nth, List.getD_eq_getElem?_getD, List.getElem?_replicate, if_pos (by have := List.mem_range.1 hi; omega)]
    rfl
  rw [testsPass, List.all_eq_true]
  intro x hx
  rw [TileData.tests, hv, hc, hr, hz, hf, List.mem_append, List.mem_append, List.mem_map, List.mem_map, List.mem_singleton] at hx
  have : x = some true := by
    rcases hx with (⟨i, hi, rfl⟩ | ⟨j, hj, rfl⟩) | rfl
    · rw [hrow i (List.mem_range.1 hi), nth_zeros]
      exact one
    · rw [hcol j (List.mem_range.1 hj), nth_zeros]
      exact one
    · exact two
  rw [this]
  rfl
theorem witness_image_verifies : testsPass (TileData.ofImage 10 false ((tiling false).spRead 0 true 0x1000 (imageSize 10)) false).tests = true := by
  refine image_zeros 10 (by decide) (by decide +kernel) (by decide +kernel) rfl _ fun b hb => ?_
  have hres : (tiling false).res 0 = { res0 with rings := [(3, ring3 [slotOf 10 false])] } := rfl
  rw [State.spRead, State.spReadAt, hres, State.resRead, if_neg (by decide)] at hb
  obtain ⟨⟨o, k⟩, -, hb⟩ := List.mem_flatMap.1 hb
  have zero : ∀ L, (tiling false).viewRead { res0 with rings := [(3, ring3 [slotOf 10 false])] } ((tiling false).part 0).regs.vj (tiling false).fresh true L = 0 := by
    intro L
    show leWord 1024 ((List.range 128).map fun k => Mem.read [] (128 * L + k)) = 0
    refine congrArg (BitVec.ofNat 1024) (leNat_zeros _ fun b hb => ?_)
    obtain ⟨k, -, rfl⟩ := List.mem_map.1 hb
    rfl
  obtain ⟨j, -, rfl⟩ := List.mem_map.1 hb
  rw [zero]
  simp

/-! ### Witnesses: events of a partition -/

theorem witness_datums : (let ok (s : State) : Bool :=
      let P := s.part 0
      P.task.isSome && P.pend.isEmpty && P.mxq.isEmpty && P.tq.isEmpty && P.rsq.isEmpty && P.aq.isEmpty && P.regs.mon.isNone && !P.vane &&
      !P.residue && P.rpoison.isEmpty && P.rerun.isNone && P.stopAt.isNone && P.held.isNone && s.snaps.isEmpty && P.flight.isEmpty && P.regs.fmtq.isEmpty
    let s := onPart fun P => { P with datumAfter := true, sb := [.store (gs 0x6007E 3 false)], sbn := 1 }
    let t := onPart fun P => { P with nb := 4096 }
    ok s = true ∧ (s.part 0).datumAfter = true ∧ ok t = true ∧ (t.part 0).datumAfter = false) := by decide +kernel
/-- R86, R124: a commit releases a withheld store that crosses a line in two pieces. -/
theorem test_commit_pieces : (match exec (.datumCommit 0) (onPart fun P => { P with datumAfter := true, sb := [.store (gs 0x6007E 3 false)], sbn := 1 }) with
      | .next t => t.released.map fun y => (y.loc, y.data)
      | _ => []) = [(.hbm 0x6007E, [1, 2]), (.hbm 0x60080, [3, 4, 5, 6, 7, 0xFF])] := by decide +kernel
theorem witness_latches : (demo.part 0).task = some tid ∧ (demo.part 0).exiting = none ∧
    (let P := (onPart fun P => { P with bgi := -1 }).part 0
     P.regs.cm = false ∧ P.exh = false ∧ P.bgi < 0) ∧
    (let P := (onPart fun P => { P with bgm := -1, regs := { P.regs with cm := true } }).part 0
     P.regs.cm = true ∧ P.grace = 0 ∧ P.gl = false ∧ P.bgm < 0) ∧
    (let s : State := { onPart fun P => { P with stopAt := some 100, preempt := true } with cyc := 4236 }
     (s.part 0).exiting = none ∧ (s.part 0).stopAt = some 100 ∧ 100 + 4136 ≤ s.cyc ∧ (s.part 0).preempt = true ∧
     s.ownPoison 0 = none ∧ (s.part 0).relocate = none ∧ (s.part 0).yieldD = false ∧ s.task tid = some task0) := by decide +kernel
/-- Pre-emption after a restore, with the guarantee of R136 and without, and of a class-2 task. -/
theorem witness_preemption : (demo.part 0).lastRestore = false ∧ ((onPart fun P => { P with lastRestore := true }).part 0).lastRestore = true ∧
    (demo.launchOn 0).map (fun l => l.record.cls) = some 0 ∧
    (({ demo with launches := [{ launch0 with record := { rec0 with cls := 2 } }] } : State).launchOn 0).map (fun l => l.record.cls) = some 2 := by
  decide +kernel
/-- A partition that waits at a place for 8 or for 9. -/
def waiting (l : Loc) (target : BitVec 56) : State :=
  { word8 with parts := [(0, { part0 with regs := { part0.regs with mon := some ⟨l, 0x40020008, target, 6, 2, 0⟩ } })] }
theorem witness_waits : ([8, 9].all fun n => let s := waiting (.hbm 0x60008) n
      (s.part 0).regs.mon == some ⟨.hbm 0x60008, 0x40020008, n, 6, 2, 0⟩ && (s.part 0).dup.mon.isNone && (s.part 0).task.isSome && s.ans.isNone &&
      s.localHome (.hbm 0x60008) && !s.poisonedAt (.hbm 0x60008) 8) = true ∧
    IsWordD (8 : W64) ((waiting (.hbm 0x60008) 9).readHome (.hbm 0x60008) 8) ∧ (8 : BitVec 56).toNat ≤ (8 : W64).toNat % 2 ^ 56 ∧
    ¬ (9 : BitVec 56).toNat ≤ (8 : W64).toNat % 2 ^ 56 ∧ (0x8700000000000000 : W64).getLsbD 63 = true ∧
    (waiting (.host 0x60008) 9).memWf ∧ (waiting (.hbm (5 * 2 ^ 42)) 9).isOwn (5 * 2 ^ 42) = false := by decide +kernel
theorem witness_late_faults : (let s := onTask fun t => { t with st := .saved }
     s.task tid = some { task0 with st := .saved }) ∧ (∀ p, TaskSt.saved ≠ .running p) ∧
    demo.task tid = some task0 ∧ task0.st = .running 0 ∧ (demo.part 0).vane = false ∧ (demo.part 0).exiting = none ∧ (∀ u ∈ demo.tasks, u.id = tid → u.late = []) := by
  exact ⟨by decide +kernel, by simp, by decide +kernel, rfl, rfl, rfl, by decide +kernel⟩

/-! ### Witnesses: events of the engines -/

/-- A released command of the task. -/
def cmdOf (k : CmdKind) (pinned : Bool := true) : Cmd := ⟨k, 0, tid, 7, 0, 2, 3, 0, [], [], pinned, [], [], [], 0, false⟩
def commanded (c : Cmd) (s : State := demo) : State := { s with cmds := [c] }
def copyOf (tile : Bool) : CopyDesc := ⟨0, false, 10, 10, 0, tile, 256, [(.glob (.hbm 0x60000) 0, .glob (.hbm 0x61000) 0)]⟩
theorem witness_copy_events : ([cmdOf (.copy (copyOf false) (.global ⟨.hbm 0x60008, 0⟩) 5), cmdOf (.copy (copyOf true) (.global ⟨.hbm 0x60008, 0⟩) 5)].all fun c =>
      let s := commanded c
      s.cmds == [c] && s.pinsHeld c && !s.heldBy c && !c.done && c.prog.isEmpty && c.did.isEmpty && s.placeStands (.glob (.hbm 0x60000) 0) && s.mem.undef.isEmpty &&
      s.hostMem.undef.isEmpty && s.ans.isNone && s.localHome (.hbm 0x60000) && s.wayOpen (.hbm 0x61000) && !s.regs.logq.getLsbD 63 &&
      s.mem.poison.isEmpty && s.hostMem.poison.isEmpty && s.snaps.isEmpty &&
      s.reachable (.hbm 0x60000) && s.reachable (.hbm 0x61000)) = true ∧ demo.memWf ∧
    (copyOf false).runs[0]? = some (.glob (.hbm 0x60000) 0, .glob (.hbm 0x61000) 0) := by decide +kernel
theorem witness_stamps : ([{ cmdOf (.copy (copyOf false) (.global ⟨.hbm 0x60008, 0⟩) 5) with done := true, status := 127 },
      cmdOf (.stamp (.global ⟨.hbm 0x60008, 0⟩) 5)].all fun c =>
      let s := commanded c
      s.pinsHeld c && !s.heldBy c && c.slots.isEmpty && !s.stampsBefore c && c.status < 128 && s.wayOpen (.hbm 0x60008) && s.ans.isNone && s.reachable (.hbm 0x60008)) = true := by decide +kernel
/-- R92: the stamp of a copy that failed with status 2. -/
theorem test_copy_stamp : (match exec (.copyStamp 0) (commanded { cmdOf (.copy (copyOf false) (.global ⟨.hbm 0x60008, 0⟩) 5) with done := true, status := 2 }) with
      | .next t => t.mem.cells
      | _ => []) = [(0x60008, 5), (0x6000F, 0x82)] := by decide +kernel
theorem element_zero (a : Nat) : ElementAt Store.zero a ⟨0, 0, false⟩ := by
  refine ⟨0, fun j hj => ?_, rfl, rfl, rfl⟩
  have : nth 0 ((List.range 16).map fun k => Mem.read Store.zero.cells (a + k)) (j / 8) = 0 := by
    have h : (List.range 16).map (fun k => Mem.read Store.zero.cells (a + k)) = List.replicate 16 0 :=
      List.eq_replicate_iff.2 ⟨rfl, fun b hb => by obtain ⟨k, -, rfl⟩ := List.mem_map.1 hb; rfl⟩
    rw [h, nth, List.getD_eq_getElem?_getD, List.getElem?_replicate]
    split <;> rfl
  rw [this]
  simp
/-- A copy of three fp32 values into elements at row 1 of the reservation, with each operation, and the read-out of them. -/
def fixedCopy (op : Nat) (r : Place × Place) : Cmd :=
  cmdOf (.copy ⟨8, false, 0, 0, op, false, 3, [r]⟩ (.global ⟨.hbm 0x70000, 0⟩) 5)
def intoElements (op : Nat) : Cmd := fixedCopy op (.glob (.hbm 0x60000) 0, .sp tid 0x1000)
def outOfElements : Cmd := fixedCopy 4 (.sp tid 0x1000, .glob (.hbm 0x62000) 0)
theorem witness_fixed_copies : ([intoElements 1, intoElements 2, intoElements 3, outOfElements].all fun c =>
      let s := commanded c
      s.cmds == [c] && s.pinsHeld c && !s.heldBy c && !c.done && c.prog.isEmpty && c.did.isEmpty && s.placeStands (.sp tid 0x1000) &&
      s.placeStands (.glob (.hbm 0x60000) 0) && s.mem.undef.isEmpty && s.hostMem.undef.isEmpty && s.mem.poison.isEmpty &&
      s.hostMem.poison.isEmpty && s.ans.isNone && s.snaps.isEmpty && (s.task tid).isSome && !s.tentative (.sp tid 0x1000) (16 * 3) &&
      s.reachable (.hbm 0x60000) && s.localHome (.hbm 0x60000) && s.reachable (.hbm 0x62000) && s.wayOpen (.hbm 0x62000)) = true ∧
    demo.memWf ∧ Clear (demo.resOf tid) ∧ Untouched (demo.resOf tid) 0x1000 ⟨0, 0, false⟩ ∧
    ¬ Untouched { demo.resOf tid with took := [0x100] } 0x1000 ⟨0, 0, false⟩ ∧ ElementAt (demo.resOf tid).sp 0x1020 ⟨0, 0, false⟩ :=
  ⟨by decide +kernel, by decide +kernel, ⟨rfl, rfl, rfl, by decide +kernel⟩, ⟨rfl, by decide +kernel⟩,
   fun h => h.2 (by decide +kernel), element_zero 0x1020⟩
/-- R65, R203, R204: 3.25, −1 and +∞ into armed elements as a sum with anchor 8, and the larger of them and what stands there. -/
theorem test_fixed_copies : (let got (op : Nat) (cells : List (Nat × Byte)) : List (Nat × Nat) :=
      let s := commanded (intoElements op) { onRes fun r => { r with sp := { r.sp with cells := cells } } with
        mem := { Store.zero with cells := [(0x60002, 0x50), (0x60003, 0x40), (0x60006, 0x80), (0x60007, 0xBF), (0x6000A, 0x80), (0x6000B, 0x7F)] } }
      (match exec (.copyExecute ⟨0, none⟩) s with
        | .next t => (t.resOf tid).sp.cells.map fun c => (c.1 - 0x1000, c.2.toNat)
        | _ => [])
    (got 1 [(0x1000, 1)], got 2 [(0x1010, 1)])) =
    ([(0, 1), (6, 0x40), (7, 3), (23, 0xFF), (24, 0xFF), (25, 0xFF), (26, 0xFF), (27, 0xFF), (44, 1)],
     [(6, 0x40), (7, 3), (16, 1), (43, 0x80), (44, 1)]) := by decide +kernel
/-- An image of zeros that passes, copied as it stands and into bf16. -/
def tileCopy (fd : BitVec 4) : Cmd :=
  cmdOf (.copy ⟨0, false, fd, 0, 0, true, 1, [(.glob (.hbm 0x60000) 0, .glob (.hbm 0x68000) 0)]⟩ (.global ⟨.hbm 0x60008, 0⟩) 5)
theorem witness_tile_copied : ([0, 1].all fun fd =>
      let s := commanded (tileCopy fd)
      s.pinsHeld (tileCopy fd) && !s.heldBy (tileCopy fd) && s.reachable (.hbm 0x60000) && s.localHome (.hbm 0x60000) && s.wayOpen (.hbm 0x68000) &&
      s.reachable (.hbm 0x68000) && s.ans.isNone && s.snaps.isEmpty && s.mem.poison.isEmpty && s.mem.undef.isEmpty && s.memWf) = true ∧
    testsPass (TileData.ofImage 0 false ((commanded (tileCopy 1)).readHome (.hbm 0x60000) (imageSize 0)) false).tests = true := by
  refine ⟨by decide +kernel, image_zeros 0 (by decide) (by decide +kernel) (by decide +kernel) rfl _ fun b hb => ?_⟩
  obtain ⟨k, -, rfl⟩ := List.mem_map.1 hb
  rfl
/-- Memory whose first row of an n8 tile at 0x60000 does not sum to its checksum. -/
def badTile : State := commanded (cmdOf (.copy (copyOf true) (.global ⟨.hbm 0x60008, 0⟩) 5)) { demo with mem := { Store.zero with cells := [(0x60000, 1)] } }
theorem spoiled (a b : List (Option Bool)) (h : a.any (fun x => x == some false) = true) : testsPass (a ++ b) = false := by
  obtain ⟨x, hx, e⟩ := List.any_eq_true.1 h
  rw [testsPass, Bool.eq_false_iff, Ne, List.all_eq_true]
  intro all
  have := all x (List.mem_append_left _ hx)
  simp_all
theorem witness_tile_fails : testsPass (TileData.ofImage 10 false (badTile.readHome (.hbm 0x60000) (imageSize 10)) false).tests = false := by
  rw [TileData.tests, List.append_assoc]
  refine spoiled _ _ (List.any_eq_true.2 ⟨_, List.mem_map.2 ⟨0, by simp, rfl⟩, ?_⟩)
  decide +kernel

/-- Entry 5 of domain 0 armed for one contribution from each of two peers, with its send flag set when asked. -/
def armFor (rx tx : Bool) : ArmDesc :=
  ⟨rx, tx, 0, 0, 2, 0, 10, 0, none, 0, some ⟨.hbm 0x60008, 0⟩, 1, some (.glob (.hbm 0x60000) 0), some ⟨.hbm 0x60010, 0⟩, 2, [⟨0, 4, 1, 9⟩, ⟨63, 4, 1, 10⟩]⟩
def entryOf (rst sst : Nat) (f : Entry → Entry := id) : Entry :=
  f { demo.entry 0 5 with rst := rst, sst := sst, asid := some 7, task := tid, desc := some (armFor true true) }
def armed (e : Entry) (k : CmdKind := .ctarm 0 5 (armFor true true)) : State := { commanded (cmdOf k) with entries := [(5, e)] }
theorem witness_arm_events : ((armed (entryOf 0 3)).entry 0 5).sst = 3 ∧ ((armed (entryOf 1 0)).entry 0 5).rst = 1 ∧
    ((armed (entryOf 0 2)).entry 0 5).sst = 2 ∧ ((armed (entryOf 0 3)).entry 0 5).asid = some (cmdOf .trig).asid ∧ (cmdOf .trig).part / 4 / 48 = 0 ∧
    (armed (entryOf 0 3)).heldBy (cmdOf .trig) = false ∧ (armed (entryOf 0 3)).pinsHeld (cmdOf .trig) = true ∧
    (armed (entryOf 1 0)).pastDeadline (entryOf 1 0) = false ∧ (armed (entryOf 0 3)).tentative (.sp tid 0) 65536 = false ∧
    (armed (entryOf 0 3)).task tid = some task0 ∧ task0.res.sp.cells.wf ∧ (armed (entryOf 0 3)).reachable (.hbm 0x60008) = true ∧
    (armed (entryOf 0 3)).ans = none ∧ (armed (entryOf 0 3)).snaps = [] ∧ (entryOf 1 2).dying = false := by decide +kernel
/-- A disarm, before the deadline of the entry and after it. -/
theorem witness_disarm : (let s := armed (entryOf 1 0) (.ctarmDis 0 5)
    s.heldBy (cmdOf (.ctarmDis 0 5)) = false ∧ (s.entry 0 5).sst ≠ 2 ∧ (s.entry 0 5).owed = false ∧ s.pastDeadline (s.entry 0 5) = false ∧
    (let u : State := { s with cyc := 22500 }
     u.pastDeadline (u.entry 0 5) = true ∧ (u.entry 0 5).desc = some (armFor true true) ∧ u.reachable (.hbm 0x60008) = true ∧ u.snaps = [] ∧
     u.ans = none ∧ u.memWf)) ∧ ((armed (entryOf 2 0 fun e => { e with owed := true })).entry 0 5).owed = true := by decide +kernel
/-- R102: a disarm after the deadline leaves the TIMEOUT stamp. -/
theorem test_disarm_late : (match exec (.collectiveDisarm 0) { armed (entryOf 1 0) (.ctarmDis 0 5) with cyc := 22500 } with
      | .next t => (t.mem.cells, (t.entry 0 5).rst)
      | _ => ([], 9)) = ([(0x60008, 1), (0x6000F, 0x8B)], 0) := by decide +kernel
theorem test_ctset_fires : (match exec (.sendFlagSet 0) (armed (entryOf 0 1) (.ctset 0 5)) with
      | .next t => ((t.entry 0 5).sst, (t.entry 0 5).flag, t.cmds.length)
      | _ => (0, true, 1)) = (2, false, 0) := by decide +kernel
theorem witness_send_verifies :
    testsPass (TileData.ofImage 0 false ((armed (entryOf 1 2)).readHome (.hbm 0x60000) (imageSize 0)) false).tests = true := by
  refine image_zeros 0 (by decide) (by decide +kernel) (by decide +kernel) rfl _ fun b hb => ?_
  obtain ⟨k, -, rfl⟩ := List.mem_map.1 hb
  rfl
theorem witness_send : (let s := armed (entryOf 1 2)
    ((s.entry 0 5).desc.bind fun d => d.peers.find? fun q => (s.entry 0 5).sent ≤ q.idx) = some ⟨0, 4, 1, 9⟩ ∧ 4 ≠ s.regs.podid ∧
    s.colRoom 0 ⟨0, 4, 1, 9⟩ = true ∧ s.reachable (.hbm 0x60000) = true ∧ s.noCol ⟨0, 4, 1, 9⟩ = true ∧ s.ans = none ∧ s.wayOpen (.hbm 0x60000) = true ∧
    s.localHome (.hbm 0x60000) = true) ∧
    (∀ p ∈ (armFor true true).peers, p.idx < (entryOf 1 2 fun e => { e with sent := 64 }).sent) := by decide +kernel
/-- Every port is up with version 3, and package 4 is in the pod: the send goes out. -/
def podUp : State :=
  { armed (entryOf 1 2) with pod := [4, 5], ports := (List.range 16).map fun n => (n, { Port.down with up := true, ver := 3 }) }
theorem podUp_port : ∀ n, n < 16 → KMap.get Port.down podUp.ports n = { Port.down with up := true, ver := 3 } := by decide +kernel
theorem carrier_lt (s : State) (h : Nat) : s.carrier h < 16 := by
  unfold State.carrier
  split
  · rename_i n hn
    obtain ⟨k, -, rfl⟩ := List.mem_map.1 (List.mem_of_find?_eq_some hn)
    omega
  · omega
theorem witness_send_goes : podUp.noCol ⟨0, 4, 1, 9⟩ = false ∧ podUp.colRoom 0 ⟨0, 4, 1, 9⟩ = true := by
  have h := podUp_port (podUp.colPort ⟨0, 4, 1, 9⟩) (carrier_lt _ _)
  have no : podUp.noCol ⟨0, 4, 1, 9⟩ = false := by
    simp only [State.noCol, h]
    decide
  exact ⟨no, by simp only [State.colRoom, h, no]; decide⟩
/-- A send to a peer of the same package, whose entry is not armed. -/
def toOwn : ArmDesc := { armFor true true with peers := [⟨0, 0, 1, 9⟩] }
theorem witness_send_own : (let s := armed (entryOf 1 2 fun e => { e with desc := some toOwn })
    ((s.entry 0 5).desc.bind fun d => d.peers.find? fun q => (s.entry 0 5).sent ≤ q.idx) = some ⟨0, 0, 1, 9⟩ ∧ 0 = s.regs.podid ∧
    (s.entry 0 5).half = false ∧ (s.entry 1 9).owed = false ∧ s.tentative (s.entry 1 9).dest 65536 = false ∧ s.localHome (.hbm 0x60000) = true) ∧
    testsPass (TileData.ofImage 0 false ((armed (entryOf 1 2 fun e => { e with desc := some toOwn })).readHome (.hbm 0x60000) (imageSize 0))
      false).tests = true := by
  refine ⟨by decide +kernel, image_zeros 0 (by decide) (by decide +kernel) (by decide +kernel) rfl _ fun b hb => ?_⟩
  obtain ⟨k, -, rfl⟩ := List.mem_map.1 hb
  rfl
/-- The last line of what peer 63 sends to an entry that waits for it alone, with a result and without. -/
def lastFor (result : Option Spot) (op : Nat) (lines : Nat) : State :=
  armed (entryOf 1 0 fun e =>
    { e with desc := some { armFor true true with op := op, anchor := 8, expect := 1, result := result }, lines := [(63, lines)] })
theorem witness_arrivals : ([lastFor none 0 127, lastFor (some ⟨.hbm 0x64000, 0⟩) 2 127, lastFor none 1 126].all fun s =>
      let x := s.entry 0 5
      x.rst == 1 && !s.pastDeadline x && !s.tentative x.dest 65536 && !x.bitmap.getLsbD 63 && (s.task x.task).isSome && x.task == tid &&
      s.reachable (.hbm 0x60008) && s.reachable (.hbm 0x64000) && s.snaps.isEmpty && s.ans.isNone && decide s.memWf &&
      x.desc.any fun d => d.expect ≤ x.count + 1 && d.op ≤ 2 && d.dtile % 16 == 0 && decide (d.sfmt.toNat ≤ 2)) = true ∧
    2 < contribLines 0 ∧ contribLines 0 ≤ 127 + 1 ∧ ¬ contribLines 0 ≤ 126 + 1 ∧ Clear ((lastFor none 0 127).resOf tid) ∧
    ElementAt ((lastFor none 0 127).resOf tid).sp (0 + 16 * 4095) ⟨0, 0, false⟩ :=
  ⟨by decide +kernel, by decide +kernel, by decide +kernel, by decide +kernel, ⟨rfl, rfl, rfl, by decide +kernel⟩, element_zero _⟩
/-- R99, R203: line 2 of a contribution brings 3.25 to element 64. -/
theorem test_line_combines : (match exec (.contributionArrival 0 5 ⟨4, 1, 10, 2, 0x40500000, false⟩) (lastFor none 0 126) with
      | .next t => ((t.resOf tid).sp.cells.map fun c => (c.1 - 1024, c.2.toNat), (t.entry 0 5).rst, (t.entry 0 5).count)
      | _ => ([], 9, 9)) = ([(6, 0x40), (7, 3)], 1, 0) := by decide +kernel
/-- From one peer: its last line, and one after it; `entryOf 0 0` is not armed. -/
theorem witness_contributions : (let c : ContribLine := ⟨4, 1, 10, 0, 0, false⟩
    ((armFor true true).peers.find? fun q => q.pkg = c.pkg && q.sd = c.sd && q.entry = c.entry) = some ⟨63, 4, 1, 10⟩ ∧
    (entryOf 1 0).bitmap.getLsbD 63 = false ∧ (entryOf 1 0 fun e => { e with bitmap := BitVec.twoPow 64 63 }).bitmap.getLsbD 63 = true ∧
    contribLines 0 ≤ KMap.get 0 (entryOf 1 0 fun e => { e with lines := [(63, contribLines 0 - 1)] }).lines 63 + 1 ∧
    (entryOf 1 0).count + 1 < (armFor true true).expect ∧ (armed (entryOf 1 0)).tentative (entryOf 1 0).dest 65536 = false ∧
    (entryOf 0 0).rst ≠ 1) := by decide +kernel
theorem witness_timeout : (let s : State := { armed (entryOf 1 0 fun e => { e with armedAt := 7 }) with cyc := 22507 }
    s.pastDeadline (s.entry 0 5) = true ∧ s.tentative (s.entry 0 5).dest 65536 = false ∧
    (s.entry 0 5).armedAt + 2250 * (armFor true true).deadline ≤ s.cyc ∧ (s.entry 0 5).rst = 1 ∧ s.reachable (.hbm 0x60008) = true) := by decide +kernel

/-! ### Witnesses: handles, snapshots and budgets as they perform -/

/-- Core 1 offers 16 rows to core 0 under number 9. -/
def offered9 : State :=
  { lent with cores := lent.cores ++ [(1, { Core.idle with handles := [(9, ⟨1, 0, 0, 16, 0, 0x100000007, 0, false⟩)] })] }
theorem witness_handle_events : (offered9.heldAll (cmdOf .trig) = false ∧ offered9.heldBy (cmdOf .trig) = false ∧ (cmdOf .trig).part / 4 = 0) ∧
    (∃ x, KMap.find (offered9.core (0 / 8 * 8 + 1)).handles 9 = some x ∧ x.state = 1 ∧ x.resv = false ∧ x.peer = 0 % 8) ∧
    KMap.find (offered9.core (0 / 8 * 8 + 7)).handles 63 = none ∧ offered9.task tid = some task0 ∧
    (∃ x, KMap.find (offered9.core 0).handles 1 = some x ∧ x.state = 3 ∧ x.owner = tid) ∧
    ∃ x, KMap.find (offered9.core 0).handles 0 = some x ∧ x.state = 1 ∧ x.owner = tid :=
  ⟨by decide +kernel, ⟨_, rfl, by decide +kernel⟩, rfl, by decide +kernel, ⟨_, rfl, rfl, rfl⟩, ⟨_, rfl, rfl, rfl⟩⟩
/-- R347: a host that offers only versions above 3 is not taken up; one that offers 2 to 5 is, at version 3. -/
theorem test_host_versions : (let up (low high : Nat) : Nat :=
      (match exec (.packageReset false ⟨0, 0, [], [], [], [], low, high, true⟩) demo with | .next t => t.bhp | _ => 9)
    (up 4 5, up 2 5)) = (0, 3) := by decide +kernel
/-- R36, R279: the home entry becomes lent and the binding core gets the rows. -/
theorem test_bind : (match exec (.handleBind 0) (commanded (cmdOf (.htake 3 1 9)) offered9) with
      | .next t => ((KMap.find (t.core 1).handles 9).map fun e => (e.state, e.peerh), (KMap.find (t.core 0).handles 3).map fun e => (e.state, e.nrows))
      | _ => (none, none)) = (some (2, 3), some (3, 16)) := by decide +kernel
/-- Number 5 reserved for a snapshot of a line that no other covers. -/
def reserved5 : State := { nested with snaps := nested.snaps ++ [(5, Snap.reserved 7)] }
theorem witness_snapshot_events : (reserved5.nest ⟨[(0x61000, 0x61080)], [(0x72000, 0x72080)], 1, none, 0⟩).toOption = some (none, 0) ∧
    reserved5.heldAll (cmdOf .trig) = false ∧ reserved5.pinsHeld (cmdOf .trig) = true ∧ nested.pinsHeld (cmdOf .trig) = true ∧ reserved5.storesIn [(0x61000, 0x61080)] = false ∧ nested.heldBy (cmdOf .trig) = false ∧ nested.memWf ∧
    (∃ x, KMap.find nested.snaps 1 = some x ∧ x.state = 2 ∧ x.asid = 7 ∧ nested.isInnermost 1 = true ∧ (x.shadows.map Shadow.line).Nodup ∧
      ∃ q y, x.parent = some q ∧ KMap.find (KMap.del nested.snaps 1) q = some y ∧ y.shadowed 0xC00 = false) ∧
    ∃ x, KMap.find word8.snaps 0 = none ∧ KMap.find fullArena.snaps 0 = some x ∧ x.parent = none ∧ fullArena.isInnermost 0 = true :=
  ⟨by decide +kernel, by decide +kernel, by decide +kernel, by decide +kernel, by decide +kernel, by decide +kernel, by decide +kernel,
   ⟨_, rfl, rfl, rfl, by decide +kernel, by decide +kernel, _, _, rfl, rfl, by decide +kernel⟩, ⟨_, rfl, rfl, rfl, by decide +kernel⟩⟩
/-- R283: a released `srej` shows its snapshot as closing. -/
theorem test_closing : (match exec (.sstat 6 6 0) (commanded (cmdOf (.srej 1 none 0)) nested) with
      | .next t => t.me.flight.map fun f => match f.wr with | .s _ x => x.toNat / 2 ^ 62 | _ => 9
      | _ => []) = [3] := by decide +kernel
/-- R107: `srej` puts back what the shadowed line held. -/
theorem test_srej : (match exec (.snapshotReject 0) (commanded (cmdOf (.srej 1 none 0)) nested) with
      | .next t => (Mem.read t.mem.cells 0x60000, Mem.read t.mem.cells 0x60008, t.snaps.map Prod.fst)
      | _ => (0, 0, [])) = (0x55, 0, [0]) := by decide +kernel
theorem witness_budget_events : demo.task tid = some task0 ∧ demo.launch task0.lid = some launch0 ∧
    launch0.count + (2 ^ 32 - 2) ≤ 2 ^ 32 - 1 ∧ task0.st = .running 0 ∧ demo.asidOf tid = some (cmdOf .trig).asid ∧ (∀ v ∈ demo.tasks, v.st ≠ .saved) ∧
    demo.task 0x500000000 = none := by decide +kernel

/-! ### Witnesses: reliability -/

/-- The next Chart index after a retired bank of core 383, and an evacuation at its last line but one and its last. -/
theorem witness_retirement : ([36, 70].all fun i =>
      let c := cmdOf (.evac 383 i)
      let s := commanded c
      !s.heldBy c && !s.evacuating 383 && (s.core 383).waiting.isEmpty && (chartClass i == 1 || chartClass i == 2) &&
      (s.chartAt 383 i).state == 0 && (s.chartAt 383 i).logical != 0x7F && (s.spareFor 383 i).isSome) = true := by decide +kernel
def evacuatingAt (cursor : Nat) (fold : Bool) : State := { demo with cores := [(383, { Core.idle with evac := some ⟨36, 69, cursor, fold, 3⟩ })] }
theorem witness_evacuation : ([false, true].all fun f => ((evacuatingAt 1022 f).core 383).evac == some ⟨36, 69, 1022, f, 3⟩ &&
      ((evacuatingAt 1023 f).core 383).evac == some ⟨36, 69, 1023, f, 3⟩ && ((evacuatingAt 0 f).core 383).waiting.isEmpty) = true ∧
    1022 + 1 < classLines (chartClass 36) ∧ classLines (chartClass 36) ≤ 1023 + 1 ∧
    (({ demo with cores := [(2, { Core.idle with compact := some (40, 3) })] } : State).core 2).compact = some (40, 3) := by decide +kernel
/-- A compaction that may go on, and one that a task which exits holds up. -/
theorem witness_compaction : (let s : State := { demo with cores := [(0, { Core.idle with compact := some (36, 0) })] }
    s.core 0 = { Core.idle with compact := some (36, 0) } ∧ (s.shrink 0 1).overfull 0 ((s.shrink 0 1).residents 0) = false) ∧
    (let l : Launch := { launch0 with record := { rec0 with sprows := 1025 } }
     let s : State :=
      { onPart (fun P => { P with exiting := some 0 }) with launches := [l], cores := [(0, { Core.idle with compact := some (36, 0) })] }
     (s.shrink 0 1).overfull 0 ((s.shrink 0 1).residents 0) = true) := by decide +kernel
/-- R26: with one bank folded, line 32r of the view stands in bank 1 + r mod 31, at row 992 + r div 31. -/
theorem test_fold : (let gone : ChartEnt := ⟨2, 0x7F, 0, 0, []⟩
    let s : State := { demo with chart := [(36, gone), (68, gone), (69, gone)] }
    [0, 1, 32 * 31, 32 * 32].map (s.locate 0)) = [some (37, 992), some (37, 0), some (37, 993), some (38, 993)] := by decide +kernel
/-- 64 errors within 2^32 cycles: the newest of them exactly 2^32 after the first. -/
theorem witness_errors : (let e : ChartEnt := ⟨0, 0, 64, 0, (2 ^ 32 + 5) :: List.replicate 63 5⟩
    e.recent[63]? = some 5 ∧ e.recent.headD 0 ≤ 5 + 2 ^ 32) ∧
    (let e : ChartEnt := ⟨0, 0, 64, 0, (2 ^ 32 + 5) :: List.replicate 63 5⟩
     (({ demo with chart := [(3, e)] } : State).chartAt 0 3).recent[63]? = some 5) ∧
    (({ demo with cores := [(2, { Core.idle with quar := true })] } : State).core 2).quar = true ∧
    demo.mem.poison.contains (demo.own (128 * (2 ^ 32 - 1)) / 128) = false ∧ demo.regs.logq.getLsbD 63 = false ∧ demo.absent.getLsbD ((2 ^ 32 - 1) / 2 ^ 29) = false ∧ (demo.part 0).sealed = false := by decide +kernel

/-! ### Witnesses: Meridian -/

/-- A record of version 2 of one task, in the first slot of queue 8. -/
def published : State :=
  { queue 0 true with mem := { Store.zero with cells := [(0x40000, 0), (0x40007, 2), (0x4001A, 1)].filter fun c => c.2 ≠ 0 } }
def record8 : Rec := Rec.ofBytes ((published.mRead 7 0x40000000 64).getD [])
theorem witness_admission : published.qOn 8 = true ∧ published.qBytes 8 = false ∧ (published.queue 8).head = 0 ∧ published.qAsid 8 = 7 ∧
    (let seq := published.qBlock 8 + 0x80 + 8 * (0 % published.qSize 8)
     let slot := published.qRing 8 + 64 * (0 % published.qSize 8)
     let a := published.mAsk 7 [(seq, 8)]
     let bs := (published.mRead 7 0x40000000 64).getD []
     let b := a.mAsk 7 ((slot, 64) :: a.waitReads 7 record8)
     let u := b.setHead 8 1
     let v := (u.curGen 7).2
     published.mShut 7 [(seq, 8)] = false ∧ a.mWord 7 seq = some 0 ∧ a.mRead 7 slot 64 = some bs ∧
     a.mShut 7 ((slot, 64) :: a.waitReads 7 record8) = false ∧ record8.ver = 2 ∧ record8.cls ≠ 2 ∧ record8.count = 1 ∧
     (u.curGen 7).1.bad = false ∧ u.qAsid 8 = 7 ∧ v.recOk 8 record8 bs = true ∧
     v.readWait 7 record8 0 = some ⟨0, 0, 0, true⟩ ∧ v.readWait 7 record8 1 = some ⟨0, 0, 0, true⟩ ∧ v.fitsAnywhere record8 = true) ∧
    published.launches.length < 2 ^ 32 := by decide +kernel
theorem test_admission : (match exec (.admission 8) published with
      | .next t => (t.launches.map fun l => (l.q, l.ticket), Mem.read t.mem.cells 0x41040)
      | _ => ([], 0)) = ([(none, 0), (some 8, 0)], 1) := by decide +kernel
/-- One launch of queue 8, in its class, with nothing dispatched. -/
def launch8 (cls : Nat) : Launch :=
  { (queue 0 true).newLaunch (some 8) 0 { rec0 with cls := cls, prio := 7, snap := false, topup := false } 7 0 with ready := true }
def oneLaunch (cls : Nat) (qctl : W64 := 0) : State :=
  { queue 0 true with
    launches := [launch8 cls], tasks := [], parts := [], cyc := 2251, cores := [(0, { Core.idle with slots := [(7, 0)] })]
    regs := { (queue 0 true).regs with qctl := [(8, (queue 0 true).qctl 8 ||| qctl)], spill := 1#64 <<< 40 } }
theorem witness_dispatch : (oneLaunch 0).launches = [launch8 0] ∧ (launch8 0).q = some 8 ∧ (launch8 0).next < (launch8 0).count ∧
    (launch8 0).serves = none ∧ (launch8 0).record.prio < 8 ∧ (launch8 0).reserved = [] ∧ (oneLaunch 0).blockTake.isSome = true ∧
    (oneLaunch 0).fitsAnywhere (launch8 0).record = true ∧ 0 < (oneLaunch 0).qWeight 8 := by decide +kernel
theorem witness_spot : (oneLaunch 0).nextSpot (launch8 0) none = some (none, 0, []) := by decide +kernel
/-- A saved task of the launch, with s5 and its balances in its context block. -/
def comeback : State :=
  let r : Regs := { Regs.zero with v := List.replicate 32 (List.replicate 1024 0), m := (BitVec.allOnes 1024) :: List.replicate 7 0 }
  { oneLaunch 0 with
    launches := [{ launch8 0 with next := 1 }]
    mem := { Store.zero with cells := [(0x100030, 6), (0x100040, 9), (0x100048, 8), (0x100128, 7)] }
    tasks := [{ task0 with lid := (launch8 0).lid, st := .saved, why := 1, ctx := some ⟨r, false, false, 0, none, false⟩ }] }
theorem witness_comeback : (let l : Launch := { launch8 0 with next := 1 }
    comeback.launches = [l] ∧ comeback.badContext task0.block = [] ∧ l.q = some 8 ∧ l.ready = true ∧ l.next = l.count ∧ l.serves = none ∧ l.record.cls = 0 ∧ l.record.prio < 8 ∧
    l.reserved = [] ∧ 0 < comeback.qWeight 8 ∧ comeback.fitsAnywhere l.record = true ∧ comeback.memWf ∧ comeback.snaps = [] ∧
    (comeback.nextSpot l none).map (fun x => (x.1.map Task.id, x.2.1, x.2.2)) = some (some tid, 0, [])) := by decide +kernel
/-- A partition whose registers have their form, before a save. -/
theorem witness_save : (let s := onPart fun P => { P with regs := { P.regs with
      v := List.replicate 32 (List.replicate 1024 0), m := BitVec.allOnes 1024 :: List.replicate 7 0 } }
    s.memWf ∧ s.snaps = [] ∧ s.taskOn 0 = some task0 ∧ s.me.regs.s.length = 32 ∧ nth 0 s.me.regs.s 0 = 0 ∧ s.me.regs.m.length = 8 ∧
    nth 0 s.me.regs.m 0 = BitVec.allOnes 1024 ∧ s.me.regs.v.length = 32 ∧ (∀ v ∈ s.me.regs.v, v.length = 1024) ∧
    -2 ^ 47 ≤ s.me.bgi ∧ s.me.bgi < 2 ^ 47) := by decide +kernel
theorem witness_wait_met : (let l : Launch := { launch8 0 with ready := false, waits := [⟨1, 0x40020008, 8, false⟩, ⟨0, 0, 0, true⟩] }
    let s : State := { word8 with launches := [l] }
    s.launch l.lid = some l ∧ l.ready = false ∧ l.count ≠ 0 ∧ l.exited = 0 ∧ l.trigd = []) := by decide +kernel
/-- BOUND of one microsecond: the first cycle past it. -/
theorem witness_ageing : (let s := oneLaunch 1 1
    (s.queueLaunch 8).map Launch.lid = some (launch8 1).lid ∧ (launch8 1).record.cls = 1 ∧ s.qBound 8 = 1 ∧
    (launch8 1).readyAt + 2250 * s.qBound 8 < s.cyc) := by decide +kernel
/-- For a κ that is not zero (a constant of the part: assumption 8). -/
theorem witness_window_ends : demo.cyc < (demo.isobar.windows + 1) * 2250000 ∧
    (let s : State := { demo with cyc := 2250000 }
     (s.isobar.windows + 1) * 2250000 ≤ s.cyc) := by decide +kernel
theorem witness_window (h : 0 < Config.kappa 0) : 0 < ({ demo with isobar := ⟨[(0, 1)], 2500000000000, 16, 0⟩ } : State).isobar.energy := by
  show (0 : Int) < (((Config.kappa 0 * 1 + 0 : Nat)) : Int)
  omega

/-! ### Witnesses: the host and the links -/

/-- The attachment is up, with HBM4 that holds 8 at 0x60008. -/
def hosted : State := { word8 with ucie := 0xF, bhp := 3, sideband := 0 }
theorem witness_host_accesses : ([(0x60008, 8), (0x60000, 128), (2 ^ 39 - 8, 8), (0x6007C, 4)].all fun x =>
      hosted.hostUp && decide (0 < x.2 ∧ x.2 ≤ 128 ∧ x.1 % min 8 x.2 = 0 ∧ x.1 % 128 + x.2 ≤ 128 ∧ x.1 + x.2 ≤ 2 ^ 39) &&
      hosted.reachable (.hbm (hosted.own x.1))) = true ∧
    2 ≤ hosted.bhp ∧ hosted.memWf ∧ hosted.snaps = [] ∧ hosted.poisonedAt (.hbm (hosted.own 0x60008)) 8 = false ∧
    IsWordD (8 : BitVec 64) (hosted.readHome (.hbm (hosted.own 0x60008)) 8) ∧ 0x60004 % 8 ≠ 0 ∧ 128 < 0x60008 % 128 + 8 * 16 := by decide +kernel
/-- R348: a masked write changes the bytes its mask names. -/
theorem test_host_write : (match exec (.bhpWr 1 0x60008 1 2 0xFFFF) hosted with
      | .next t => (t.mem.cells, t.cpls.map Cpl.status)
      | _ => ([], [])) = ([(0x60008, 8), (0x60009, 0xFF)], [0]) := by decide +kernel
theorem witness_remote_answers : (let x (l : Loc) : Pend := pend 8 l false 0
    (reading1 (x (.host 0x60078))).homePieces 0 (x (.host 0x60078)) ≠ [] ∧
    (reading1 (x (.hbm (5 * 2 ^ 42 + 0x60078)))).homePieces 0 (x (.hbm (5 * 2 ^ 42 + 0x60078))) ≠ [] ∧
    (reading1 (x (.host 0x60078))).pendReady 0 0 = true ∧ (reading1 (x (.hbm (5 * 2 ^ 42 + 0x60078)))).pendReady 0 0 = true ∧
    (∀ j, j ≤ 8 → (reading1 (x (.hbm 0))).isOwn (5 * 2 ^ 42 + 0x60078 + j) = false) ∧ (x (.host 0)).dst = .s 6 ∧ (x (.host 0)).elem = none ∧
    (reading1 (x (.host 0))).withheldBad 0 0 (.host 0x60078) 8 = false ∧ ((reading1 (x (.host 0))).part 0).sealed = false ∧
    (reading1 (x (.hbm 0))).withheldBad 0 0 (.hbm (5 * 2 ^ 42 + 0x60078)) 8 = false ∧ (reading1 (x (.host 0))).memWf ∧ (reading1 (x (.host 0))).ans = none ∧
    (reading1 (x (.host 0))).poisonedAt (.host 0x60078) 8 = false ∧
    (reading1 (x (.hbm 0))).poisonedAt (.hbm (5 * 2 ^ 42 + 0x60078)) 8 = false) := by decide +kernel
theorem witness_register_space : hosted.hostUp = true ∧ hosted.qOn 4095 = false ∧ (queue 0 true).hostUp = true ∧ (queue 0 true).qOn 8 = true ∧
    (let w : W64 := qctlFields ((7#64 <<< 48) ||| (1#64 <<< 40) ||| (4#64 <<< 32)) ||| BitVec.twoPow 64 63
     let s : State := { queue 0 false with regs := { (queue 0 false).regs with lock := true } }
     qctlInRange w = true ∧ ((s.setQctl 8 w).mWord ((s.setQctl 8 w).qAsid 8) ((s.setQctl 8 w).qBlock 8 + 0x40)) = some 0 ∧ s.qOn 8 = false) ∧
    (let s := onTask fun t => { t with st := .trapped }
     s.hostUp = true ∧ s.task tid = some { task0 with st := .trapped } ∧ s.getMem (task0.block + 0x20) 8 % 4 = 0) ∧
    ({ demo with regs := { demo.regs with htsel := tid } } : State).task tid = some task0 := by decide +kernel
theorem witness_package_events : (let r : BringUp := ⟨0, 0, [], [], [], [], 2, 3, true⟩; r.code = 0 ∧ r.failing = [] ∧ r.failed = 0 ∧ max r.bhpLow 1 ≤ min r.bhp 3) ∧ demo.sideband = 0 ∧ hosted.ucie.getLsbD 3 = true := by decide +kernel

/-- Port 15 up, with its replay buffer; the plane reaches package 5. -/
def linked (f : Port → Port := id) : State :=
  { word8 with ports := [(15, f ⟨true, false, 3, 0, 9, 0, 0, 0, [], 0⟩)], regs := { word8.regs with lock := true } }
theorem witness_requests : linked.anyPort = true ∧ 5 ≠ linked.regs.podid ∧ linked.reachable (.hbm (linked.own (2 ^ 39 - 8))) = true ∧
    linked.memWf ∧ linked.ans = none ∧ linked.snaps = [] ∧ 2 ^ 39 - 8 + 8 ≤ 2 ^ 39 ∧ linked.pinCount (false, linked.own (2 ^ 18 * (2 ^ 21 - 1)) / 2 ^ 18) < 0xFFFF := by
  decide +kernel
theorem witness_requests_answered : linked.rmons = [] ∧ linked.peerq = [] := by decide +kernel
theorem witness_ports : (linked.port 15).up = true ∧ linked.hostUp = true ∧ linked.regs.lock = true ∧ (linked.port 14).up = false ∧
    ((linked fun x => { x with training := true }).port 15).training = true ∧ 9 ≤ ((linked fun x => { x with fails := 9 }).port 15).fails ∧
    9 ≤ ((linked fun x => { x with rfails := 9 }).port 15).rfails ∧
    (∀ k, k < 16 → k ≠ 15 → (linked.port k).up = false) := by decide +kernel
/-- R363: a peer that runs versions 2 to 5 trains at 3, one that runs 4 and 5 alone, or none, does not train. -/
theorem test_link_versions : (let up (low high : Nat) : Bool × Nat :=
      (match exec (.linkTrain 14 ⟨low, high⟩ false [4]) linked with | .next t => ((t.port 14).up, (t.port 14).ver) | _ => (false, 9))
    (up 2 5, up 4 5, up 0 0)) = ((true, 3), (false, 0), (false, 0)) := by decide +kernel
/-- R335: the ninth flit acknowledged empties the buffer; a NAK sends the rest again. -/
theorem test_nak : (match exec (.nak 15 4) linked with | .next t => ((t.port 15).replay, (t.port 15).resend, (t.port 15).fails) | _ => (0, 0, 0)) =
    (5, 5, 1) := by decide +kernel

end Sys2Proof.Tests
end

section
/-! SUPPORT. Every act of the machine answers a next state and keeps the canonical form of the two memories (R5, R69): one lemma
for each operation that makes a state, in the order of the model's text, and from them the step. -/

namespace Sys2Proof.Machine

/-- The canonical form of one memory (R5). -/
def Store.Canon (m : Store) : Prop := m.cells.wf

/-- The canonical form of both memories of a state, as one proposition about the state. -/
structure State.Canon (s : State) : Prop where
  mem : s.mem.Canon
  hostMem : s.hostMem.Canon

/-- It is the form that the obligations name. -/
theorem State.canon_iff_memWf {s : State} : s.Canon ↔ s.memWf := ⟨fun h => ⟨h.mem, h.hostMem⟩, fun h => ⟨h.1, h.2⟩⟩

/-! ### Memories -/

namespace Store.Canon

theorem ite {m k : Store} {c : Prop} [Decidable c] (h : m.Canon) (h' : k.Canon) : (if c then m else k).Canon := by
  split <;> assumption

/-- The bytes of a renumbered memory are written one by one into an empty one. -/
theorem renumber {m : Store} {old new : Nat} : (m.renumber old new).Canon := by
  have key : ∀ (l k : Mem), k.wf → (l.foldl (fun k c => k.writeN (swapPkg old new c.1) [c.2]) k).wf := by
    intro l
    induction l with
    | nil => exact fun _ h => h
    | cons c l ih => exact fun k h => ih _ (Mem.writeN_wf k _ _ h)
  exact key m.cells [] Store.zero_wf

variable {m : Store} (h : m.Canon)
include h

theorem writeN {a bs} : (m.writeN a bs).Canon := Store.writeN_wf m a bs h

theorem undefine {a n} : (m.undefine a n).Canon := h

theorem addPoison {l} : (m.addPoison l).Canon := h

theorem setPoison {l b} : (m.setPoison l b).Canon := .ite h h

theorem foldl {α : Type} {f : Store → α → Store} (hf : ∀ {m}, m.Canon → ∀ x, (f m x).Canon) {l : List α} :
    (l.foldl f m).Canon := by
  induction l generalizing m with
  | nil => exact h
  | cons x l ih => exact ih (hf h x)

theorem putImage {l x} : (m.putImage l x).Canon := h.writeN.foldl fun h _ => h.undefine

theorem others {pkg} : (m.others pkg).Canon := ⟨h.1.filter _, fun c hc => h.2 c (List.mem_filter.1 hc).1⟩

end Store.Canon

/-! ### Control structures -/

namespace State.Canon

variable {s t : State}

theorem ite {c : Prop} [Decidable c] (h : s.Canon) (h' : t.Canon) : (if c then s else t).Canon := by
  split <;> assumption

theorem getD {o : Option State} (h : s.Canon) (ho : ∀ t, o = some t → t.Canon) : (o.getD s).Canon := by
  cases o with
  | none => exact h
  | some t => exact ho t rfl

theorem foldl {α : Type} {f : State → α → State} (h : s.Canon) (hf : ∀ {s}, s.Canon → ∀ x, (f s x).Canon) {l : List α} :
    (l.foldl f s).Canon := by
  induction l generalizing s with
  | nil => exact h
  | cons x l ih => exact ih (hf h x)

/-- A fold that carries more than the state. -/
theorem foldlFst {α β : Type} {f : State × β → α → State × β} {x : State × β} (h : x.1.Canon)
    (hf : ∀ {x}, x.1.Canon → ∀ a, (f x a).1.Canon) {l : List α} : (l.foldl f x).1.Canon := by
  induction l generalizing x with
  | nil => exact h
  | cons a l ih => exact ih (hf h a)

variable (h : s.Canon)
include h

/-- Any change of the fields other than the two memories. The binders are those fields: an update of a record is the constructor applied
to every field, and the lemma has to match it whole. -/
theorem frame {fresh ans agenda focus turn slots cyc msc pins hostPins regs gens parts cores chart launches tasks queues
      levelPtr lastLid poolUsed quiesces released cmds rseq dseq entries stray snaps ports pod ucie bhp hatom cpls
      ints lmsgs rsps wakes rmons outbox peerq routes farFull isobar measure report sideband absent} :
    State.Canon ⟨fresh, ans, agenda, focus, turn, slots, cyc, s.mem, s.hostMem, msc, pins, hostPins, regs, gens, parts, cores,
      chart, launches, tasks, queues, levelPtr, lastLid, poolUsed, quiesces, released, cmds, rseq, dseq, entries,
      stray, snaps, ports, pod, ucie, bhp, hatom, cpls, ints, lmsgs, rsps, wakes, rmons, outbox, peerq, routes,
      farFull, isobar, measure, report, sideband, absent⟩ :=
  ⟨h.mem, h.hostMem⟩

/-! ### Machine/Entries -/

theorem setChart {core i f} : (s.setChart core i f).Canon := h.frame

/-! ### Machine/Ops -/

theorem updPart {p f} : (s.updPart p f).Canon := h.frame

theorem updMe {f} : (s.updMe f).Canon := h.updPart

theorem updCore {c f} : (s.updCore c f).Canon := h.frame

theorem updTask {id f} : (s.updTask id f).Canon := h.frame

theorem updLaunch {lid f} : (s.updLaunch lid f).Canon := h.frame

theorem updRes {p f} : (s.updRes p f).Canon := by
  unfold State.updRes
  split
  · exact h.updTask
  · exact h

theorem draw : s.draw.Canon := h.frame

theorem putS {d x L} : (s.putS d x L).Canon := .ite h h.updMe

theorem putP {d b L} : (s.putP d b L).Canon := h.updMe

theorem putV {d x L} : (s.putV d x L).Canon := h.updMe

theorem putM {d x L} : (s.putM d x L).Canon := h.updMe

theorem landS {d x} : (s.landS d x).Canon := h.putS

theorem raise {bit} : (s.raise bit).Canon := .ite h.frame h.frame

theorem countErr {i due mis ce} : (s.countErr i due mis ce).Canon := h.frame

theorem hitArena {a n} : (s.hitArena a n).Canon := h.frame

theorem blurArena {a n} : (s.blurArena a n).Canon := ⟨h.mem.foldl fun h _ => .ite h.undefine h, h.hostMem⟩

theorem putMem {a bs} : (s.putMem a bs).Canon := by
  have h' : (s.hitArena (s.own a) bs.length).Canon := h.hitArena
  refine .blurArena ?_
  exact ⟨h'.mem.writeN, h'.hostMem⟩

theorem ringWrite {reg ws} : (s.ringWrite reg ws).1.Canon := by
  unfold State.ringWrite
  dsimp only
  split
  · exact h
  · split
    · exact h.putMem
    · exact h.putMem.putMem

theorem logAt {cyc kind outcome island core part idx addr last} :
    (s.logAt cyc kind outcome island core part idx addr last).Canon :=
  .ite h.ringWrite.raise h.ringWrite

theorem log {kind outcome island core part idx addr last} : (s.log kind outcome island core part idx addr last).Canon :=
  h.logAt

theorem curGen {a} : (s.curGen a).2.Canon := by
  unfold State.curGen
  dsimp only
  split
  · exact h
  · exact h.frame

theorem outside {l bs} : (s.outside l bs).Canon := by
  unfold State.outside
  split
  · exact .ite h ⟨h.mem.writeN, h.hostMem⟩
  · exact ⟨h.mem, h.hostMem.writeN⟩

theorem told {l n} : (s.told l n).Canon := by
  unfold State.told
  split
  · exact h.outside
  · exact h

theorem shadow {line} (e : s.shadow line = some t) : t.Canon := by
  unfold State.shadow at e
  split at e
  · cases e
    exact h
  · split at e
    · cases e
      exact h
    · dsimp only at e
      split at e
      · cases e
      · cases e
        exact h.frame

theorem shadows {ls} (e : s.shadows ls = some t) : t.Canon := by
  induction ls generalizing s with
  | nil =>
    cases e
    exact h
  | cons l ls ih =>
    unfold State.shadows at e
    split at e
    · cases e
    · rename_i e'
      exact ih (h.shadow e') e

theorem putFlits {port n} : (s.putFlits port n).Canon := .ite h.frame h

theorem putPeer {m} : (s.putPeer m).Canon := by
  unfold State.putPeer
  dsimp only
  split <;> exact h.putFlits.frame

theorem peerSend {m} : (s.peerSend m).Canon := .ite h.putPeer h.frame

theorem wakePeers {a n} : (s.wakePeers a n).Canon := h.foldl fun h _ => h.peerSend

theorem writeHome {l bs} (e : s.writeHome l bs = some t) : t.Canon := by
  unfold State.writeHome at e
  split at e
  · cases e
  · split at e
    · cases e
      exact ⟨h.mem, h.hostMem.writeN⟩
    · split at e
      · cases e
      · rename_i s' e'
        have h' : s'.Canon := by
          split at e'
          · exact h.shadows e'
          · cases e'
            exact h
        cases e
        refine .blurArena ?_
        exact ⟨h'.hitArena.wakePeers.mem.writeN, h'.hitArena.wakePeers.hostMem⟩

theorem writeBy {l bs} (e : s.writeBy l bs = some t) : t.Canon := h.frame.writeHome e

theorem setSlice {cl ls} : (s.setSlice cl ls).Canon := h.frame

theorem touchLine {w pol line} : (s.touchLine w pol line).Canon := by
  unfold State.touchLine
  dsimp only
  split
  · exact .ite (.ite h.setSlice h) h.setSlice
  · exact .ite h h.setSlice

theorem touch {l n w pol} : (s.touch l n w pol).Canon := by
  unfold State.touch
  split
  · exact .ite (h.foldl fun h _ => h.touchLine) h
  · exact h

theorem writeBack {cl} : (s.writeBack cl).Canon := h.setSlice

theorem dropWay {cl way} : (s.dropWay cl way).Canon := h.setSlice

theorem l1Put {c l x} : (s.l1Put c l x).Canon := h.updCore

theorem readPiece {core l n pol l1ok} : (s.readPiece core l n pol l1ok).2.Canon := by
  unfold State.readPiece
  dsimp only
  split
  · dsimp only
    exact h.touch.updCore
  · split
    · exact h.touch.l1Put
    · split
      · exact h.l1Put.draw
      · exact h.touch.l1Put.draw

theorem readPieces {core l pol l1ok ps} : (s.readPieces core l pol l1ok ps).2.Canon := by
  induction ps generalizing s with
  | nil => exact h
  | cons x ps ih => exact ih h.readPiece

theorem readGlobal {core l n pol l1ok fwd} : (s.readGlobal core l n pol l1ok fwd).2.Canon := by
  unfold State.readGlobal
  exact h.readPieces

theorem returnReserved {p} : (s.returnReserved p).Canon := by
  unfold State.returnReserved
  refine .foldl h fun h _ => ?_
  split
  · split
    · exact h.updCore
    · exact h.updCore
    · exact h.frame
    · exact h.updPart
    · exact .ite h h.updPart
    · exact h
  · exact h

theorem rollback {p} : (s.rollback p).Canon := by
  unfold State.rollback
  exact h.returnReserved.updRes.updPart

theorem markImages {block rs} : (s.markImages block rs).Canon :=
  ⟨h.mem.setPoison.foldl fun h _ => h.foldl fun h _ => h.addPoison, h.hostMem⟩

theorem save {p why} : (s.save p why).Canon := by
  unfold State.save
  dsimp only
  split
  · exact h
  · split
    · exact h.updPart
    · exact h.putMem.markImages.updTask.updPart.frame

theorem writeRecord {block datum u} : (s.writeRecord block datum u).Canon := h.putMem

theorem notice {id block code asid} : (s.notice id block code asid).Canon := .ite h.ringWrite.raise h.ringWrite

theorem reportTrap {id u l cause} : (s.reportTrap id u l cause).Canon :=
  .ite (.ite h.updTask.curGen h.updTask.curGen.frame) h.updTask.notice

theorem blurImages {block rs} : (s.blurImages block rs).Canon := ⟨h.mem.foldl fun h _ => h.undefine, h.hostMem⟩

theorem dropSlots {p} : (s.dropSlots p).Canon := h.frame

theorem trapNow {p tr} : (s.trapNow p tr).Canon := by
  unfold State.trapNow
  dsimp only
  split
  · exact .reportTrap (.ite
      (.draw (.blurImages (.save (.ite h.rollback.writeRecord.updPart h.rollback.writeRecord))))
      (.save (.ite h.rollback.writeRecord.updPart h.rollback.writeRecord)))
  · exact h.rollback.frame

theorem unissue {p b} : (s.unissue p b).Canon := by
  unfold State.unissue
  exact h.updPart.returnReserved.updPart

theorem trap {p tr} : (s.trap p tr).Canon := .ite h.updPart.dropSlots (.trapNow (.ite h.unissue h))

theorem trapHere {cause detail} : (s.trapHere cause detail).Canon := h.trap

theorem trapAddr {reason addr} : (s.trapAddr reason addr).Canon := h.trapHere

theorem trapAlign {lg addr} : (s.trapAlign lg addr).Canon := h.trapHere

theorem trapIllegal {reason slot word} : (s.trapIllegal reason slot word).Canon := h.frame.unissue.updMe.trapHere

theorem restore {p u c} : (s.restore p u c).Canon := by
  unfold State.restore
  dsimp only
  split
  · exact h.putMem.updPart.updTask.frame
  · exact ⟨h.putMem.updPart.updTask.frame.trapNow.mem.foldl fun h _ => h.addPoison,
      h.putMem.updPart.updTask.frame.trapNow.hostMem⟩

/-! ### Machine/Flags -/

theorem sticky {p b} : (s.sticky p b).Canon := h.updPart

/-! ### Machine/Chart -/

theorem keepOld {n} : (s.keepOld n).Canon := h.updMe

/-! ### Machine/Operands -/

theorem opSR {d a b sgn w L op} : (s.opSR d a b sgn w L op).Canon := h.putS

theorem opSI {n d a L op} {i : Imm n} : (s.opSI d a i L op).Canon := h.putS

theorem consumeAt {p pc sp addr} : (s.consumeAt p pc sp addr).Canon := .ite h.trap h.rollback.updPart.frame

theorem consume {p sp addr} : (s.consume p sp addr).Canon := h.consumeAt

theorem journalLines {p ls} : (s.journalLines p ls).Canon := by
  unfold State.journalLines
  exact h.updPart

theorem spoilLines {p swz off n} : (s.spoilLines p swz off n).Canon := h.updRes

theorem spWrite {p swz off bs} : (s.spWrite p swz off bs).Canon := by
  unfold State.spWrite
  exact h.journalLines.updRes

theorem joinViews {p} : (s.joinViews p).Canon := h.updPart

theorem noteIn {p bs} : (s.noteIn p bs).Canon := h.updPart

theorem noteOut {p xs} : (s.noteOut p xs).Canon := h.updPart

theorem noteInAt {p k bs} : (s.noteInAt p k bs).Canon := h.updPart

theorem noteOutAt {p k xs} : (s.noteOutAt p k xs).Canon := h.updPart

theorem withhold {d} : (s.withhold d).Canon := h.updMe

theorem takeEntries {n} : (s.takeEntries n).Canon := h.updMe

theorem storeGlobal {x va bs cls scope rel hint bad} : (s.storeGlobal x va bs cls scope rel hint bad).Canon :=
  h.noteOut.foldl fun h _ => h.withhold

theorem loadGlobal {x va dst size sext cls scope hint acq elem} :
    (s.loadGlobal x va dst size sext cls scope hint acq elem).Canon :=
  h.updMe

theorem landPend {p k x bs} : (s.landPend p k x bs).Canon := h.updPart

theorem acquired {p scope} : (s.acquired p scope).Canon := .ite h.updCore h

theorem emit {l r} : (s.emit l r).Canon := by
  unfold State.emit
  split
  · exact h
  · exact h.putFlits.frame

theorem sent {l r} : (s.sent l r).Canon := by
  unfold State.sent
  split
  · exact .ite h (.ite h.emit h.frame)
  · exact h

theorem flush : s.flush.Canon := by
  unfold State.flush
  dsimp only
  refine .foldl ?_ fun h _ => ?_
  · refine .frame ?_
    refine .foldl h.frame fun h _ => ?_
    exact .ite h.emit h.frame
  · exact h.peerSend

theorem atomAt {p k l va n pol r f} : (s.atomAt p k l va n pol r f).Canon := by
  unfold State.atomAt
  split
  · exact h.consume
  · split
    · exact h.trap
    · dsimp only
      split
      · exact h.sent.told.trap
      · rename_i u e
        have hu : u.Canon := by
          split at e
          · cases e
            exact h.sent.told.touch
          · exact h.sent.told.touch.writeHome e
        exact hu.updCore.noteInAt.updPart

theorem acqOwn {p x} : (s.acqOwn p x).Canon := .ite h h.updPart

theorem performPend {p k} : (s.performPend p k).Canon := by
  unfold State.performPend
  split
  · exact h
  · split
    · exact .ite h.updPart.atomAt.updPart h.updPart.atomAt
    · split
      · exact h.consume
      · dsimp only
        split
        · refine .acquired ?_
          refine .acqOwn ?_
          refine .landPend ?_
          split
          · exact h
          · exact h.sent.told.readGlobal
        · refine .landPend ?_
          split
          · exact h
          · exact h.sent.told.readGlobal

/-! ### Machine/Tasks -/

theorem poolTake {k us} (e : s.poolTake k = some (us, t)) : t.Canon := by
  unfold State.poolTake at e
  split at e
  · cases e
  · cases e
    exact ⟨h.mem.foldl fun h _ => h.undefine, h.hostMem⟩

theorem poolFree {us} : (s.poolFree us).Canon := h.frame

theorem blockTake {b} (e : s.blockTake = some (b, t)) : t.Canon := by
  unfold State.blockTake at e
  dsimp only at e
  split at e
  · cases e
  · cases e
    exact h.frame

theorem writeImages {k} : (s.writeImages k).Canon := by
  rw [State.writeImages]
  split
  · exact h
  · rename_i e
    exact (h.poolTake e).updTask

theorem dropImages {u} : (s.dropImages u).Canon := h.poolFree.updTask

theorem dropHandle {i} : (s.dropHandle i).Canon := h.updCore

theorem freeHandles {id} : (s.freeHandles id).Canon := h.foldl fun h _ => h.dropHandle

theorem freeResources {id} : (s.freeResources id).Canon := h.freeHandles.updTask

theorem overcap {u reason reg} : (s.overcap u reason reg).Canon := by
  unfold State.overcap
  dsimp only
  split
  · exact h.trapNow
  · exact h
  · split
    · exact h.writeRecord.putMem.updTask.reportTrap
    · exact h
  · split
    · exact h.writeRecord.putMem.updTask.reportTrap
    · exact h

theorem leave {p f} (hf : ∀ {s : State}, s.Canon → (f s).Canon) : (s.leave p f).Canon :=
  .ite h.rollback.trapNow (hf h.rollback)

theorem moveOff {p u reg} : (s.moveOff p u reg).Canon := h.leave fun h => h.writeRecord.save

theorem removeVictim {u reg} : (s.removeVictim u reg).Canon := by
  unfold State.removeVictim
  split
  · exact h.overcap.freeResources
  · dsimp only
    refine .updTask ?_
    refine .writeImages ?_
    split
    · exact h.moveOff
    · exact h

theorem removeVictims {c reg n} : (s.removeVictims c reg n).Canon := by
  induction n generalizing s with
  | zero => exact h
  | succ n ih =>
    unfold State.removeVictims
    split
    · exact h
    · exact ih h.removeVictim

theorem quarantineTask {u} : (s.quarantineTask u).Canon := by
  unfold State.quarantineTask
  dsimp only
  split
  · exact h.overcap.freeResources
  · split
    · refine .writeImages ?_
      split
      · exact h.leave fun h => h.save
      · exact h
    · refine .updTask ?_
      refine .writeImages ?_
      split
      · exact h.moveOff
      · exact h

theorem dropLines {c idx} : (s.dropLines c idx).Canon := .ite h.updCore (.ite h.dropWay h)

theorem quarantine {c implicated} : (s.quarantine c implicated).Canon :=
  ((h.foldl fun h _ => .ite h.setChart.dropLines h).updCore.foldl fun h _ => h.quarantineTask).log

/-! ### Machine/Reliab -/

theorem addErr {c i} : (s.addErr c i).Canon := h.setChart

theorem logCause {k outcome} : (s.logCause k outcome).Canon := h.logAt

theorem logLeft {u} : (s.logLeft u).Canon := by
  unfold State.logLeft
  split
  · exact h.logCause
  · exact h

theorem pairFailed {p implicated cause unc} : (s.pairFailed p implicated cause unc).Canon := by
  unfold State.pairFailed
  dsimp only
  split
  · exact h.rollback.updPart.dropSlots
  · split
    · exact .trapNow (.logCause (.ite h.updPart h.updPart.logCause))
    · exact .dropSlots (.quarantine (.logCause (.ite h.rollback.updPart h.rollback.updPart.logCause)))

theorem checkFailed {p src q u fr fc pc} : (s.checkFailed p src q u fr fc pc).Canon := h.updCore.countErr.pairFailed

theorem mismatch {p kind} : (s.mismatch p kind).Canon := h.countErr.pairFailed

theorem residueCheck {p} : (s.residueCheck p).Canon := .ite h.mismatch h

theorem recomputed {p k fr fc} : (s.recomputed p k fr fc).Canon := h.updCore.log

/-! ### Machine/Accum -/

theorem openRemap {p u} : (s.openRemap p u).Canon := .ite h h.updPart

theorem setAcc {p k u a wr whole} : (s.setAcc p k u a wr whole).Canon := h.noteOutAt.updRes

theorem aPerform {p o} : (s.aPerform p o).Canon := by
  unfold State.aPerform
  dsimp only
  split
  · exact h.residueCheck
  · split
    · exact h.consumeAt
    · split
      · exact h.noteInAt.updPart
      · exact h.noteInAt.setAcc
      · exact h.noteInAt.setAcc
      · exact h.noteInAt.setAcc
      · exact h.noteInAt.setAcc
      · exact h.noteInAt.updPart
      · exact h.noteInAt.setAcc
      · exact .ite h.noteInAt.updPart.setAcc h.noteInAt.updPart

theorem aIssue {u k} : (s.aIssue u k).Canon :=
  .ite h.trapAddr (.ite (.updMe (.updMe (.ite h.openRemap h))) (.aPerform (.updMe (.ite h.openRemap h))))

/-! ### Machine/Fetch -/

theorem cacheFetch {core a n pol} : (s.cacheFetch core a n pol).Canon := h.foldl fun h _ => .updCore (.ite h h.touch)

/-! ### Machine/Control -/

theorem transfer {target} : (s.transfer target).Canon := h.updMe

theorem transferReg {target link} (hf : ∀ {s : State}, s.Canon → (link s).Canon) : (s.transferReg target link).Canon :=
  .ite h.trapAlign (hf h).transfer

/-! ### Machine/Memory -/

theorem opLoad {u va lg sext cls scope hint} : (s.opLoad u va lg sext cls scope hint).Canon := by
  unfold State.opLoad
  split
  · exact h.trap
  · exact h.loadGlobal

theorem opStore {u va lg cls scope rel hint} : (s.opStore u va lg cls scope rel hint).Canon := by
  unfold State.opStore
  split
  · exact h.trap
  · exact h.storeGlobal.takeEntries

theorem opLoadV {u va cls scope hint} : (s.opLoadV u va cls scope hint).Canon := by
  unfold State.opLoadV
  split
  · exact h.trap
  · exact h.loadGlobal

theorem opStoreV {u va cls scope hint} : (s.opStoreV u va cls scope hint).Canon := by
  unfold State.opStoreV
  split
  · exact h.trap
  · exact h.storeGlobal.takeEntries

theorem spLoad {off n lg land} (hf : ∀ {s : State}, s.Canon → ∀ x, (land s x).Canon) :
    (s.spLoad off n lg land).Canon := by
  unfold State.spLoad
  split
  · exact h.trap
  · split
    · exact h.consume
    · exact hf h.noteIn _

theorem opLoadSp {u off lg sext} : (s.opLoadSp u off lg sext).Canon := h.spLoad fun h _ => h.putS

theorem opLoadVSp {u off} : (s.opLoadVSp u off).Canon := h.spLoad fun h _ => h.putV

theorem spStore {off n lg bs bad} : (s.spStore off n lg bs bad).Canon := by
  unfold State.spStore
  split
  · exact h.trap
  · exact .ite h.noteOut.spWrite.spoilLines h.noteOut.spWrite

theorem opStoreSp {u off lg} : (s.opStoreSp u off lg).Canon := h.spStore

theorem opStoreVSp {u off} : (s.opStoreVSp u off).Canon := h.spStore

theorem opAcquire {u va lg sext cls scope hint} : (s.opAcquire u va lg sext cls scope hint).Canon := by
  unfold State.opAcquire
  split
  · exact h.trap
  · exact .ite h.loadGlobal.performPend h.loadGlobal

theorem opAtomic {u va lg cls scope f} : (s.opAtomic u va lg cls scope f).Canon := by
  unfold State.opAtomic
  split
  · exact h.trap
  · exact .ite h.atomAt h.updMe

theorem mwaitSee {m} : (s.mwaitSee m).Canon := h.frame.sent.frame.told.touch

theorem mwaitReturn {p m x status} : (s.mwaitReturn p m x status).Canon := h.updPart.updCore.noteIn.acquired

theorem prefetch {c l} : (s.prefetch c l).Canon := .ite h.l1Put (.ite h h.sent.updCore)

/-! ### Machine/Matrix -/

theorem updRing {p q f} : (s.updRing p q f).Canon := h.updRes

theorem trapRing {reason q} : (s.trapRing reason q).Canon := h.trap

theorem updFront {p f} : (s.updFront p f).Canon := h.updPart

theorem dropFront {p} : (s.dropFront p).Canon := h.updPart

theorem compute {p c a b} : (s.compute p c a b).Canon := by
  unfold State.compute
  split
  · exact h.consumeAt
  · exact h.noteInAt.updFront.updCore

theorem startFront {p} : (s.startFront p).Canon := by
  unfold State.startFront
  split
  · exact h
  · split
    · exact h.updFront
    · dsimp only
      split
      · exact h
      · split
        · exact h.trap
        · split
          · exact h.consumeAt
          · split
            · exact h.updFront
            · split
              · exact h
              · exact h.compute

theorem retire {p c d bits} : (s.retire p c d bits).Canon := by
  unfold State.retire
  split
  · exact h.consumeAt
  · dsimp only
    refine .dropFront ?_
    refine .sticky ?_
    split
    · refine .updRing ?_
      split
      · exact h.updPart
      · exact h.setAcc
      · exact h.noteInAt.setAcc.sticky
    · split
      · exact h.updPart
      · exact h.setAcc
      · exact h.noteInAt.setAcc.sticky

theorem checkDrain {p c dr} : (s.checkDrain p c dr).Canon := by
  unfold State.checkDrain
  dsimp only
  split
  · exact h.updCore.retire
  · split
    · exact .retire (.updCore (.log (.ite h.updCore.countErr h.updCore.countErr.addErr)))
    · split
      · split
        · split
          · exact h.updCore.consumeAt
          · exact h.updCore.recomputed.compute
        · exact h
      · exact h.updCore.checkFailed

theorem finishMxw {p c} : (s.finishMxw p c).Canon := by
  unfold State.finishMxw
  split
  · exact h
  · exact .dropFront (.ite h.noteInAt.updRes.updRing h.noteInAt.updRes)

theorem finishMxchk {p c} : (s.finishMxchk p c).Canon := by
  unfold State.finishMxchk
  split
  · exact h.consumeAt
  · exact .ite h.noteInAt.sticky.dropFront (.ite h.noteInAt.sticky.dropFront h.noteInAt.checkFailed)

theorem dropTile {p k} : (s.dropTile p k).Canon := h.updPart

theorem finishTld {p k o} : (s.finishTld p k o).Canon := by
  unfold State.finishTld
  split
  · exact h.consumeAt
  · exact .ite
      (.ite h.noteInAt.recomputed.updPart h.noteInAt.checkFailed)
      (.ite h.noteInAt.mismatch h.noteInAt.updRing.noteOutAt.sticky.dropTile)

theorem finishTst {p k o} : (s.finishTst p k o).Canon := by
  unfold State.finishTst
  split
  · exact h
  · refine .ite h.trap (.ite h.mismatch (.dropTile (.updRing ?_)))
    exact .ite h.noteInAt.noteOutAt.spWrite.spoilLines h.noteInAt.noteOutAt.spWrite

theorem tileStep {p k} : (s.tileStep p k).Canon := by
  unfold State.tileStep
  split
  · exact h
  · exact .ite h (.ite h.finishTst h.finishTld)

theorem landRing {p k} : (s.landRing p k).Canon := by
  unfold State.landRing
  split
  · exact h
  · exact .ite h (.updPart (.noteInAt (.ite h.updRing h)))

theorem accStep {p k} : (s.accStep p k).Canon := by
  unfold State.accStep
  split
  · exact h
  · exact .ite h h.updPart.aPerform

theorem drainStep {c} : (s.drainStep c).Canon := by
  unfold State.drainStep
  split
  · exact h
  · split
    · exact h.checkDrain
    · exact h

theorem takeTurn {c} : (s.takeTurn c).Canon := by
  unfold State.takeTurn
  split
  · exact h
  · exact h.updCore.startFront

theorem innerStep {p i} : (s.innerStep p i).Canon := by
  unfold State.innerStep
  split
  · exact h.takeTurn
  · exact h.drainStep
  · split
    · exact h.finishMxw
    · exact h
  · split
    · exact h.finishMxchk
    · exact h
  · exact h.tileStep
  · exact h.landRing
  · exact h.accStep

theorem settleWhile {p f n} : (s.settleWhile p f n).Canon := by
  induction n generalizing s with
  | zero => exact h
  | succ n ih =>
    unfold State.settleWhile
    split
    · exact h
    · split
      · exact h
      · exact ih h.innerStep.draw

theorem settle {p} : (s.settle p).Canon := h.settleWhile

theorem mxIssue {kind u q pop rep i} : (s.mxIssue kind u q pop rep i).Canon := h.updMe

theorem onRing {q f} (hf : ∀ {s : State}, s.Canon → (f s).Canon) : (s.onRing q f).Canon :=
  .ite h.trapRing (.ite h.trapRing (hf h))

theorem onTile {u f} (hf : ∀ {s : State}, s.Canon → (f s).Canon) : (s.onTile u f).Canon := .ite h.trapAddr (hf h)

/-! ### Machine/Engine -/

theorem illegalM {reason i} : (s.illegalM reason i).Canon := h.trapIllegal

theorem withDesc {off n lg f} (hf : ∀ {s : State}, s.Canon → ∀ x, (f s x).Canon) : (s.withDesc off n lg f).Canon := by
  unfold State.withDesc
  split
  · exact h.trap
  · split
    · exact h.consume
    · exact hf h.noteIn _

theorem command {kind cls scope pages operands} : (s.command kind cls scope pages operands).Canon :=
  h.noteOut.withhold.takeEntries

theorem answer {d x} : (s.answer d x).Canon := h.noteIn.landS

theorem updEntry {sd i f} : (s.updEntry sd i f).Canon := h.frame

theorem trapHandle {reason n} : (s.trapHandle reason n).Canon := h.trapHere

theorem reserveHandle {n} : (s.reserveHandle n).Canon := h.updCore

theorem trapOrder {reason n} : (s.trapOrder reason n).Canon := h.trapHere

theorem closeSnap {a b c kind} : (s.closeSnap a b c kind).Canon := by
  unfold State.closeSnap
  dsimp only
  split
  · exact h.trap
  · exact .ite h.trapOrder h.command

/-! ### Machine/Charges -/

theorem mAsk {asid reads} : (s.mAsk asid reads).Canon := by
  unfold State.mAsk
  refine .foldl h fun h _ => ?_
  split
  · exact h.sent
  · exact h

theorem useIsland {i n} : (s.useIsland i n).Canon := .ite h h.frame

theorem useBytes {b} : (s.useBytes b).Canon := by
  unfold State.useBytes
  split
  · exact h.useIsland
  · exact h.useIsland
  · exact h.foldl fun h _ => h.foldl fun h _ => h.useIsland

theorem debitBundle {ops} : (s.debitBundle ops).Canon :=
  .ite
    (h.foldl fun h _ => h.useIsland.foldl fun h _ => h.useBytes)
    (h.foldl fun h _ => h.useIsland.foldl fun h _ => h.useBytes).updMe

/-! ### Machine/Copies -/

theorem updCmd {k f} : (s.updCmd k f).Canon := h.frame

theorem setPin {pg n} : (s.setPin pg n).Canon := .ite h.frame h.frame

theorem pinPage {up pg} : (s.pinPage up pg).Canon := by
  unfold State.pinPage
  dsimp only
  split
  · exact .ite h.setPin.sent h.setPin
  · exact h.setPin

theorem takePins {pages} (e : s.takePins pages = some t) : t.Canon := by
  unfold State.takePins at e
  split at e
  · cases e
  · cases e
    exact h.foldl fun h _ => h.pinPage

theorem dropPins {pages} : (s.dropPins pages).Canon := h.foldl fun h _ => h.pinPage

theorem pinAnswered {page room} : (s.pinAnswered page room).Canon := .ite h h.frame

theorem pinCmd {k} : (s.pinCmd k).Canon := by
  unfold State.pinCmd
  split
  · exact h
  · split
    · exact h
    · split
      · exact h
      · rename_i e
        exact (h.takePins e).updCmd

theorem endCmd {k unpin} : (s.endCmd k unpin).Canon := by
  unfold State.endCmd
  split
  · exact h
  · exact .frame (.ite h.dropPins h)

theorem updResOf {id f} : (s.updResOf id f).Canon := h.updTask

theorem engGet {vj pl n} : (s.engGet vj pl n).2.Canon := by
  unfold State.engGet
  split
  · exact h.sent.told.touch
  · exact h

theorem spoilHome {l} : (s.spoilHome l).Canon := by
  unfold State.spoilHome
  split
  · exact ⟨h.mem.addPoison, h.hostMem⟩
  · exact ⟨h.mem, h.hostMem.addPoison⟩

theorem engPut {l pol bs bad} : (s.engPut l pol bs bad).1.Canon := by
  unfold State.engPut
  split
  · exact h
  · split
    · exact h
    · rename_i e
      exact .ite (h.sent.touch.writeHome e).spoilHome (h.sent.touch.writeHome e)

theorem engWrite {pl bs bad} : (s.engWrite pl bs bad).1.Canon := by
  unfold State.engWrite
  dsimp only
  split
  · refine foldlFst ?_ fun h _ => ?_
    · exact h
    · exact h.engPut
  · dsimp only
    exact h.updResOf
  · dsimp only
    exact h.updResOf
  · exact h

theorem putStamp {pl status seq} : (s.putStamp pl status seq).Canon := h.engWrite

theorem putStampOpt {l status seq} : (s.putStamp? l status seq).Canon := by
  unfold State.putStamp?
  split
  · exact h.putStamp
  · exact h

theorem getPiece {d vj src o n} : (s.getPiece d vj src o n).2.Canon := by
  unfold State.getPiece
  split
  · exact h
  · exact h.engGet

theorem addInto {op i vj pl v bad} : (s.addInto op i vj pl v bad).2.1.Canon := by
  unfold State.addInto
  dsimp only
  split
  · exact h.engWrite.updResOf
  · exact h.engWrite

theorem accumulate {d vj dst i v spoil} : (s.accumulate d vj dst i v spoil).1.Canon := by
  unfold State.accumulate
  exact h.addInto

theorem putPiece {d vj dst g} : (s.putPiece d vj dst g).1.Canon := by
  unfold State.putPiece
  split
  · dsimp only
    exact h.updResOf
  · split
    · exact h.accumulate
    · exact h.engWrite
  · exact h.engWrite

theorem updRingBoth {id q f} : (s.updRingBoth id q f).Canon := by
  unfold State.updRingBoth
  dsimp only
  split
  · exact h.updResOf.updPart
  · exact h.updResOf

theorem tileFailed {island core part again} : (s.tileFailed island core part again).Canon := h.log

theorem copyFailed {c again} : (s.copyFailed c again).Canon := h.tileFailed

theorem blur {pl n} : (s.blur pl n).Canon := by
  unfold State.blur
  split
  · exact ⟨h.mem.undefine, h.hostMem⟩
  · exact ⟨h.mem, h.hostMem.undefine⟩
  · exact h.updResOf
  · exact h.updResOf
  · exact h

theorem blurTile {id u} : (s.blurTile id u).Canon := h.updResOf

theorem blurMeet {d dst src} : (s.blurMeet d dst src).Canon := by
  unfold State.blurMeet
  split
  · exact .ite h.blurTile h
  · split
    · exact h.blur
    · exact h

theorem blurOverlap {d} : (s.blurOverlap d).Canon := h.foldl fun h _ => h.foldl fun h _ => h.blurMeet

theorem cleanRun {d dst bad} : (s.cleanRun d dst bad).Canon := by
  unfold State.cleanRun
  dsimp only
  split
  · exact ⟨h.mem, h.hostMem⟩
  · exact h.updResOf
  · exact h

theorem closeRun {k r d status} : (s.closeRun k r d status).Canon := by
  unfold State.closeRun
  dsimp only
  split
  · exact .ite h.updCmd.blurOverlap h.updCmd
  · exact h.updCmd

theorem keepRun {k d dst x status} : (s.keepRun k d dst x status).Canon := .ite h.cleanRun.closeRun h.updCmd

theorem convertRun {k c d src dst x whole} : (s.convertRun k c d src dst x whole).Canon := by
  unfold State.convertRun
  dsimp only
  split
  · exact .ite h.copyFailed.keepRun h.copyFailed.closeRun
  · refine .keepRun ?_
    split
    · exact h.updRingBoth
    · exact h

theorem runPiece {k c d src dst x j whole} : (s.runPiece k c d src dst x j whole).Canon := by
  unfold State.runPiece
  split
  · refine .ite h ?_
    dsimp only
    split
    · exact h.getPiece.closeRun
    · exact .ite (.ite h.getPiece.convertRun h.getPiece.updCmd) h.getPiece.keepRun
  · split
    · exact h
    · exact .ite h h.putPiece.keepRun

theorem stepRun {k r j whole} : (s.stepRun k r j whole).Canon := by
  unfold State.stepRun
  split
  · exact h
  · split
    · split
      · exact h
      · exact .ite h h.runPiece.draw
    · exact h

theorem wholeRun {k r whole n} : (s.wholeRun k r whole n).Canon := by
  induction n generalizing s with
  | zero => exact h
  | succ n ih => exact ih h.stepRun

theorem readySlot {c d qi} : (s.readySlot c d qi).Canon := h.updRingBoth

/-! ### Machine/Collect -/

theorem addStray {sd} : (s.addStray sd).Canon := h.frame

theorem idleEntry {sd i} : (s.idleEntry sd i).Canon := by
  unfold State.idleEntry
  exact h.dropPins.updEntry

theorem armFails {d status} : (s.armFails d status).Canon := .ite h.putStampOpt h.putStampOpt

theorem unpinSide {sd i rx} : (s.unpinSide sd i rx).Canon := by
  unfold State.unpinSide
  exact h.dropPins.updEntry

theorem expire {sd i} : (s.expire sd i).Canon := by
  unfold State.expire
  dsimp only
  split
  · exact .ite h.updEntry.putStampOpt.unpinSide h
  · exact h

theorem armEntry {sd i c d} : (s.armEntry sd i c d).Canon := .ite h.dropPins.updEntry.engWrite h.dropPins.updEntry

theorem combine {d dest i v x spoil} : (s.combine d dest i v x spoil).1.Canon := by
  unfold State.combine
  exact h.addInto

theorem complete {sd i d} : (s.complete sd i d).Canon := by
  unfold State.complete
  dsimp only
  refine .unpinSide ?_
  refine .putStampOpt ?_
  split
  · refine .frame ?_
    split
    · exact h.engWrite.foldl fun h _ => .ite h.updCore h
    · exact h
  · split
    · exact h.engWrite.foldl fun h _ => .ite h.updCore h
    · exact h

theorem contribute {sd i c hold} : (s.contribute sd i c hold).Canon := by
  unfold State.contribute
  dsimp only
  split
  · exact h.expire.addStray
  · split
    · exact h.expire.addStray
    · split
      · exact h.expire.addStray
      · split
        · exact h.expire.updEntry
        · have h' (xs : List (FV × Nat)) (d : ArmDesc) (pl : Place) (o : Nat) (bad : Bool) (y : Entry) :
              (xs.foldl (fun (y : State × Entry) v => y.1.combine d pl (o + v.2) v.1 y.2 bad)
                (s.expire sd i, y)).1.Canon :=
            foldlFst h.expire fun h _ => h.combine
          split
          · exact (h' ..).updEntry
          · exact .ite (h' ..).updEntry (.ite (h' ..).updEntry (h' ..).updEntry.complete)

theorem stopSend {sd i status} : (s.stopSend sd i status).Canon := h.updEntry

theorem sendTo {sd i d p bs} : (s.sendTo sd i d p bs).Canon :=
  .ite (h.foldl fun h _ => h.contribute) (.ite h.updEntry h.putFlits.frame)

theorem sendFailed {sd i x} : (s.sendFailed sd i x).Canon := .ite h.tileFailed.updEntry h.tileFailed.stopSend

theorem sentTo {sd i p} : (s.sentTo sd i p).Canon := h.updEntry

theorem finishHalf {sd i p} : (s.finishHalf sd i p).Canon := by
  unfold State.finishHalf
  dsimp only
  refine .sentTo ?_
  split
  · exact h.updEntry.complete.draw
  · exact h

theorem exitEntries {id} : (s.exitEntries id).Canon :=
  h.foldl fun h _ => .ite h (.ite (.ite h.unpinSide.updEntry h.idleEntry) h)

/-! ### Machine/Snaps -/

theorem lateFault {id f} : (s.lateFault id f).Canon := h.updTask

theorem blurRuns {rs} : (s.blurRuns rs).Canon := ⟨h.mem.foldl fun h _ => h.undefine, h.hostMem⟩

theorem claimArena {n d} : (s.claimArena n d).Canon := by
  unfold State.claimArena
  split
  · exact h.frame.blurRuns
  · exact h

theorem openSnap {n c d parent level} : (s.openSnap n c d parent level).Canon := h.frame.blurRuns

theorem dropSnap {n} : (s.dropSnap n).Canon := by
  unfold State.dropSnap
  split
  · exact h.frame.blurRuns
  · exact h

theorem acceptSnap {n x} : (s.acceptSnap n x).Canon := by
  unfold State.acceptSnap
  dsimp only
  split <;> exact h.frame.blurRuns

theorem restoreLine {i} : (s.restoreLine i).Canon :=
  ⟨.ite h.mem.putImage.setPoison.undefine h.mem.putImage.setPoison, h.hostMem⟩

theorem rejectSnap {n x} : (s.rejectSnap n x).Canon := by
  unfold State.rejectSnap
  dsimp only
  split
  · exact (h.frame.foldl fun h _ => h.restoreLine).blurRuns
  · exact (h.frame.foldl fun h _ => h.restoreLine).blurRuns.frame

theorem closeAt {k c n stamp seq f} (hf : ∀ {s : State}, s.Canon → ∀ x y, (f s x y).Canon) :
    (s.closeAt k c n stamp seq f).Canon := by
  unfold State.closeAt
  split
  · exact h
  · dsimp only
    split
    · exact .ite (hf h _ _).dropPins.putStampOpt.endCmd h.putStampOpt.endCmd
    · exact h.putStampOpt.endCmd

theorem addBlock {block off amt} : (s.addBlock block off amt).Canon := h.putMem

theorem addBalance {id m amt} : (s.addBalance id m amt).Canon := by
  unfold State.addBalance
  split
  · exact h
  · split
    · exact h.updPart
    · exact .ite h.addBlock.putMem.updTask h.addBlock

theorem addPool {lid m amt} : (s.addPool lid m amt).Canon := h.updLaunch

theorem topUpOne {u m l} : (s.topUpOne u m l).Canon := .ite h.addBalance.addPool h

theorem topUp {id} : (s.topUp id).Canon := by
  unfold State.topUp
  split
  · exact h
  · split
    · exact h
    · split
      · exact h
      · exact h.topUpOne.topUpOne

theorem topUps {lid} : (s.topUps lid).Canon := h.foldl fun h _ => h.topUp

theorem credit {id m amt} : (s.credit id m amt).Canon := h.addBalance.topUp

theorem deliverLate {p} : (s.deliverLate p).Canon := by
  unfold State.deliverLate
  dsimp only
  split
  · exact h
  · split
    · exact h
    · exact .ite h h.updTask.updPart.trapNow

/-! ### Machine/Commit -/

theorem performReady {p n} : (s.performReady p n).Canon := by
  induction n generalizing s with
  | zero => exact h
  | succ n ih =>
    unfold State.performReady
    split
    · exact h
    · exact ih h.performPend.draw

theorem landAll {p} : (s.landAll p).Canon := by
  unfold State.landAll
  exact h.frame.updPart

theorem quiet {p} : (s.quiet p).Canon := h.performReady.landAll.settle.landAll

theorem judgeRun {p} : (s.judgeRun p).Canon := by
  unfold State.judgeRun
  dsimp only
  split
  · exact h
  · exact .ite h (.ite h.rollback.updPart.dropSlots (.ite h.pairFailed h.updPart))

theorem endPair {p} : (s.endPair p).Canon := by
  unfold State.endPair
  split
  · exact .ite h.updPart.logCause h
  · exact h

theorem serveChecks {p} : (s.serveChecks p).Canon := .ite h.mismatch h.judgeRun

theorem reserve {as} : (s.reserve as).Canon := h.frame

theorem releaseStore {g} : (s.releaseStore g).Canon := h.foldl fun h _ => h.frame

theorem reserveSlots {p d xs} (e : s.reserveSlots p d xs = some t) : t.Canon := by
  induction xs generalizing s with
  | nil =>
    cases e
    exact h
  | cons x xs ih =>
    unfold State.reserveSlots at e
    dsimp only at e
    split at e
    · cases e
    · exact ih h.updRing e

theorem releaseCmd {p c} : (s.releaseCmd p c).Canon := by
  unfold State.releaseCmd
  dsimp only
  split
  · exact h.claimArena.frame.pinCmd
  · split
    · exact h.frame.pinCmd
    · split
      · rename_i e
        exact (h.reserveSlots e).frame.pinCmd
      · exact h.frame.pinCmd
  · exact h.frame.pinCmd

theorem release {p x2} : (s.release p x2).Canon := by
  unfold State.release
  split
  · exact h.releaseStore
  · exact h.releaseCmd

theorem moveBank {p} : (s.moveBank p).Canon := by
  unfold State.moveBank
  split
  · exact h
  · exact h.setChart.updPart

theorem moveBankAt {p} : (s.moveBankAt p).Canon := .ite h h.moveBank

theorem settleViews {p} : (s.settleViews p).Canon := h.updRes

theorem conclude {p} : (s.conclude p).Canon := by
  unfold State.conclude
  dsimp only
  split
  · exact h.trap
  · exact (h.reserve.updPart.updRes.endPair.foldl fun h _ => h.release).settleViews.updPart.moveBankAt

theorem commit {p} : (s.commit p).1.Canon := by
  unfold State.commit
  dsimp only
  split
  · dsimp only
    exact h.quiet
  · split
    · dsimp only
      exact h.quiet.serveChecks
    · dsimp only
      exact h.quiet.serveChecks.conclude

theorem relocateHere {p reg} : (s.relocateHere p reg).Canon := by
  unfold State.relocateHere
  split
  · exact h
  · split
    · exact h.moveOff.writeImages.updTask
    · exact h.overcap.freeResources

theorem saveSpent {p} : (s.saveSpent p).Canon := by
  unfold State.saveSpent
  split
  · exact h.save.topUp
  · exact h

theorem settleStop {p} : (s.settleStop p).Canon := by
  unfold State.settleStop
  dsimp only
  split
  · exact h.updPart.relocateHere
  · exact .ite h.updPart.save (.ite
      (.ite h.updPart.rollback (.ite h.updPart.updPart h.updPart.saveSpent))
      (.ite h.updPart.saveSpent (.ite h.updPart.save h.updPart.updPart)))

theorem datum {p} : (s.datum p).Canon := .ite h.commit (.ite h.commit.settleStop h.commit.updPart)

theorem abandon {p} : (s.abandon p).Canon := (h.leave fun h => h.settleStop).dropSlots

/-! ### Machine/Queues -/

theorem updQueue {q f} : (s.updQueue q f).Canon := h.frame

theorem queueErr {q} : (s.queueErr q).Canon := h.frame.raise

theorem mWrite {asid va bs} (e : s.mWrite asid va bs = some t) : t.Canon := by
  unfold State.mWrite at e
  split at e
  · cases e
  · split at e
    · cases e
    · exact h.sent.writeBy e

theorem blockWrite {q off x} : (s.blockWrite q off x).Canon := by
  unfold State.blockWrite
  split
  · rename_i e
    exact h.mWrite e
  · exact h.queueErr

theorem setHead {q n} : (s.setHead q n).Canon := h.updQueue.blockWrite

theorem watermarks {q} : (s.watermarks q).Canon :=
  .ite (.ite h.updQueue h.updQueue.blockWrite) (.blockWrite (.ite h.updQueue h.updQueue.blockWrite))

theorem completionStamp {r lid asid ticket status} : (s.completionStamp r lid asid ticket status).Canon := by
  unfold State.completionStamp
  split
  · exact h
  · dsimp only
    split
    · rename_i e
      split at e
      · cases e
      · exact h.mWrite e
    · exact .ite h.ringWrite.raise h.ringWrite

theorem publish {q bs} : (s.publish q bs).1.Canon := by
  unfold State.publish
  dsimp only
  split
  · exact h
  · split
    · exact h.queueErr
    · split
      · split
        · exact h.mAsk
        · split
          · exact h.mAsk.queueErr
          · rename_i e
            dsimp only
            refine .updMe ?_
            split at e
            · cases e
            · split at e
              · cases e
              · rename_i e₁
                split at e
                · cases e
                · rename_i e₂
                  exact ((h.mAsk.mWrite e₁).mWrite e₂).mWrite e
      · exact h.mAsk.queueErr

/-! ### Machine/Launches -/

theorem dropGen {asid g} : (s.dropGen asid g).Canon := .ite h h.frame

theorem endLaunch {l status} : (s.endLaunch l status).Canon := by
  unfold State.endLaunch
  dsimp only
  split
  · exact h.frame.completionStamp.dropGen.watermarks
  · exact h.frame.completionStamp.dropGen

theorem settleLaunch {lid} : (s.settleLaunch lid).Canon := by
  unfold State.settleLaunch
  split
  · exact h
  · dsimp only
    split
    · exact .endLaunch (.ite h.updLaunch h)
    · split
      · exact .ite (.watermarks (.ite h.updLaunch h)) (.ite h.updLaunch h)
      · exact .ite h.updLaunch h

theorem countTrig {lid idx} : (s.countTrig lid idx).Canon := h.updLaunch

theorem applyTrigs {n} : (s.applyTrigs n).Canon := by
  induction n generalizing s with
  | zero => exact h
  | succ n ih =>
    unfold State.applyTrigs
    split
    · exact h
    · split
      · exact h
      · refine ih ?_
        split
        · exact h.endCmd.countTrig.settleLaunch
        · exact h.endCmd

theorem trigs : s.trigs.Canon := h.applyTrigs

theorem finishTask {u bgi bgm} : (s.finishTask u bgi bgm).Canon :=
  h.exitEntries.freeHandles.addPool.addPool.poolFree.frame.countTrig.updLaunch.topUps.settleLaunch

theorem finishEnding {u} : (s.finishEnding u).Canon := .ite h h.logLeft.finishTask

theorem finishEndings : s.finishEndings.Canon := h.foldl fun h _ => h.finishEnding

theorem applyAct {id} : (s.applyAct id).Canon := by
  unfold State.applyAct
  split
  · exact h
  · exact .ite h (.ite h.updTask (.ite h.updTask.finishEndings h.notice))

theorem retireExit {p} : (s.retireExit p).Canon := by
  unfold State.retireExit
  split
  · split
    · exact h.frame
    · dsimp only
      split
      · exact .ite
          (.applyAct (.ite h.updPart.finishTask.updCore h.updPart.finishTask))
          (.ite h.updPart.finishTask.updCore h.updPart.finishTask)
      · exact .ite h.updPart.finishTask.updCore h.updPart.finishTask
  · exact h

theorem quiesceWrite : s.quiesceWrite.Canon := by
  unfold State.quiesceWrite
  refine ite (raise (getD h.frame fun _ e => ?_)) h.frame
  exact h.frame.writeBy e

omit h in
theorem afterStep (h : t.Canon) : (s.afterStep t).Canon :=
  .ite h.trigs.quiesceWrite h.trigs

/-! ### Machine/Meridian -/

theorem loadGen {c l} : (s.loadGen c l).Canon := .ite h h.updCore

theorem evict {u} : (s.evict u).Canon := h.writeImages.updTask

theorem packCore {c} : (s.packCore c).Canon := by
  unfold State.packCore
  dsimp only
  refine foldlFst ?_ fun h _ => ?_
  · refine foldlFst ?_ fun h _ => ?_
    · exact h
    · exact h.updTask
  · exact h.updTask

theorem grant {c r} : (s.grant c r).1.Canon := by
  unfold State.grant
  split
  · exact h
  · exact h.packCore

theorem readyPart {p l cinv} : (s.readyPart p l cinv).Canon := .ite h.loadGen.moveBank.updCore h.loadGen.moveBank

theorem begin {l p} : (s.begin l p).Canon := by
  unfold State.begin
  split
  · exact h
  · rename_i e
    exact (h.blockTake e).grant.readyPart.updPart.frame.putMem.updLaunch

theorem resume {l p u} : (s.resume l p u).Canon := by
  unfold State.resume
  split
  · exact h
  · exact .ite
      (.updPart (.restore (.readyPart (.ite h h.grant.dropImages.updTask))))
      (.updPart (.deliverLate (.putMem (.updPart (.restore (.readyPart (.ite h h.grant.dropImages.updTask)))))))

theorem place1 {l x} : (s.place1 l x).Canon := by
  unfold State.place1
  dsimp only
  split
  · exact (h.foldl fun h _ => h.evict).resume
  · exact (h.foldl fun h _ => h.evict).begin

theorem dispatchHeld {n} : (s.dispatchHeld n).Canon := by
  induction n generalizing s with
  | zero => exact h
  | succ n ih =>
    unfold State.dispatchHeld
    split
    · exact h
    · exact ih h.place1

theorem dispatchMoved {lv n} : (s.dispatchMoved lv n).Canon := by
  induction n generalizing s with
  | zero => exact h
  | succ n ih =>
    unfold State.dispatchMoved
    split
    · exact h
    · exact ih (h.foldl fun h _ => h.evict).resume

theorem dispatchService {lv n} : (s.dispatchService lv n).Canon := by
  induction n generalizing s with
  | zero => exact h
  | succ n ih =>
    unfold State.dispatchService
    split
    · exact h
    · exact ih h.place1

theorem drainQueue {q n} : (s.drainQueue q n).Canon := by
  induction n generalizing s with
  | zero => exact h
  | succ n ih =>
    unfold State.drainQueue
    split
    · exact h
    · exact ih h.place1.updQueue

theorem visit {q} : (s.visit q).Canon := .ite h.updQueue.drainQueue.updQueue h.updQueue.drainQueue

theorem dispatchFrom {lv} : (s.dispatchFrom lv).Canon := by
  induction lv generalizing s with
  | zero => exact h
  | succ lv ih =>
    unfold State.dispatchFrom
    split
    · exact h.dispatchMoved.dispatchService
    · split
      · exact ih h
      · exact (h.foldl fun h _ => h.visit).frame

theorem giveUp {u} : (s.giveUp u).Canon := by
  unfold State.giveUp
  dsimp only
  split
  · exact h.logLeft.exitEntries.freeHandles.poolFree.updPart.dropSlots
  · exact h.logLeft.exitEntries.freeHandles.poolFree

theorem overcapLaunch {l} : (s.overcapLaunch l).Canon := .ite h (h.foldl fun h _ => h.giveUp).frame.endLaunch

theorem preemptPart {p} : (s.preemptPart p).Canon := h.updPart

theorem preemptFor {lv l resident} (e : s.preemptFor lv l resident = some t) : t.Canon := by
  unfold State.preemptFor at e
  dsimp only at e
  split at e
  · cases e
  · obtain ⟨v, -, rfl⟩ := Option.map_eq_some_iff.1 e
    exact h.preemptPart

theorem preemptFrom {lv} : (s.preemptFrom lv).Canon := by
  induction lv generalizing s with
  | zero => exact h
  | succ lv ih =>
    unfold State.preemptFrom
    split
    · rename_i e
      obtain ⟨x, -, e⟩ := List.exists_of_findSome?_eq_some e
      split at e
      · cases e
      · exact h.preemptFor e
    · exact ih h

theorem hold {l ps} (e : s.hold l = some (t, ps)) : t.Canon := by
  unfold State.hold at e
  dsimp only at e
  split at e
  · cases e
  · cases e
    exact (h.foldl fun h _ => h.evict).foldl fun h _ => .ite h.preemptPart h

theorem rejectRec {l status} : (s.rejectRec l status).Canon := h.frame.completionStamp.dropGen

theorem admitRec {q ticket bs attach} (e : s.admitRec q ticket bs attach = some t) : t.Canon := by
  unfold State.admitRec at e
  dsimp only at e
  split at e
  · cases e
    exact h
  · split at e
    · cases e
      exact h.curGen.rejectRec
    · split at e
      · cases e
        exact h.curGen.rejectRec
      · split at e
        · split at e
          · cases e
            exact h.curGen.rejectRec
          · split at e
            · obtain ⟨x, hx, rfl⟩ := Option.map_eq_some_iff.1 e
              exact (h.curGen.hold hx).frame.settleLaunch
            · cases e
              exact h.curGen.frame.settleLaunch
        · cases e
          exact h.curGen.rejectRec

theorem consume1 {q next bs attach} : (s.consume1 q next bs attach).Canon := by
  unfold State.consume1
  dsimp only
  split
  · rename_i e
    exact (h.setHead.admitRec e).watermarks
  · exact h

theorem asked {q reads rec_ f} (hf : ∀ {s : State}, s.Canon → (f s).Canon) : (s.asked q reads rec_ f).Canon :=
  .ite h (hf h.mAsk)

theorem takeSlot {q} : (s.takeSlot q).Canon := by
  unfold State.takeSlot
  dsimp only
  split
  · exact h.queueErr
  · split
    · exact h
    · split
      · exact h.queueErr
      · exact h.asked fun h => h.consume1

theorem takeEntry {q} : (s.takeEntry q).Canon := by
  unfold State.takeEntry
  dsimp only
  split
  · exact h.queueErr
  · split
    · exact h
    · split
      · exact h.queueErr
      · split
        · exact .ite h.queueErr (.ite h h.setHead.watermarks)
        · split
          · exact h.queueErr
          · split
            · exact h
            · split
              · exact h.queueErr
              · exact h.asked fun h => h.consume1

theorem waitAsk {l w} : (s.waitAsk l w).Canon := by
  unfold State.waitAsk
  split
  · exact .ite h.sent h
  · exact h

/-! ### Machine/Issue -/

theorem arm {p len u} : (s.arm p len u).Canon := h.updPart

theorem start {p skip ops} : (s.start p skip ops).Canon := h.updPart.frame.debitBundle.updPart.frame

theorem unstall {p} : (s.unstall p).Canon := h.performReady.settle

theorem decodeTrap {p pc x3} : (s.decodeTrap p pc x3).Canon := by
  unfold State.decodeTrap
  split <;> exact h.trap

theorem judged {p f k} (hf : ∀ x, (k x).Canon) : (s.judged p f k).Canon := by
  unfold State.judged
  split
  · exact h.mismatch
  · split
    · exact h.decodeTrap
    · exact hf _

theorem issueBundle {p f b} : (s.issueBundle p f b).Canon := by
  unfold State.issueBundle
  dsimp only
  refine .ite h.datum (.ite
    (.ite h.abandon (.ite h.rollback.dropSlots h.arm.cacheFetch.start))
    (.ite h.unstall (.ite h.unstall.frame (.ite h.unstall.datum ?_))))
  exact h.unstall.judged fun _ =>
    .ite h.unstall.abandon (.ite h.unstall.rollback.dropSlots h.unstall.arm.cacheFetch.start)

theorem nextBundle {p} : (s.nextBundle p).Canon := by
  unfold State.nextBundle
  dsimp only
  split
  · exact h.trap
  · split
    · exact h.trap
    · split
      · exact h.consumeAt
      · exact .ite h.datum (h.judged fun _ => h.issueBundle)

theorem rearmed {p m} : (s.rearmed p m).Canon := by
  unfold State.rearmed
  split
  · exact h.consumeAt
  · exact h.mwaitSee.mwaitReturn

theorem resumeHeld {p o} : (s.resumeHeld p o).Canon := .ite h.settle (.ite h.settle.frame h.settle.updPart.frame)

theorem closeSealed {p} : (s.closeSealed p).Canon := .ite h.datum h

theorem issueOn {p} : (s.issueOn p).Canon := by
  unfold State.issueOn
  dsimp only
  split
  · exact h
  · split
    · exact h.trapNow
    · split
      · exact h.mismatch
      · split
        · exact h.deliverLate
        · split
          · exact h.retireExit
          · split
            · exact h.abandon
            · split
              · exact .ite h.rearmed (.ite h.updPart.datum h.frame)
              · split
                · exact h.resumeHeld
                · exact .ite h.datum h.nextBundle

theorem beforeOp {sl i} : (s.beforeOp sl i).Canon :=
  .ite h (.ite h.settle (.ite h.settle.updMe (.ite h.settle.serveChecks h.settle.serveChecks.updMe)))

theorem wake {p m x} : (s.wake p m x).Canon := .ite h.mwaitReturn h

theorem monitorRead {p m} : (s.monitorRead p m).Canon := by
  unfold State.monitorRead
  split
  · exact h.consumeAt
  · exact h.mwaitSee.wake

theorem answering {a f} (hf : ∀ {s : State}, s.Canon → (f s).Canon) : (s.answering a f).Canon := (hf h.frame).frame

theorem monitorAnswer {p host a} : (s.monitorAnswer p host a).Canon := by
  unfold State.monitorAnswer
  dsimp only
  split
  · exact h
  · exact .ite h (h.answering fun h => .ite h.rearmed h.monitorRead)

theorem farWord {p host x} : (s.farWord p host x).Canon := h.monitorAnswer

theorem performStore {g} : (s.performStore g).Canon := by
  unfold State.performStore
  dsimp only
  refine .trigs ?_
  split
  · refine .foldl ?_ fun h _ => ?_
    · split
      · exact h.frame.lateFault
      · split
        · exact h.frame.sent.lateFault
        · rename_i e
          exact .foldl (.ite (h.frame.sent.touch.writeHome e).spoilHome (h.frame.sent.touch.writeHome e))
            fun h _ => h.updCore
    · exact h.updCore
  · split
    · exact h.frame.lateFault
    · split
      · exact h.frame.sent.lateFault
      · rename_i e
        exact .foldl (.ite (h.frame.sent.touch.writeHome e).spoilHome (h.frame.sent.touch.writeHome e))
          fun h _ => h.updCore

/-! ### Machine/Retire -/

theorem shrink {c reg} : (s.shrink c reg).Canon := h.removeVictims

theorem beginEvac {c idx spare logical fold} : (s.beginEvac c idx spare logical fold).Canon := h.updCore

theorem retireLast {c idx} : (s.retireLast c idx).Canon :=
  .ite h.setChart.dropLines (.ite h.setChart.shrink.updCore h.setChart.shrink)

theorem retireRes {c idx} : (s.retireRes c idx).Canon := by
  unfold State.retireRes
  dsimp only
  split
  · exact h
  · split
    · exact .ite h.setChart.beginEvac h.retireLast
    · split
      · exact h.setChart
      · split
        · exact h.retireLast
        · exact .ite h.setChart.setChart.updPart (.ite h.setChart.setChart.beginEvac h.setChart.setChart)

theorem retireOrWait {c idx} : (s.retireOrWait c idx).Canon := .ite h.retireRes (.ite h.updCore h.retireRes)

theorem nextRetire {c n} : (s.nextRetire c n).Canon := by
  induction n generalizing s with
  | zero => exact h
  | succ n ih =>
    unfold State.nextRetire
    split
    · exact h
    · split
      · exact h
      · exact .ite h (ih h.updCore.retireRes)

theorem relabel {c} : (s.relabel c).Canon := by
  unfold State.relabel
  split
  · exact .ite h.setChart h
  · exact h

theorem copyLine {c fold} : (s.copyLine c fold).Canon := by
  unfold State.copyLine
  split
  · exact h
  · exact .ite h (.ite (.ite h.updCore h.updCore.setChart) (.ite h.updCore.setChart (.ite h.updCore.relabel h.updCore)))

theorem passEntries {c failing} : (s.passEntries c failing).Canon := h.foldl fun h _ => .ite h.setChart h

theorem restoreKept {c} : (s.restoreKept c).Canon := h.foldl fun h _ => h.dropImages

theorem poisonLine {l} : (s.poisonLine l).Canon := by
  refine .ite h (.draw (.log (.countErr ?_)))
  exact ⟨h.mem.addPoison, h.hostMem⟩

theorem poisonCached {a} : (s.poisonCached a).Canon := by
  unfold State.poisonCached
  dsimp only
  split
  · exact h
  · refine .draw (.log (.countErr ?_))
    exact ⟨h.mem.addPoison, h.hostMem⟩

theorem poisonSram {core k part idx f} (hf : ∀ {s : State}, s.Canon → (f s).Canon) :
    (s.poisonSram core k part idx f).Canon :=
  .ite h (hf h).countErr.log.draw

theorem poisonPart {p idx f} : (s.poisonPart p idx f).Canon := .ite (h.poisonSram fun h => h.updPart) h

theorem correctSram {core k part idx} : (s.correctSram core k part idx).Canon := .ite h h.countErr.log.draw

theorem strikePart {p f} : (s.strikePart p f).Canon := .ite h.updPart h

/-! ### Machine/Host -/

theorem reply {rq status bs} : (s.reply rq status bs).Canon := h.frame

theorem bhp1 {rq addr n bad f} (hf : ∀ x, (f x).Canon) : (s.bhp1 rq addr n bad f).Canon :=
  .ite h (.ite h.reply (.ite h.reply (.ite h.reply (hf _))))

theorem bhpRead {rq l n} : (s.bhpRead rq l n).Canon := h.reply.draw

theorem writeRuns {l rs} (e : s.writeRuns l rs = some t) : t.Canon := by
  induction rs generalizing s with
  | nil =>
    cases e
    exact h
  | cons r rs ih =>
    unfold State.writeRuns at e
    split at e
    · cases e
    · rename_i e'
      exact ih (h.writeBy e') e

theorem bhpWrite {rq l runs} : (s.bhpWrite rq l runs).Canon := by
  unfold State.bhpWrite
  split
  · exact h.reply
  · rename_i e
    exact (h.writeRuns e).reply

theorem updRegs {f} : (s.updRegs f).Canon := h.frame

theorem setQctl {q v} : (s.setQctl q v).Canon := h.updRegs

theorem loadHead {q} : (s.loadHead q).Canon := by
  unfold State.loadHead
  split
  · exact h.queueErr
  · dsimp only
    split
    · exact h.mAsk.queueErr
    · exact h.mAsk.updQueue.updQueue

theorem writeQctl {q v} : (s.writeQctl q v).Canon :=
  .ite (.ite h h.setQctl) (.ite h.setQctl (.ite h.setQctl.queueErr h.setQctl.loadHead))

theorem writeQbase {q f} : (s.writeQbase q f).Canon := .ite h h.updRegs

theorem writeQsup {i v} : (s.writeQsup i v).Canon := h.updRegs

theorem writeWbase {a v} : (s.writeWbase a v).Canon := .ite h.updRegs h.updRegs.frame

theorem writePodid {v} : (s.writePodid v).Canon := .ite h ⟨.renumber, h.hostMem⟩

theorem writeFeat {i v} : (s.writeFeat i v).Canon := .ite h h.updRegs

theorem writeFeatctl {v} : (s.writeFeatctl v).Canon := .ite h.updRegs h

theorem writeQuiesce {v} : (s.writeQuiesce v).Canon := h.updRegs.frame

theorem writeCause {v} : (s.writeCause v).Canon := h.updRegs

theorem writeTopup {v} : (s.writeTopup v).Canon := h.credit

theorem regWrite {off v} : (s.regWrite off v).Canon := by
  unfold State.regWrite
  split
  · exact h
  · split
    · exact h.writeFeat
    · split
      · exact h.writeQsup
      · split
        · exact h.writeWbase
        · split
          · exact h.updRegs
          · split
            · exact h.updRegs
            · split
              · exact h.writeQctl
              · split
                · exact h.writeQbase
                · split
                  · exact h.writeQbase
                  · split
                    · exact h.writeFeatctl
                    · exact h.updRegs
                    · exact h.writeQuiesce
                    · exact h.updRegs
                    · exact h.updRegs
                    · exact h.updRegs
                    · exact h.writeCause
                    · exact h.updRegs
                    · exact h.updRegs
                    · exact h.writeTopup
                    · exact h.applyAct
                    · exact h.writePodid
                    · exact h.updRegs
                    · exact h

theorem regAccess {rq off bs} (h' : t.Canon) : (s.regAccess rq off bs t).Canon := .ite h (.ite h.reply h'.reply)

theorem regWritten {w} (h' : t.Canon) : (s.regWritten w t).Canon := h.regAccess h'

/-! ### Machine/Link -/

theorem updPort {n f} : (s.updPort n f).Canon := h.frame

theorem respond {src status bs} : (s.respond src status bs).Canon := h.peerSend

theorem reqRead {src addr n} : (s.reqRead src addr n).Canon := h.respond.draw

theorem reqAtom {src addr size f} : (s.reqAtom src addr size f).Canon := by
  -- opaque to the kernel, which would evaluate the write where the match above it reduces
  obtain ⟨w, hw⟩ : ∃ w, s.writeBy (.hbm (s.own addr)) = w := ⟨_, rfl⟩
  rw [State.reqAtom, hw]
  refine .ite h.reqRead ?_
  dsimp only
  split
  · exact h.respond.draw
  · split
    · exact h.respond
    · next e => exact (h.writeBy (hw ▸ e)).respond.draw

theorem serveReq {src r} : (s.serveReq src r).Canon := by
  unfold State.serveReq
  dsimp only
  split
  · exact .ite h.respond h.reqRead
  · split
    · exact h.respond
    · split
      · exact h.respond
      · rename_i e
        exact .respond (.ite (h.writeBy e).spoilHome (h.writeBy e))
  · exact .ite h (.ite h.respond h.reqAtom)
  · exact .ite h (.ite h.respond h.reqAtom)
  · exact .ite h h.setPin.respond
  · exact .ite h.respond h.frame.reqRead

theorem holdReq {port lane src r} : (s.holdReq port lane src r).Canon :=
  .ite h (.ite h.updPort.updPort.frame h.updPort)

theorem takeReq {port lane} : (s.takeReq port lane).Canon := .ite h.updPort.updPort.frame h.updPort

theorem replayed {port} : (s.replayed port).Canon := h.countErr.log

theorem leavePort {port} : (s.leavePort port).Canon := h.frame.flush

/-! ### Machine/Bringup -/

theorem loadChart : s.loadChart.Canon := h.frame

theorem coldRetire {c idx} : (s.coldRetire c idx).Canon := by
  unfold State.coldRetire
  dsimp only
  split
  · exact h
  · split
    · exact h.setChart
    · split
      · exact h.setChart
      · split
        · exact h.setChart.setChart
        · split
          · exact h.setChart.relabel
          · exact h.setChart

theorem coldReturn {c idx} : (s.coldReturn c idx).Canon := by
  unfold State.coldReturn
  exact h.setChart

theorem testEntry {mode failing key} : (s.testEntry mode failing key).Canon :=
  .ite (.ite h.setChart h) <| .ite (.setChart (.ite h.setChart h)) <|
    .ite (.coldReturn (.ite h.setChart h)) (.ite h.setChart h)

theorem testChart {mode failing} : (s.testChart mode failing).Canon :=
  (h.foldl fun h _ => h.testEntry).foldl fun h _ => .ite h.coldRetire h

theorem testCores {mode r} : (s.testCores mode r).Canon := .ite h h.frame

theorem inReset {code} : (s.inReset code).Canon := ⟨.renumber, h.hostMem⟩

theorem scrub : s.scrub.Canon := ⟨h.mem.others, h.hostMem⟩

theorem bringUp {mode r} : (s.bringUp mode r).Canon := h.loadChart.frame.testChart.testCores.scrub.frame

/-! ### Machine/Scalar -/

theorem opCount {d a w f} : (s.opCount d a w f).Canon := h.putS

theorem putF {d v L} : (s.putF d v L).Canon := h.putS

theorem sysWrite {n x} : (s.sysWrite n x).Canon := by
  unfold State.sysWrite
  dsimp only
  split
  · exact h.keepOld.updMe
  · exact h.keepOld.updMe
  · exact h.keepOld.updMe
  · exact h.keepOld.updMe
  · exact h.keepOld

/-! ### Machine/Vector -/

theorem putMasked {d m x L} : (s.putMasked d m x L).Canon := .ite h.putV h.putV

theorem vecF2 {d a b m u op} : (s.vecF2 d a b m u op).Canon := h.putMasked

theorem vecF1 {d a m u op L} : (s.vecF1 d a m u op L).Canon := h.putMasked

theorem vecCmp {d a b w c} : (s.vecCmp d a b w c).Canon := h.putM

theorem vecI2 {d a b m w op} : (s.vecI2 d a b m w op).Canon := h.putMasked

theorem vecI1 {d a m w op} : (s.vecI1 d a m w op).Canon := h.putMasked

theorem vecCvt {d a fs fd r sat} : (s.vecCvt d a fs fd r sat).Canon := h.putV

theorem vecMove {d a L f} : (s.vecMove d a L f).Canon := h.putV

/-! ### Machine/Next -/

theorem nextAct : s.nextAct.2.Canon := by
  unfold State.nextAct
  split
  · exact h.frame
  · split
    · exact h
    · exact h.frame

end State.Canon

/-! ### Acts -/

/-- An act answers a next state from every state, and keeps the canonical form. -/
def Act.Sound (a : Act) : Prop := ∀ s, ∃ t, a s = .next t ∧ (s.Canon → t.Canon)

namespace Act.Sound

theorem next {f : State → State} (hf : ∀ {s}, s.Canon → (f s).Canon) : Act.Sound fun s => .next (f s) :=
  fun s => ⟨f s, rfl, hf⟩

theorem guarded {g : BitVec 5} {f : State → State} (hf : ∀ {s}, s.Canon → (f s).Canon) :
    Act.Sound fun s => guarded g s f :=
  .next fun h => .ite (hf h) h

theorem execLoopx {o g} : Act.Sound (execLoopx o g) := .guarded fun h => by
  split
  · exact h.transfer
  · exact h.updMe

theorem execLdx {t a b c g} : Act.Sound (execLdx t a b c g) := .guarded fun h => by
  split
  · exact h.trap
  · exact h.foldl fun h _ => h.loadGlobal

theorem execStx {t a b c g} : Act.Sound (execStx t a b c g) := .guarded fun h => by
  dsimp only
  split
  · exact h.trap
  · exact (h.foldl fun h _ => h.storeGlobal).takeEntries

theorem execLdxSp {t a b c g} : Act.Sound (execLdxSp t a b c g) := .guarded fun h => by
  split
  · exact h.trap
  · split
    · exact h.consume
    · exact h.noteIn.putV

theorem execStxSp {t a b c g} : Act.Sound (execStxSp t a b c g) := .guarded fun h => by
  dsimp only
  split
  · exact h.trap
  · exact h.foldl fun h _ => .ite h.noteOut.spWrite.spoilLines h.noteOut.spWrite

theorem execMwait {t a b sc g} : Act.Sound (execMwait t a b sc g) := .guarded fun h => by
  dsimp only
  split
  · exact h.trap
  · split
    · exact h.sent.updMe
    · split
      · exact h.consume
      · exact .ite h.mwaitSee.mwaitReturn h.mwaitSee.updMe

theorem execPrf {t a n g} : Act.Sound (execPrf t a n g) := .guarded fun h => by
  dsimp only
  refine .foldl h fun h _ => ?_
  split
  · exact h
  · exact .ite h (.ite h.touch h.touch.prefetch)

theorem execCinvL {a g} : Act.Sound (execCinvL a g) := .guarded fun h => by
  split
  · exact h
  · exact h.updCore

theorem execTld {q a x f b d g} : Act.Sound (execTld q a x f b d g) := .guarded fun h => by
  dsimp only
  split
  · exact h.trapRing
  · split
    · exact h.trap
    · exact .ite h.trapRing (.ite h.trapRing (.ite h.trapRing h.updMe))

theorem execTst {q a x f p g} : Act.Sound (execTst q a x f p g) := .guarded fun h => by
  split
  · exact h.trapRing
  · split
    · exact h.trap
    · exact h.onRing fun h => h.updMe

theorem execMxwLoadComplete {p} : Act.Sound (execMxwLoadComplete p) := .next fun h => by
  split
  · exact .ite h.finishMxw h
  · exact h

theorem execMxchkComplete {p} : Act.Sound (execMxchkComplete p) := .next fun h => by
  split
  · exact .ite h.finishMxchk h
  · exact h

theorem execTldComplete {p} : Act.Sound (execTldComplete p) := .next fun h => by
  split
  · exact h.tileStep
  · exact h

theorem execTstComplete {p} : Act.Sound (execTstComplete p) := .next fun h => by
  split
  · exact h.tileStep
  · exact h

theorem execCopy {a b c sc g} : Act.Sound (execCopy a b c sc g) := .guarded fun h => by
  dsimp only
  refine .withDesc h fun h _ => ?_
  split
  · exact h.illegalM
  · split
    · exact h.illegalM
    · split
      · exact h.illegalM
      · split
        · exact h.trap
        · exact h
        · exact h.command

theorem execStamp {a b c sc x g} : Act.Sound (execStamp a b c sc x g) := .guarded fun h => by
  split
  · exact h.trap
  · exact h.command

theorem execCtarm {a b c sc g} : Act.Sound (execCtarm a b c sc g) := .guarded fun h => by
  dsimp only
  split
  · exact h.illegalM
  · refine .withDesc h fun h _ => ?_
    split
    · exact h.illegalM
    · split
      · exact h.illegalM
      · split
        · exact h.illegalM
        · split
          · exact h.trap
          · exact h.command

theorem execCtarmDis {b c sc g} : Act.Sound (execCtarmDis b c sc g) := .guarded fun h => by
  split
  · exact h.illegalM
  · exact h.command

theorem execCtset {b c sc g} : Act.Sound (execCtset b c sc g) := .guarded fun h => by
  split
  · exact h.illegalM
  · exact h.command

theorem execCtstat {a b m g} : Act.Sound (execCtstat a b m g) := .guarded fun h => by
  split
  · exact h.illegalM
  · exact h.answer

theorem execHgive {a b c sc g} : Act.Sound (execHgive a b c sc g) := .guarded fun h => by
  dsimp only
  split
  · exact h.illegalM
  · split
    · exact h.trapAddr
    · split
      · exact h.trapHandle
      · split
        · exact h.trapHandle
        · split
          · exact h.trapHandle
          · exact h.reserveHandle.command.landS

theorem execHgiveRet {b c sc g} : Act.Sound (execHgiveRet b c sc g) := .guarded fun h => by
  dsimp only
  split
  · exact h.trapHandle
  · exact .ite h.trapHandle (.ite h.trapHandle h.command)

theorem execHtake {a b c sc g} : Act.Sound (execHtake a b c sc g) := .guarded fun h => by
  dsimp only
  split
  · exact h.trapHandle
  · exact h.reserveHandle.command.landS

theorem execHtakeWd {b c sc g} : Act.Sound (execHtakeWd b c sc g) := .guarded fun h => by
  dsimp only
  split
  · exact h.trapHandle
  · exact .ite h.trapHandle h.command

theorem execSnap {a b c g} : Act.Sound (execSnap a b c g) := .guarded fun h => by
  dsimp only
  refine .withDesc h fun h _ => ?_
  split
  · exact h.illegalM
  · split
    · exact h.illegalM
    · split
      · exact h.trap
      · split
        · exact h.trap
        · split
          · exact h.trap
          · split
            · exact h.trapAlign
            · split
              · exact h.trapAlign
              · split
                · exact h.trap
                · split
                  · exact h.trapOrder
                  · refine .landS ?_
                    refine .command ?_
                    split
                    · exact h.frame
                    · exact h

theorem execGrow {b g} : Act.Sound (execGrow b g) := .guarded fun h => by
  dsimp only
  split
  · exact h.illegalM
  · split
    · exact h
    · exact h.updMe.command

theorem execCopyExecute {x} : Act.Sound (execCopyExecute x) := .next fun h => by
  split
  · split
    · split
      · exact h.pinCmd
      · split
        · exact h.pinCmd.updCmd
        · split
          · exact h.pinCmd.stepRun
          · exact h.pinCmd.wholeRun
    · exact h.pinCmd
  · exact h.pinCmd

theorem execCopyStamp {k} : Act.Sound (execCopyStamp k) := .next fun h => by
  split
  · split
    · exact .ite h.pinCmd (.draw (.endCmd (.putStamp (.ite (h.pinCmd.foldl fun h _ => h.readySlot) h.pinCmd))))
    · exact h.pinCmd
  · exact h.pinCmd

theorem execStampWrite {k} : Act.Sound (execStampWrite k) := .next fun h => by
  split
  · split
    · exact .ite h.pinCmd h.pinCmd.putStamp.endCmd
    · exact h.pinCmd
  · exact h.pinCmd

theorem execCollectiveArm {k} : Act.Sound (execCollectiveArm k) := .next fun h => by
  split
  · split
    · exact .ite (.ite h.pinCmd.expire h.pinCmd) <|
        .ite (.endCmd (.armFails (.ite h.pinCmd.expire h.pinCmd))) <|
        .ite (.endCmd (.armFails (.ite h.pinCmd.expire h.pinCmd))) <|
        .ite (.endCmd (.armFails (.ite h.pinCmd.expire h.pinCmd)))
          (.endCmd (.armEntry (.ite h.pinCmd.expire h.pinCmd)))
    · exact h.pinCmd
  · exact h.pinCmd

theorem execCollectiveDisarm {k} : Act.Sound (execCollectiveDisarm k) := .next fun h => by
  split
  · split
    · exact .ite (.ite h h.expire) <| .ite (.endCmd (.ite h h.expire)) <|
        .ite (.ite h h.expire) (.endCmd (.idleEntry (.ite h h.expire)))
    · exact h
  · exact h

theorem execSendFlagSet {k} : Act.Sound (execSendFlagSet k) := .next fun h => by
  split
  · split
    · exact .ite h (.ite h.endCmd h.updEntry.endCmd)
    · exact h
  · exact h

theorem execCollectiveSend {sd e} : Act.Sound (execCollectiveSend sd e) := .next fun h => by
  dsimp only
  split
  · exact h
  · split
    · split
      · exact h.finishHalf
      · split
        · exact h
        · split
          · exact h.engGet.stopSend
          · exact .ite h.engGet.stopSend <| .ite h.engGet.sendFailed <|
              .ite h.engGet.frame.sendTo.draw.updEntry h.engGet.frame.sendTo.draw.sentTo
    · exact h

theorem execSendComplete {sd e} : Act.Sound (execSendComplete sd e) := .next fun h => by
  dsimp only
  split
  · exact h
  · exact .ite h (.ite h.updEntry.putStampOpt.unpinSide.idleEntry h.updEntry.putStampOpt.unpinSide)

theorem execHandleOffer {k} : Act.Sound (execHandleOffer k) := .next fun h => by
  split
  · split
    · exact .ite h h.updCore.endCmd
    · exact h
  · exact h

theorem execHandleBind {k} : Act.Sound (execHandleBind k) := .next fun h => by
  split
  · split
    · dsimp only
      split
      · exact h
      · split
        · exact .ite h.endCmd.updCore.updCore h.endCmd.dropHandle.lateFault
        · exact h.endCmd.dropHandle.lateFault
    · exact h
  · exact h

theorem execHandleReturn {k} : Act.Sound (execHandleReturn k) := .next fun h => by
  split
  · split
    · split
      · exact h
      · dsimp only
        split
        · exact .ite h.endCmd.dropHandle.dropHandle h.endCmd
        · exact h.endCmd
    · exact h
  · exact h

theorem execHandleWithdraw {k} : Act.Sound (execHandleWithdraw k) := .next fun h => by
  split
  · split
    · split
      · exact h
      · dsimp only
        split
        · exact .ite h.endCmd.dropHandle h.endCmd
        · exact h.endCmd
    · exact h
  · exact h

theorem execSnapInstall {k} : Act.Sound (execSnapInstall k) := .next fun h => by
  split
  · split
    · split
      · exact h.pinCmd
      · split
        · exact h.pinCmd.putStampOpt.endCmd
        · split
          · exact h.pinCmd.dropSnap.putStampOpt.endCmd
          · exact h.pinCmd.openSnap.putStampOpt.dropPins.endCmd
    · exact h.pinCmd
  · exact h.pinCmd

theorem execSnapshotAccept {k} : Act.Sound (execSnapshotAccept k) := .next fun h => by
  split
  · split
    · exact h.pinCmd.closeAt fun h _ _ => h.acceptSnap
    · exact h.pinCmd
  · exact h.pinCmd

theorem execSnapshotReject {k} : Act.Sound (execSnapshotReject k) := .next fun h => by
  split
  · split
    · exact (h.pinCmd.closeAt fun h _ _ => h.rejectSnap).draw
    · exact h.pinCmd
  · exact h.pinCmd

theorem execGrowApply {k} : Act.Sound (execGrowApply k) := .next fun h => by
  split
  · split
    · dsimp only
      split
      · exact h.endCmd
      · exact .ite h.endCmd.updLaunch h.endCmd.updLaunch.credit.credit
    · exact h
  · exact h

theorem execBgaddApply {k} : Act.Sound (execBgaddApply k) := .next fun h => by
  split
  · split
    · dsimp only
      split
      · exact h.endCmd.credit
      · split
        · exact h.endCmd
        · split
          · exact h.endCmd.addPool.topUps
          · exact h.endCmd
    · exact h
  · exact h

theorem execRemoteFaultDelivery {taskid cause} : Act.Sound (execRemoteFaultDelivery taskid cause) := .next fun h => by
  dsimp only
  split
  · exact h.lateFault.deliverLate
  · exact h.lateFault

theorem execAgeingPromotion {q} : Act.Sound (execAgeingPromotion q) := .next fun h => by
  split
  · exact h
  · exact .ite h.updLaunch h

theorem execWaitMet {lid} : Act.Sound (execWaitMet lid) := .next fun h => by
  split
  · exact h
  · exact .ite h (h.foldl fun h _ => h.waitAsk).updLaunch.settleLaunch

theorem execStopRequest {p src} : Act.Sound (execStopRequest p src) := .next fun h => by
  dsimp only
  split
  · exact h
  · split
    · exact .ite h h.preemptPart
    · exact h.updPart

theorem execMonitorWake {p} : Act.Sound (execMonitorWake p) := .next fun h => by
  split
  · exact h
  · exact h.monitorRead

theorem execStorePerform {p k} : Act.Sound (execStorePerform p k) := .next fun h => by
  split
  · exact h
  · exact .ite h.performStore h

theorem execRetirement {k} : Act.Sound (execRetirement k) := .next fun h => by
  split
  · split
    · exact .ite h h.endCmd.retireOrWait
    · exact h
  · exact h

theorem execCompaction {core} : Act.Sound (execCompaction core) := .next fun h => by
  split
  · exact h
  · exact .ite h.shrink h.shrink.packCore.updCore.beginEvac

theorem execErrsThreshold {core idx} : Act.Sound (execErrsThreshold core idx) := .next fun h => by
  dsimp only
  split
  · exact h
  · exact .ite h h.setChart.quarantine

theorem execSoftError {e} : Act.Sound (execSoftError e) := .next fun h => by
  split
  · exact h.strikePart
  · exact h.strikePart
  · exact h.strikePart
  · exact h.correctSram
  · exact h.poisonPart
  · exact h.poisonPart
  · exact .ite h.poisonPart h
  · exact .ite h.poisonPart h
  · exact h.log.draw
  · exact .ite h h.countErr.log
  · exact h.updCore
  · exact .ite h (.ite h.addErr.countErr.log.draw (.ite h h.addErr.correctSram))
  · exact .ite h h.countErr.log.draw
  · exact h.poisonLine
  · exact h.poisonCached
  · split
    · exact h
    · exact h.poisonSram fun h => h.updResOf
  · split
    · exact h
    · exact h.poisonSram fun h => h.updRingBoth
  · exact h.poisonSram fun h => h.updRes
  · split
    · exact h
    · exact h.poisonSram fun h => h.updResOf
  · exact h.poisonPart
  · exact .ite h.poisonPart h
  · exact h.updCore
  · split
    · exact h
    · exact h.updResOf

theorem execBhpAt {rq addr size op y e} : Act.Sound (execBhpAt rq addr size op y e) := .next fun h => by
  refine .bhp1 h fun _ => ?_
  split
  · exact h.bhpRead
  · dsimp only
    split
    · exact h.reply.draw
    · split
      · exact h.reply
      · rename_i e
        exact (h.writeBy e).reply.draw

theorem execRegisterWrite {off m} : Act.Sound (execRegisterWrite off m) := .next fun h => by
  split
  · exact h.regAccess h.regWrite
  · exact h.regAccess h

theorem execReq {who r} : Act.Sound (execReq who r) := .next fun h => by
  split
  · exact h
  · split
    · exact .ite h h.serveReq
    · exact .ite h.holdReq h
    · exact .ite h.takeReq.serveReq h

theorem execSelfTestComplete {core res} : Act.Sound (execSelfTestComplete core res) := .next fun h => by
  refine .ite h (.log (.ite ?_ (.shrink (.updCore ?_)))) <;> refine .ite (.shrink (.updCore ?_)) ?_
  all_goals exact h.passEntries.restoreKept.updCore.foldl fun h _ => .ite h.retireOrWait h

theorem execContributionArrival {sd e c} : Act.Sound (execContributionArrival sd e c) :=
  .next fun h => .ite h h.contribute.draw

theorem execCollectiveTimeout {sd e} : Act.Sound (execCollectiveTimeout sd e) := .next fun h => h.expire

theorem cmdAct {c : Cmd} {x} : Act.Sound (c.act x) := by
  intro s
  unfold Cmd.act
  split
  · split
    · exact execCopyStamp s
    · exact execCopyExecute s
  · exact execStampWrite s
  · exact execSnapshotAccept s
  · exact execSnapshotReject s
  · exact execSnapInstall s
  · exact execCollectiveArm s
  · exact ⟨s, rfl, id⟩

end Act.Sound

/-! ### Accesses answered from outside -/

namespace State.Canon

variable {s : State} (h : s.Canon)
include h

theorem runOn {a : Act} (ha : a.Sound) : (runOn s a).Canon := by
  obtain ⟨t, e, ht⟩ := ha s
  rw [Machine.runOn, e]
  exact ht h

theorem farAnswered {host who write status bs} : (s.farAnswered host who write status bs).Canon := by
  unfold State.farAnswered
  split
  · split
    · exact h
    · exact .ite h (h.answering fun h => .ite h.performPend.draw h).closeSealed
  · split
    · exact h
    · exact .ite h (h.answering fun h => .ite h.performStore h)
  · split
    · exact h
    · exact .ite h (h.answering fun h => h.runOn .cmdAct)
  · dsimp only
    split
    · exact h
    · split
      · split
        · exact .ite h (h.answering fun h => h.runOn .execCollectiveSend)
        · exact h
      · split
        · split
          · exact .ite h (h.answering fun h => h.runOn .execCollectiveSend)
          · exact h
        · exact .ite h (h.answering fun h => h.runOn .execSendComplete)
  · refine .ite h (h.answering fun h => h.runOn ?_)
    split
    · exact .execContributionArrival
    · exact .execCollectiveTimeout
  · split
    · exact h
    · exact .ite h (.ite (h.updCore.answering fun h => h.told.l1Put) h.updCore)
  · exact .ite h h.pinAnswered.flush
  · split
    · exact .ite h (.ite h.outside (.ite h.spoilHome h))
    · exact h
  · exact h.monitorAnswer

end State.Canon

/-! ### The next act -/

/-- Every instruction and every event is sound. -/
theorem exec_sound (i : Instr) : Act.Sound (exec i) := by
  cases i with
  | ald | ast | aadd | azero | ascl | acvt | acks | aadam => exact .guarded fun h => h.aIssue
  | br => exact .guarded fun h => h.transfer
  | call => exact .guarded fun h => h.putS.transfer
  | bri => exact .guarded fun h => h.transferReg fun h => h.putS
  | ret => exact .guarded fun h => h.transferReg fun h => h
  | trap | brk => exact .guarded fun h => h.trapHere
  | loop => exact .guarded fun h => .ite h.trapIllegal (.ite h.updMe h.updMe)
  | loopx => exact .execLoopx
  | trig => exact .guarded fun h => h.withhold.takeEntries
  | yield | mxfmt | mxwait | exit | tret => exact .guarded fun h => h.updMe
  | cont => exact .guarded fun h => h.keepOld.updMe
  | ldB | ldBu | ldH | ldHu | ldW | ldWu | ldD | ldBMq | ldBuMq | ldHMq | ldHuMq | ldWMq | ldWuMq | ldDMq =>
    exact .guarded fun h => h.opLoad
  | ldv | ldvMq => exact .guarded fun h => h.opLoadV
  | stB | stH | stW | stD | stBMq | stHMq | stWMq | stDMq | stRelB | stRelH | stRelW | stRelD =>
    exact .guarded fun h => h.opStore
  | stv | stvMq => exact .guarded fun h => h.opStoreV
  | ldAcqB | ldAcqBu | ldAcqH | ldAcqHu | ldAcqW | ldAcqWu | ldAcqD => exact .guarded fun h => h.opAcquire
  | ldSpB | ldSpBu | ldSpH | ldSpHu | ldSpW | ldSpWu | ldSpD | ldSpBMq | ldSpBuMq | ldSpHMq | ldSpHuMq | ldSpWMq |
  ldSpWuMq | ldSpDMq =>
    exact .guarded fun h => h.opLoadSp
  | ldvSp | ldvSpMq => exact .guarded fun h => h.opLoadVSp
  | stSpB | stSpH | stSpW | stSpD | stSpBMq | stSpHMq | stSpWMq | stSpDMq => exact .guarded fun h => h.opStoreSp
  | stvSp | stvSpMq => exact .guarded fun h => h.opStoreVSp
  | ldx => exact .execLdx
  | stx => exact .execStx
  | ldxSp _ _ _ c => exact .execLdxSp (c := c)
  | stxSp _ _ _ c => exact .execStxSp (c := c)
  | atomW | casW | atomD | casD => exact .guarded fun h => h.opAtomic
  | fence => exact .guarded fun h => .ite h h.frame.acquired
  | mwait => exact .execMwait
  | prf => exact .execPrf
  | cinv | ifence => exact .guarded fun h => h.updCore
  | cinvL => exact .execCinvL
  | vjoin => exact .guarded fun h => h.joinViews
  | mxw | mxdrv => exact .guarded fun h => h.onRing fun h => h.mxIssue
  | mxmac | mxmul => exact .guarded fun h => h.onRing fun h => h.onTile fun h => h.openRemap.mxIssue
  | mxchk => exact .guarded fun h => h.onTile fun h => h.mxIssue
  | ringcfg => exact .guarded fun h => .ite h.trapRing (.ite h.trapRing h.updRing)
  | ringst => exact .guarded fun h => .ite h.trapRing h.updMe.landRing
  | tld => exact .execTld
  | tst => exact .execTst
  | matrixCommandStart => exact .next fun h => h.takeTurn
  | drainCheck => exact .next fun h => h.drainStep
  | mxwLoadComplete => exact .execMxwLoadComplete
  | mxchkComplete => exact .execMxchkComplete
  | tldComplete => exact .execTldComplete
  | tstComplete => exact .execTstComplete
  | copy => exact .execCopy
  | stamp => exact .execStamp
  | ctarm => exact .execCtarm
  | ctarmDis => exact .execCtarmDis
  | ctset => exact .execCtset
  | ctstat => exact .execCtstat
  | hgive => exact .execHgive
  | hgiveRet => exact .execHgiveRet
  | htake => exact .execHtake
  | htakeWd => exact .execHtakeWd
  | hqry | sstat => exact .guarded fun h => h.answer
  | snap => exact .execSnap
  | sacc | srej => exact .guarded fun h => h.closeSnap
  | evac => exact .guarded fun h => .ite h.illegalM h.command
  | chartq => exact .guarded fun h => .ite h.illegalM h.answer
  | grow => exact .execGrow
  | bgadd =>
    exact .guarded fun h => .ite h.illegalM (.ite h.landS (.ite h.landS (.landS (.command (.ite h h.updMe)))))
  | copyExecute => exact .execCopyExecute
  | copyStamp => exact .execCopyStamp
  | stampWrite => exact .execStampWrite
  | collectiveArm => exact .execCollectiveArm
  | collectiveDisarm => exact .execCollectiveDisarm
  | sendFlagSet => exact .execSendFlagSet
  | contributionArrival => exact .next fun h => .ite h h.contribute.draw
  | collectiveSend => exact .execCollectiveSend
  | sendComplete => exact .execSendComplete
  | collectiveTimeout => exact .next fun h => h.expire
  | handleOffer => exact .execHandleOffer
  | handleBind => exact .execHandleBind
  | handleReturn => exact .execHandleReturn
  | handleWithdraw => exact .execHandleWithdraw
  | snapInstall => exact .execSnapInstall
  | snapshotAccept => exact .execSnapshotAccept
  | snapshotReject => exact .execSnapshotReject
  | growApply => exact .execGrowApply
  | bgaddApply => exact .execBgaddApply
  | remoteFaultDelivery => exact .execRemoteFaultDelivery
  | enq => exact .guarded fun h => .ite h.illegalM (h.withDesc fun h _ => .ite h.trapHere h.publish.noteOut.answer)
  | halt => exact .guarded fun h => h.updCore.updMe
  | dispatch =>
    exact .next fun h => (h.finishEndings.foldl fun h _ => h.overcapLaunch).dispatchHeld.dispatchFrom.preemptFrom
  | ageingPromotion => exact .execAgeingPromotion
  | admission => exact .next fun h => .ite h (.ite h (.ite h.mAsk.takeEntry h.mAsk.takeSlot))
  | waitMet => exact .execWaitMet
  | bundleIssue => exact .next fun h => .ite h h.frame.issueOn.draw
  | bundleLimitDatum | datumCommit => exact .next fun h => .ite h.datum.draw h
  | interlockedResult => exact .next fun h => .ite h.performPend.closeSealed.draw h
  | budgetExhaustion | graceExhaustion => exact .next fun h => .ite h.updPart h
  | stopRequest => exact .execStopRequest
  | stopAbandon => exact .next fun h => .ite h.abandon h
  | monitorWake => exact .execMonitorWake
  | mwaitRemoteRecheck | mwaitHostPoll | wakeMessage => exact .next fun h => h.farWord
  | storePerform => exact .execStorePerform
  | retirement => exact .execRetirement
  | evacuationLineCopy => exact .next fun h => .ite h h.copyLine.nextRetire
  | compaction => exact .execCompaction
  | foldCopy => exact .next fun h => h.copyLine
  | errsThreshold => exact .execErrsThreshold
  | selfTestComplete => exact .execSelfTestComplete
  | patrolScrub => exact .next fun h => .ite h.poisonLine h
  | softError => exact .execSoftError
  | bhpRd | bhpRdAq => exact .next fun h => h.bhp1 fun _ => h.bhpRead
  | bhpWr | bhpWrRl => exact .next fun h => h.bhp1 fun _ => h.bhpWrite
  | bhpFence => exact .next fun h => .ite h.reply h
  | bhpAt => exact .execBhpAt
  | bhpCpl | rsp => exact .next fun h => h.farAnswered
  | registerWrite => exact .execRegisterWrite
  | wbaseWrite => exact .next fun h => h.regWritten (.ite h.writeWbase h)
  | queueEnable | queueDisable => exact .next fun h => h.regWritten (.ite h.writeQctl h)
  | featctlLock => exact .next fun h => h.regWritten h.writeFeatctl
  | quiesceClear => exact .next fun h => h.regWritten h.writeQuiesce
  | intcauseClear => exact .next fun h => h.regWritten h.writeCause
  | htret => exact .next fun h => h.regWritten h.applyAct
  | htopup => exact .next fun h => h.regWritten h.writeTopup
  | linkTrain => exact .next fun h => .ite h (.ite h.raise (.ite h h.updPort.frame.flush))
  | req => exact .execReq
  | pause | portRetrain => exact .next fun h => .ite h h.updPort
  | resume | ack => exact .next fun h => .ite h h.updPort.flush
  | nak => exact .next fun h => .ite h h.updPort.replayed.flush
  | flitCrcFail => exact .next fun h => .ite h h.updPort.replayed.frame
  | portDown =>
    exact .next fun h => .ite h (.draw (.leavePort (.ite h.frame.updPort.raise.log h.frame.updPort.raise.log.frame)))
  | ucieModuleFail => exact .next fun h => .ite h h.frame.raise
  | packageReset => exact .next fun h => .ite h.inReset h.inReset.bringUp
  | attestationRequest => exact .next fun h => .ite h h.frame
  | isobarWindow => exact .next fun h => .ite h.frame h
  | sadd | ssub | smul | smulh | sdiv | srem | smin | smax | sand | sor | sxor | sandn | sshl | sshr | ssra | srot =>
    exact .guarded fun h => h.opSR
  | saddSi | smulSi | sandSi | sorSi | sxorSi | sminSi | smaxSi | sshlSi | sshrSi | ssraSi | srotSi =>
    exact .guarded fun h => h.opSI
  | sclz | sctz | spopc => exact .guarded fun h => h.opCount
  | sext | sbfx | sbfi | smov | smovi | ssel | sfcvt | sget | vext | mpop => exact .guarded fun h => h.putS
  | scmp | scmpSi | pset | sfcmp => exact .guarded fun h => h.putP
  | sfadd | sfmul | sffma => exact .guarded fun h => h.putF
  | sset => exact .guarded fun h => h.sysWrite
  | vaddF | vsubF | vmulF | vminF | vmaxF => exact .guarded fun h => h.vecF2
  | vfma | vfnma | vmov | vmovs | viota | vpermc => exact .guarded fun h => h.putMasked
  | vabsF | vnegF | vrcp | vrsq | vexp2 | vlog2 => exact .guarded fun h => h.vecF1
  | vcmpF | vcmpI | vcmpN => exact .guarded fun h => h.vecCmp
  | vaddI | vsubI | vmulI | vminI | vmaxI | vminN | vmaxN | vshl | vshr | vsra | vand | vor | vxor =>
    exact .guarded fun h => h.vecI2
  | vabsI | vnegI => exact .guarded fun h => h.vecI1
  | vsel | vpack | vredr | vredc | vins => exact .guarded fun h => h.putV
  | vcvt | vcvtSat => exact .guarded fun h => h.vecCvt
  | vunpk => exact .guarded fun h => h.foldl fun h _ => h.putV
  | vquant => exact .guarded fun h => h.putV.putV.putV.updMe
  | vrotr | vbcr | vrotc | vbcc => exact .guarded fun h => h.vecMove
  | mlog | mset | mmov => exact .guarded fun h => h.putM

theorem idle_sound : Act.Sound idle := .next fun h => h.frame

/-- Acts that are all sound. -/
def Act.AllSound (l : List Act) : Prop := ∀ a ∈ l, a.Sound

namespace Act.AllSound

theorem nil : Act.AllSound [] := List.forall_mem_nil _

theorem cons {a : Act} {l : List Act} (ha : a.Sound) (hl : Act.AllSound l) : Act.AllSound (a :: l) :=
  List.forall_mem_cons.2 ⟨ha, hl⟩

theorem one {a : Act} (ha : a.Sound) : Act.AllSound [a] := .cons ha .nil

theorem append {l m : List Act} (hl : Act.AllSound l) (hm : Act.AllSound m) : Act.AllSound (l ++ m) :=
  List.forall_mem_append.2 ⟨hl, hm⟩

theorem ite {c : Prop} [Decidable c] {l m : List Act} (hl : Act.AllSound l) (hm : Act.AllSound m) :
    Act.AllSound (if c then l else m) := by
  split <;> assumption

theorem flatMap {α : Type} {l : List α} {f : α → List Act} (h : ∀ x, Act.AllSound (f x)) : Act.AllSound (l.flatMap f) :=
  List.forall_mem_flatMap.2 fun x _ => h x

theorem map {α : Type} {l : List α} {f : α → Act} (h : ∀ x, (f x).Sound) : Act.AllSound (l.map f) :=
  List.forall_mem_map.2 fun x _ => h x

theorem filterMap {α : Type} {l : List α} {f : α → Option Act} (h : ∀ x a, f x = some a → a.Sound) :
    Act.AllSound (l.filterMap f) := fun a ha => by
  obtain ⟨x, -, e⟩ := List.mem_filterMap.1 ha
  exact h x a e

theorem cmdActs {c : Cmd} {k} : Act.AllSound (c.acts k) := by
  unfold Cmd.acts
  split
  · exact .cons (exec_sound (.copyExecute ⟨k, none⟩)) (.one (exec_sound (.copyStamp k)))
  · exact .one (exec_sound (.stampWrite k))
  · exact .one (exec_sound (.collectiveArm k))
  · exact .one (exec_sound (.collectiveDisarm k))
  · exact .one (exec_sound (.sendFlagSet k))
  · exact .one (exec_sound (.handleOffer k))
  · exact .one (exec_sound (.handleReturn k))
  · exact .one (exec_sound (.handleBind k))
  · exact .one (exec_sound (.handleWithdraw k))
  · exact .one (exec_sound (.snapInstall k))
  · exact .one (exec_sound (.snapshotAccept k))
  · exact .one (exec_sound (.snapshotReject k))
  · exact .one (exec_sound (.growApply k))
  · exact .one (exec_sound (.bgaddApply k))
  · exact .one (exec_sound (.retirement k))
  · exact .nil

theorem entryActs {x : Entry} {key} : Act.AllSound (x.acts key) :=
  .append
    (.ite (.cons (exec_sound (.collectiveSend _ _)) (.one (exec_sound (.sendComplete _ _)))) .nil)
    (.ite (.one (exec_sound (.collectiveTimeout _ _))) .nil)

theorem getD {l : List Act} (h : Act.AllSound l) {n : Nat} {d : Act} (hd : d.Sound) : (l.getD n d).Sound := by
  rw [List.getD_eq_getElem?_getD]
  cases e : l[n]? with
  | none => exact hd
  | some a => exact h a (List.mem_of_getElem? e)

variable {s : State}

theorem partActs {p} : Act.AllSound (s.partActs p) :=
  .ite .nil <| .append (.append (.append (.append
    (.one (exec_sound (.bundleIssue p)))
    (.ite .nil (.one (exec_sound (.interlockedResult p 0)))))
    (.ite .nil (.cons (exec_sound (.matrixCommandStart (coreOf p))) <| .cons (exec_sound (.drainCheck (coreOf p))) <|
      .cons (exec_sound (.mxwLoadComplete p)) <| .one (exec_sound (.mxchkComplete p)))))
    (.ite .nil (.cons (exec_sound (.tldComplete p)) (.one (exec_sound (.tstComplete p))))))
    (.ite (.one (exec_sound (.monitorWake p))) .nil)

theorem coreActs {c} : Act.AllSound (s.coreActs c) :=
  .append
    (.ite (.cons (exec_sound (.evacuationLineCopy c)) (.one (exec_sound (.foldCopy c)))) .nil)
    (.ite (.one (exec_sound (.compaction c))) .nil)

theorem chartActs : Act.AllSound s.chartActs := .filterMap fun x a e => by
  obtain ⟨-, ⟨⟩⟩ := Option.ite_none_right_eq_some.1 e
  exact exec_sound (.errsThreshold _ _)

theorem meridianActs : Act.AllSound s.meridianActs :=
  .append
    (.append (.flatMap fun _ => .cons (exec_sound (.admission _)) (.one (exec_sound (.ageingPromotion _))))
      (.map fun _ => exec_sound (.waitMet _)))
    (.ite .nil (.one (exec_sound .dispatch)))

theorem storeActs : Act.AllSound s.storeActs := .filterMap fun p a e => by
  obtain ⟨k, -, rfl⟩ := Option.map_eq_some_iff.1 e
  exact exec_sound (.storePerform p k)

theorem sliceActs : Act.AllSound s.sliceActs := .map fun _ => .next fun h => h.writeBack

theorem candidates : Act.AllSound s.candidates :=
  .append (.append (.append (.append (.append (.append (.append (.append
    (.flatMap fun _ => partActs) storeActs) (.flatMap fun _ => cmdActs)) (.flatMap fun _ => entryActs))
    (.flatMap fun _ => coreActs)) chartActs) sliceActs) meridianActs) (.ite (.one (exec_sound .isobarWindow)) .nil)

end Act.AllSound

theorem State.nextAct_sound {s : State} : s.nextAct.1.Sound := by
  unfold State.nextAct
  split
  · dsimp only
    split
    · exact exec_sound _
    · exact idle_sound
  · split
    · exact idle_sound
    · next e => exact (e ▸ Act.AllSound.candidates : Act.AllSound (_ :: _)).getD idle_sound

/-! ### The bundle an act begins -/

namespace Act.Sound

theorem runSlots {n} : Act.Sound fun s => s.runSlots exec n := by
  intro s
  induction n generalizing s with
  | zero => exact ⟨s, rfl, id⟩
  | succ n ih =>
    dsimp only [State.runSlots]
    split
    · exact ⟨_, rfl, fun h => h.updMe⟩
    · next sl i rest _ =>
      split
      · exact ⟨_, rfl, fun h => h.frame.beforeOp.frame⟩
      · obtain ⟨t, e, ht⟩ := exec_sound i (({ s with slots := rest } : State).beforeOp sl i)
        rw [e]
        obtain ⟨u, e', hu⟩ := ih (if State.checked _ sl i then t.residueCheck t.focus else t).draw
        exact ⟨u, e', fun h => hu (.draw (.ite (ht h.frame.beforeOp).residueCheck (ht h.frame.beforeOp)))⟩

/-- The copy answers for the bundle from s to t: from the state that began it or from the one that it reached. -/
theorem vaneRun {s t : State} : ∃ u, s.vaneRun t = .next u ∧ (s.Canon → t.Canon → u.Canon) := by
  obtain ⟨u, e, -⟩ := runSlots (n := 7) (s.updMe Part.vaneCopy)
  dsimp only at e
  unfold State.vaneRun
  rw [e]
  dsimp only
  split
  · exact ⟨_, rfl, fun h _ => h.mismatch⟩
  · split
    · exact ⟨t, rfl, fun _ h => h⟩
    · exact ⟨_, rfl, fun _ h => h.updPart⟩

theorem runBundle : Act.Sound State.runBundle := by
  intro s
  obtain ⟨t, e, ht⟩ := runSlots (n := 7) s
  unfold State.runBundle
  dsimp only at e
  rw [e]
  dsimp only
  split
  · exact ⟨t, rfl, ht⟩
  · obtain ⟨u, e', hu⟩ := vaneRun (s := s) (t := t)
    exact ⟨u, e', fun h => hu h (ht h)⟩

theorem finish : Act.Sound State.finish := by
  intro s
  unfold State.finish
  split
  · exact ⟨s, rfl, id⟩
  · obtain ⟨t, e, ht⟩ := runBundle s
    rw [e]
    exact ⟨_, rfl, fun h => (ht h).closeSealed⟩

theorem runAct {a : Act} (ha : a.Sound) : Act.Sound (runAct a) := by
  intro s
  obtain ⟨t, e, ht⟩ := ha s
  obtain ⟨u, e', hu⟩ := finish t
  rw [Machine.runAct, e]
  exact ⟨u, e', fun h => hu (ht h)⟩

/-- Every step is sound: the next act with its bundle, and what follows from them. -/
theorem step : Act.Sound step := by
  intro s
  obtain ⟨t, e, ht⟩ := s.nextAct_sound.runAct s.nextAct.2
  rw [Machine.step, e]
  exact ⟨_, rfl, fun h => (ht h.nextAct).afterStep⟩

end Act.Sound

end Sys2Proof.Machine

/-! ### The obligations -/

namespace Sys2Proof

open Machine

/-- Settles O9: every act that a step can take answers a next state, and so does the bundle it begins. -/
theorem stepNeverStops : Obligations.StepNeverStops := by
  unfold Obligations.StepNeverStops
  intro s
  obtain ⟨t, e, -⟩ := Act.Sound.step s
  exact ⟨t, e⟩

/-- Settles O11: every function that makes a state from another keeps the canonical form of both memories. -/
theorem memoryFormInvariant : Obligations.MemoryFormInvariant := by
  unfold Obligations.MemoryFormInvariant
  intro s t h e
  obtain ⟨u, e', hu⟩ := Act.Sound.step s
  obtain rfl : u = t := by simpa using e'.symm.trans e
  exact State.canon_iff_memWf.1 (hu (State.canon_iff_memWf.2 h))

end Sys2Proof
end

section
/-! SUPPORT. O55 fails on a stamp that two HBM4 stacks share: R92 aligns a stamp to 8 bytes, and neither the descriptor of an entry nor
`Plain`, which speaks of the home of the first byte alone, says so here. -/

namespace Sys2Proof.Says

open Machine

/-- The byte at the top of a stamp in HBM4 holds the status below the error bit (R92). -/
theorem Stamped.status_eq {s t : State} {a status : Nat} {seq : BitVec 56} (h : Stamped s t (.hbm a) status seq) :
    status = (Mem.read t.mem.cells (a + 7)).toNat % 2 ^ 7 := by
  obtain ⟨w, ⟨hmem, -⟩, -, hstatus, -⟩ := h
  have htop : Mem.read t.mem.cells (a + 7) = w.extractLsb' 56 8 := by
    rw [hmem, if_pos ⟨rfl, Nat.le_add_right a 7, Nat.add_lt_add_left (by simp [wordBytes] : 7 < (wordBytes w).length) a⟩]
    simp [Loc.addr, wordBytes, nth]
  rw [htop, ← hstatus, BitVec.extractLsb'_toNat, Nat.shiftRight_eq_div_pow, Nat.mod_mod_of_dvd _ (by decide)]

end Sys2Proof.Says

namespace Sys2Proof.StampAcrossStacks

open Machine Says

/-- The last 4 bytes of stack 0 of package 0: a stamp there ends in stack 1. -/
def stackEdge : Nat := 2 ^ 36 - 4

/-- A receive side with a deadline of 1 µs, whose completion stamp lies across the edge. -/
def edgeDesc : ArmDesc :=
  { rx := true, tx := false, op := 0, sfmt := 0, expect := 1, anchor := 0, deadline := 1, dtile := 0, result := none, consumers := 0
    cstamp := some ⟨.hbm stackEdge, 0⟩, cseq := 0, source := none, sstamp := none, sseq := 0, peers := [] }

/-- Entry 0 of domain 0, armed with it at cycle 0, as its deadline passes; stack 1 has failed to train (R369 step 4). -/
def edgeState : State :=
  { State.reset with cyc := 2250, absent := 2, entries := [(0, { Entry.idle with rst := 1, desc := some edgeDesc })] }

/-- The home of the first byte of the stamp is reachable, so the state is plain there. -/
theorem edgeState_plain : Plain edgeState (.hbm stackEdge) := by
  unfold Plain
  decide +kernel

/-- The half of the stamp that lies in stack 1 is lost (R93, R362). -/
theorem edgeState_timeout : ∃ t, exec (.collectiveTimeout 0 0) edgeState = .next t ∧ Mem.read t.mem.cells (stackEdge + 7) = 0 :=
  ⟨edgeState.expire 0 0, rfl, by decide +kernel⟩

end Sys2Proof.StampAcrossStacks

namespace Sys2Proof

open Machine Says StampAcrossStacks

/-- Refutes O55, in its last clause: a timeout whose completion stamp is not aligned to 8 bytes, so that its last 4 bytes lie in a stack
that failed to train. Its status, 11, is never written. -/
theorem not_collectiveEvents : ¬ Obligations.CollectiveEvents := by
  unfold Obligations.CollectiveEvents
  rintro ⟨-, arrivals⟩
  obtain ⟨-, -, -, -, timeout⟩ := arrivals edgeState 0 0
  obtain ⟨t, ht, -, stamped⟩ := timeout edgeDesc ⟨.hbm stackEdge, 0⟩ rfl rfl (by decide) (by decide) rfl edgeState_plain
  obtain ⟨u, hu, lost⟩ := edgeState_timeout
  obtain rfl : t = u := by simpa using ht.symm.trans hu
  have status : 11 = (Mem.read t.mem.cells (stackEdge + 7)).toNat % 2 ^ 7 := stamped.status_eq
  rw [lost] at status
  exact absurd status (by decide)

end Sys2Proof
end
